-- ==== Sys2Proof/Word.lean ====
section
/-! DEFINITION. The bit-vector types of the part: the host window's words, the office
characters of the terminals and the codes of the five-level line. -/

namespace Sys2Proof

/-- A word of the host's register window: 16 bits (10, section 10.1). -/
abbrev Word := BitVec 16

/-- An office character: a 7-bit value, 0 to 127 (R26). -/
abbrev Office := BitVec 7

/-- A five-level code, 0 to 31: unit 1 counts 1, unit 5 counts 16 (R14, R29). -/
abbrev Code := BitVec 5

end Sys2Proof
end

