-- ==== Sys2Proof/Syntax.lean ====
section
/-! DEFINITION. The steps of the part, one constructor per row of spec/opcode_table.json.
A host command is a write of its number to COMMAND and reads ARG0 to ARG7 as they stand (R165), so it
carries no operand here. A row that names one case of a wider step changes nothing when the state
makes that step another row's case (log 1). -/

namespace Sys2Proof

/-- A line or terminal input as read: mark or space (R12, R48). -/
inductive Signal
  | space
  | mark
  deriving DecidableEq, Repr

/-- Whose character time completes: the motor sequencer and the control counter of a circuit each
measure character times from their own start (R141, R144; log 6). -/
inductive Counted
  | motor
  | counter
  | both
  deriving DecidableEq, Repr

/-- One step of the part. `held` is how many ticks of the line reference the new level of an edge has
held, which the glitch filter judges (R13; log 2). -/
inductive Instr
  /-- POWER_ON_RESET (R164). -/
  | powerOnReset
  /-- STORY_FIND (R167). -/
  | storyFind
  /-- STORY_KILL (R92). -/
  | storyKill
  /-- STORY_HOLD (R90). -/
  | storyHold
  /-- STORY_RELEASE (R91). -/
  | storyRelease
  /-- STORY_PRIORITY (R95). -/
  | storyPriority
  /-- STORY_ADD_OUTLET (R109). -/
  | storyAddOutlet
  /-- STORY_DROP_OUTLET (R111). -/
  | storyDropOutlet
  /-- RETIRE (R98). -/
  | retire
  /-- RETIRE_CLOSED (R98). -/
  | retireClosed
  /-- NEXT_CHANGED (R168). -/
  | nextChanged
  /-- SET_NEXT_NUMBER (R77). -/
  | setNextNumber
  /-- DESK_WRITE (R102). -/
  | deskWrite
  /-- DESK_REMOVE (R104). -/
  | deskRemove
  /-- CIRCUIT_SET, section 0 (R8, R169). -/
  | circuitSet
  /-- CIRCUIT_SET, section 1 (R169). -/
  | circuitSetSection1
  /-- CIRCUIT_SET, section 2 (R169). -/
  | circuitSetSection2
  /-- CIRCUIT_OPEN (R2). -/
  | circuitOpen
  /-- CIRCUIT_CLOSE (R4). -/
  | circuitClose
  /-- SURVEY_START (R20). -/
  | surveyStart
  /-- SURVEY_STOP (R22). -/
  | surveyStop
  /-- SURVEY_CANCEL (R24). -/
  | surveyCancel
  /-- COUNTER_ACTION with action IDLE (R145). -/
  | counterActionIdle
  /-- COUNTER_ACTION with action ONCE (R146). -/
  | counterActionOnce
  /-- COUNTER_ACTION with action REPEAT (R146). -/
  | counterActionRepeat
  /-- COUNTER_ACTION with action DELAYED_ONCE (R146). -/
  | counterActionDelayedOnce
  /-- COUNTER_ACTION with action DELAYED_REPEAT (R146). -/
  | counterActionDelayedRepeat
  /-- COUNTER_ACTION with action HOLD (R146). -/
  | counterActionHold
  /-- COUNTER_ACTION with action RELEASE (R146). -/
  | counterActionRelease
  /-- COUNTER_ACTION with action FORCE_IDLE (R146). -/
  | counterActionForceIdle
  /-- OUTPUT_SET (R152). -/
  | outputSet
  /-- TERMINAL_SET with enable on, the port DISABLED (R45). -/
  | terminalSetEnable
  /-- TERMINAL_SET with enable on, the port ENABLED (R46). -/
  | terminalSetReconfigure
  /-- TERMINAL_SET with enable off (R47). -/
  | terminalSetDisable
  /-- PAGE_WRITE (R40). -/
  | pageWrite
  /-- CLOCK_SET (R176). -/
  | clockSet
  /-- SET_BLOCK_LIMIT (R170). -/
  | setBlockLimit
  /-- TRAFFIC_RESET (R177). -/
  | trafficReset
  /-- A write to COMMAND of a number outside 1 to 26 (R165). -/
  | unknownCommand (number : Word)
  /-- A write to CONTROL (R164, R177). -/
  | controlWrite (value : Word)
  /-- A write to NOTICE (R174). -/
  | noticeWrite (value : Word)
  /-- A write to NOTICE_ENABLE (R175). -/
  | noticeEnableWrite (value : Word)
  /-- A write to SELECT (R171). -/
  | selectWrite (value : Word)
  /-- A read of CLOCK_HI (R176). -/
  | clockHiRead
  /-- A read of WINDOW0 (R171). -/
  | window0Read
  /-- A write of one word of the window, at any offset (R164; log 3). -/
  | registerWrite (offset : Nat) (value : Word)
  /-- A character's stop sample on a circuit: the code and the stop level that its samples read of the
  edges accepted inside it (R13 to R15; log 2). -/
  | characterReceived (c : Fin 16) (code : Code) (stop : Signal)
  /-- The space of an all-space character ends before 16 units (R15). -/
  | allSpaceEnded (c : Fin 16) (held : Nat)
  /-- Receive space reaches 16 units (R16). -/
  | farBreakBegins (c : Fin 16)
  /-- The space-to-mark edge that ends a far break (R16). -/
  | farBreakEnds (c : Fin 16) (held : Nat)
  /-- A mark-to-space edge on a LOST circuit with its receiver IDLE (R6). -/
  | lostSpaceEdge (c : Fin 16) (held : Nat)
  /-- The loss timer expires (R5). -/
  | circuitLost (c : Fin 16)
  /-- The restore timer expires (R6). -/
  | circuitRestored (c : Fin 16)
  /-- An accepted edge during a survey: the level after it and the ticks since the edge before
  (R21). -/
  | surveyEdge (c : Fin 16) (level : Signal) (pulse held : Nat)
  /-- A timed survey gate expires (R22). -/
  | surveyGateExpiry (c : Fin 16)
  /-- The stop element of a five-level character completes on the send side (R18). -/
  | characterSent (c : Fin 16)
  /-- An owed fill is taken by the send side (R150). -/
  | timeFill (c : Fin 16)
  /-- A character's stop sample on a terminal port: data bits, parity bit (a mark is true) and stop
  level (R48). -/
  | terminalCharacterReceived (t : Fin 8) (data : Office) (parity : Bool) (stop : Signal)
  /-- The stop bit of an office character completes on a terminal's send side (R53). -/
  | terminalCharacterSent (t : Fin 8)
  /-- A terminal's ready input rises (R117). -/
  | readyInRises (t : Fin 8)
  /-- A terminal's ready input falls (R117). -/
  | readyInFalls (t : Fin 8)
  /-- A terminal's framer takes the head of the input queue (R57). -/
  | framerTake (t : Fin 8)
  /-- A story's idle timer expires (R88). -/
  | idleExpiry (slot : Fin 48)
  /-- A story's block timer expires (R86). -/
  | blockLimitExpiry (slot : Fin 48)
  /-- A terminal outlet's stall timer expires (R138). -/
  | stall (t : Fin 8)
  /-- The motor character time that completes the lead (R141). -/
  | motorLeadComplete (c : Fin 16)
  /-- The motor character time that completes the run-on (R142). -/
  | runOnComplete (c : Fin 16)
  /-- The counter character time that completes the delay (R146). -/
  | delayComplete (c : Fin 16)
  /-- The counter character time that completes the count (R146). -/
  | countComplete (c : Fin 16)
  /-- The counter character time that reaches a toggle position in effect (R147). -/
  | counterToggle (c : Fin 16)
  /-- The CR that completes an S request (R158). -/
  | sRequest (t : Fin 8)
  /-- The CR that completes an L request (R159). -/
  | lRequest (t : Fin 8)
  /-- The CR that completes an H request (R160). -/
  | hRequest (t : Fin 8)
  /-- The CR that completes a G request (R160). -/
  | gRequest (t : Fin 8)
  /-- The CR that completes a K request (R161). -/
  | kRequest (t : Fin 8)
  /-- The CR that completes a P request (R161). -/
  | pRequest (t : Fin 8)
  /-- The CR that completes a J request (R162). -/
  | jRequest (t : Fin 8)
  /-- The CR that completes an X request (R162). -/
  | xRequest (t : Fin 8)
  /-- The CR that completes a request that is not well formed (R155). -/
  | noForm (t : Fin 8)
  /-- The CR that completes a request while the reply slot is occupied (R157). -/
  | requestBusy (t : Fin 8)
  /-- A mark-to-space edge that begins a character on a circuit (R14). -/
  | lineStartEdge (c : Fin 16) (held : Nat)
  /-- A start sample that reads mark on a circuit (R14). -/
  | lineFalseStart (c : Fin 16)
  /-- An accepted edge dated inside a character: the level after it and its ticks after the start edge
  (R13, R17; log 31). -/
  | edgeInsideCharacter (c : Fin 16) (level : Signal) (ticks held : Nat)
  /-- A space-to-mark edge on a LOST circuit with its receiver IDLE (R6). -/
  | lostMarkEdge (c : Fin 16) (held : Nat)
  /-- A mark-to-space edge that begins a character on a terminal input (R48). -/
  | terminalStartEdge (t : Fin 8)
  /-- A start sample that reads mark on a terminal input (R48). -/
  | terminalFalseStart (t : Fin 8)
  /-- A space-to-mark edge on a terminal input in WAIT_MARK (R48). -/
  | terminalMarkReturn (t : Fin 8)
  /-- A second of the timebase (R176; log 5). -/
  | storyClockAdvance
  /-- A character time of a circuit completes (R141, R142, R146). -/
  | characterTimeCompleted (c : Fin 16) (which : Counted)
  deriving DecidableEq, Repr

end Sys2Proof
end

