-- ==== Sys2Proof/Decode.lean ====
section
/-! DEFINITION. The decoder over the rows of spec/opcode_table.json that give bits: there is none, for
the part takes commands and events, not words of instructions (log 23). -/

namespace Sys2Proof

/-- The command a table word spells: none, no row having bits (log 23). -/
def decodeTableWord (_nbits _w : Nat) : Option Instr := none

end Sys2Proof
end

