-- ==== Sys2Proof/Config.lean ====
section
/-! DEFINITION. What the part fixes once for all, and the free values: what the spec leaves open and
nothing in the model constrains. -/

namespace Sys2Proof

/-- The part's identification word (10.1). -/
def Config.ident : Word := 0x1608#16

/-- The largest value of a count held in a record (00, Numbers). -/
def Config.countMax : Nat := 65535

/-- The largest value of a slip count (00, Numbers). -/
def Config.slipMax : Nat := 255

/-- Characters of a story's text window (R73). -/
def Config.windowSize : Nat := 128

/-- The taken count at which a story is closed with TOO_LONG (R83). -/
def Config.takenMax : Nat := 65535

/-- Bound on the decisions one outlet makes inside one step (log 8): far above what its stories'
windows, items and waiting lists can ask for. -/
def Config.driveFuel : Nat := 100000

/-- Bound on the outlet reactions inside one step (log 8). -/
def Config.settleFuel : Nat := 100000

/-- FREE VALUE: what a mark argument that is neither 0 nor 1 means, where the command's checks do not
refuse it (DESK_WRITE's two marks, SURVEY_START's adopt option; log 12). -/
opaque Config.unstatedMark : Nat → Bool

/-- FREE VALUE: the word the outlet view shows for a field that this kind of outlet does not keep, by
outlet number and word (R113, R173; log 13). -/
opaque Config.absentOutletField : Nat → Nat → Word

end Sys2Proof
end

