-- ==== Sys2Proof/Machine/Records.lean ====
section
/-! DEFINITION. The part's records as plain data, each after the table of the spec that gives it.
Lists of named values stand in the order the spec gives them. -/

namespace Sys2Proof.Machine

/-- A line level or the level of a control output or ready line. -/
inductive Level
  | low
  | high
  deriving DecidableEq, Repr

/-- A plane of the five-level code (00, Terms). -/
inductive Plane
  | letters
  | figures
  deriving DecidableEq, Repr

/-- A story priority, F highest and D lowest (00, Names). -/
inductive Priority
  | f
  | b
  | u
  | r
  | d
  deriving DecidableEq, Repr

/-- A two-letter desk code, as two office characters (R166). -/
structure DeskCode where
  first : Office
  second : Office
  deriving DecidableEq, Repr

/-- The source of a story (R73). -/
inductive Source
  | circuit (c : Fin 16)
  | terminal (t : Fin 8)
  deriving DecidableEq, Repr

/-! ## Line circuits (01) -/

/-- A stop element of 1, 1.5 or 2 units (R7). -/
inductive StopLength
  | one
  | oneAndHalf
  | two
  deriving DecidableEq, Repr

/-- Which line level is mark (R12). -/
inductive Polarity
  | markHigh
  | markLow
  deriving DecidableEq, Repr

/-- The glitch filter's width as a fraction of a unit (R7, R13). -/
inductive GlitchFilter
  | off
  | sixteenth
  | eighth
  | quarter
  deriving DecidableEq, Repr

/-- A circuit's configuration (R7), each field at its default. -/
structure CircuitConfig where
  speedClass : Nat := 2
  programmedN : Nat := 24576
  stop : StopLength := .oneAndHalf
  polarity : Polarity := .markHigh
  filter : GlitchFilter := .eighth
  page : Fin 4 := 0
  unshiftOnSpace : Bool := false
  shiftGuard : Bool := true
  width : Nat := 69
  lossTime : Nat := 10
  restoreTime : Nat := 5
  idleLimit : Nat := 120
  breakStopsSending : Bool := false
  answerback : List Office := []
  motorLead : Nat := 8
  runOn : Nat := 30
  deriving DecidableEq, Repr

/-- Circuit states (R1). -/
inductive CircuitState
  | closed
  | opened
  | lost
  deriving DecidableEq, Repr

/-- Receiver phases of a circuit (R1). -/
inductive RxPhase
  | hunting
  | inCharacter
  | farBreak
  | idle
  deriving DecidableEq, Repr

/-- Survey gates (R20). -/
inductive SurveyGate
  | oneSecond
  | fourSeconds
  | eightSeconds
  | untimed
  deriving DecidableEq, Repr

/-- Survey results (R21). -/
inductive SurveyResult
  | noSignal
  | noMatch
  | speedClass (k : Nat)
  | cancelled
  deriving DecidableEq, Repr

/-- The survey record (R21), at its power-on values (R1). -/
structure SurveyRecord where
  gate : SurveyGate := .oneSecond
  adopt : Bool := false
  elapsed : Nat := 0
  edges : Nat := 0
  shortestMark : Nat := 65535
  shortestSpace : Nat := 65535
  result : Option SurveyResult := none
  adopted : Bool := false
  deriving DecidableEq, Repr

/-- Who handed the send side the code on the line: the outlet's unit in progress, the time fill, or a
unit since abandoned, whose last character still completes (R5, R118; log 20). -/
inductive SendOwner
  | unit
  | fill
  | orphan
  deriving DecidableEq, Repr

/-- The five-level code on a circuit's line, with the unit interval, stop length and polarity the
character started at and completes at (R10, R18). -/
structure LineChar where
  code : Code
  owner : SendOwner
  n : Nat
  stop : StopLength
  polarity : Polarity
  deriving DecidableEq, Repr

/-- An accepted edge inside a character: the level after it, and the ticks it is dated after the start
edge (R13, R17). -/
structure LineEdge where
  level : Signal
  ticks : Nat
  deriving DecidableEq, Repr

/-- What a send output drives: a steady level, or the elements of the character in progress in their
order, each a level and its length in ticks of the line reference (R18, R53; log 30). -/
inductive Drive (α : Type)
  | steady (level : α)
  | elements (l : List (α × Nat))
  deriving DecidableEq, Repr

/-- The counters of a circuit record (R1), in its order. -/
structure CircuitCounts where
  received : Nat := 0
  sent : Nat := 0
  framingErrors : Nat := 0
  farBreaks : Nat := 0
  losses : Nat := 0
  earlySlips : Nat := 0
  lateSlips : Nat := 0
  refusedOpens : Nat := 0
  looseCopy : Nat := 0
  deriving DecidableEq, Repr

/-- The circuit record (R1), at its power-on values. The send phase is SENDING while `sending` holds
the code on the line. `rxLine` is the accepted level of the receive input (R13; log 9), `edges` are the
accepted edges of the character being received, which its samples read (R13, R14; log 31), `allSpace`
says that an all-space character's space is running (R15; log 27), and `afterStop` that no edge has been
accepted since the last stop sample (R17; log 31). -/
structure Circuit where
  state : CircuitState := .closed
  survey : Bool := false
  config : CircuitConfig := {}
  pendingConfig : Option CircuitConfig := none
  rxPlane : Plane := .letters
  rxPhase : RxPhase := .idle
  lossTimer : Option Nat := none
  restoreTimer : Option Nat := none
  sending : Option LineChar := none
  slipFlag : Bool := false
  counts : CircuitCounts := {}
  surveyRec : SurveyRecord := {}
  rxLine : Level := .high
  edges : List LineEdge := []
  allSpace : Bool := false
  afterStop : Bool := false
  deriving DecidableEq, Repr

/-! ## Code pages (02) -/

/-- An entry of a receive map (R27). -/
inductive RxEntry
  | char (o : Office)
  | planeLetters
  | planeFigures
  | drop
  | bell
  | answerback
  | subst
  deriving DecidableEq, Repr

/-- The plane of a send map entry (R27). -/
inductive SendPlane
  | letters
  | figures
  | both
  deriving DecidableEq, Repr

/-- An entry of a send map (R27). -/
inductive SendEntry
  | code (c : Code) (plane : SendPlane)
  | subst
  | drop
  deriving DecidableEq, Repr

/-- A code page (R27). -/
structure Page where
  rxLetters : Vector RxEntry 32
  rxFigures : Vector RxEntry 32
  send : Vector SendEntry 128
  substitute : Office
  deriving DecidableEq, Repr

/-! ## Terminal ports and request parsers (03, 09) -/

/-- Terminal speeds (R44). -/
inductive Speed
  | baud300
  | baud600
  | baud1200
  | baud2400
  | baud4800
  | baud9600
  deriving DecidableEq, Repr

/-- Terminal parity (R44). -/
inductive Parity
  | even
  | odd
  | off
  deriving DecidableEq, Repr

/-- Authorities, CHIEF highest (R44). -/
inductive Authority
  | view
  | desk
  | chief
  deriving DecidableEq, Repr

/-- A port's configuration (R44), each field at its default. -/
structure PortConfig where
  speed : Speed := .baud1200
  parity : Parity := .even
  width : Nat := 80
  authority : Authority := .view
  stallTime : Nat := 60
  idleLimit : Nat := 300
  enable : Bool := false
  deriving DecidableEq, Repr

/-- Receiver phases of a terminal port (R43). -/
inductive PortPhase
  | idle
  | hunting
  | inCharacter
  | waitMark
  deriving DecidableEq, Repr

/-- The office character on a terminal's line, with the speed and parity it started at and completes at
(R46, R53); `orphan` when its unit was abandoned (log 20). -/
structure PortChar where
  char : Office
  orphan : Bool
  speed : Speed
  parity : Parity
  deriving DecidableEq, Repr

/-- The counters of a port record (R43), in its order. -/
structure PortCounts where
  received : Nat := 0
  sent : Nat := 0
  framingErrors : Nat := 0
  parityErrors : Nat := 0
  overruns : Nat := 0
  dropped : Nat := 0
  requestBusy : Nat := 0
  refusedOpens : Nat := 0
  looseCopy : Nat := 0
  deriving DecidableEq, Repr

/-- The port record (R43), at its power-on values. `rxMark` (the receive input reads mark) and `readyPin` are the input pins
(log 9); `readyIn` is the ready input as last read, which a DISABLED port does not do. -/
structure Port where
  enabled : Bool := false
  config : PortConfig := {}
  rxPhase : PortPhase := .idle
  requestMode : Bool := false
  afterRequest : Bool := false
  queue : List Office := []
  readyOut : Level := .low
  readyIn : Level := .low
  sending : Option PortChar := none
  replySlot : Option (List Office) := none
  counts : PortCounts := {}
  rxMark : Bool := true
  readyPin : Level := .low
  deriving DecidableEq, Repr

/-- A request parser (R154). -/
structure Parser where
  buffer : List Office := []
  overflow : Bool := false
  deriving DecidableEq, Repr

/-! ## Story framers (04) -/

/-- Framer states (R56). -/
inductive FramerState
  | idle
  | openerMatch
  | header
  | inStory
  | closerMatch
  | discard
  deriving DecidableEq, Repr

/-- The state a failed match returns to (R56). -/
inductive MatchOrigin
  | idle
  | discard
  | inStory
  deriving DecidableEq, Repr

/-- The framer record (R56), at its reset values. `withdrawn` says that a hold withdrew a write, which
release claims again (R67, R91; log 27). -/
structure Framer where
  state : FramerState := .idle
  origin : Option MatchOrigin := none
  lineStart : Bool := true
  lineEnd : Bool := false
  tail : Bool := false
  holdBack : List Office := []
  header : List Office := []
  slot : Option (Fin 48) := none
  outstanding : Option (List Office) := none
  withdrawn : Bool := false
  deriving DecidableEq, Repr

/-! ## The story table (05) -/

/-- Why an entry is SUSPENDED (R74). -/
inductive SuspendCause
  | preempted
  | held
  deriving DecidableEq, Repr

/-- Why an entry was cut (R74). -/
inductive CutReason
  | lapped
  | blockLimit
  | stall
  | removed
  | killed
  | outletLost
  deriving DecidableEq, Repr

/-- Entry states; the suspension cause stands in SUSPENDED only and the cut reason in CUT only
(R74). -/
inductive EntryState
  | waiting
  | carrying
  | suspended (cause : SuspendCause)
  | done
  | cut (reason : CutReason)
  deriving DecidableEq, Repr

/-- The notice an entry's outlet sends before its next text (R74). -/
inductive EntryNotice
  | none
  | header
  | resume
  | joined
  deriving DecidableEq, Repr

/-- A destination entry (R74). -/
structure Entry where
  outlet : Fin 24
  state : EntryState
  holdMark : Bool := false
  start : Nat
  read : Nat
  delivered : Nat := 0
  lost : Nat := 0
  owed : EntryNotice
  deriving DecidableEq, Repr

/-- Story states (R73). -/
inductive StoryState
  | free
  | header
  | running
  | held
  | closing
  | closed
  deriving DecidableEq, Repr

/-- Close reasons (R73). -/
inductive CloseReason
  | closer
  | idleEnd
  | tooLong
  | killed
  | sourceLost
  | headerFault
  | unknownDesk
  | noRoute
  | noOutlet
  deriving DecidableEq, Repr

/-- Who holds a HELD story (R73). -/
inductive Holder
  | host
  | terminal (t : Fin 8)
  deriving DecidableEq, Repr

/-- The story record (R73) with its block timer (R86). The values given here are those of a FREE
record, which carry no meaning (log 17). Timers hold their elapsed seconds. -/
structure Story where
  state : StoryState := .free
  number : Nat := 0
  origin : Option Nat := none
  priority : Option Priority := none
  desk : Option DeskCode := none
  routedDesk : Option DeskCode := none
  slug : Option (List Office) := none
  correctionOf : Option Nat := none
  source : Source := .circuit 0
  opened : Nat := 0
  closed : Option Nat := none
  reason : Option CloseReason := none
  taken : Nat := 0
  lines : Nat := 0
  window : List Office := []
  entries : List Entry := []
  heldBy : Option Holder := none
  blockedSince : Option Nat := none
  blockTimer : Option Nat := none
  idleTimer : Option Nat := none
  changed : Bool := false
  deriving DecidableEq, Repr

/-! ## The desk directory (06) -/

/-- A desk entry (R101); bit n of the outlet set stands for On. -/
structure Desk where
  code : DeskCode
  outlets : BitVec 24
  floor : Priority
  fallback : Option DeskCode
  isDefault : Bool
  echo : Bool
  routed : Nat := 0
  deriving DecidableEq, Repr

/-! ## Outlets (07) -/

/-- Outlet states (R113). -/
inductive OutletState
  | off
  | idle
  | starting
  | sending
  | paused
  | stalled
  deriving DecidableEq, Repr

/-- Kinds of owed item (R113). -/
inductive OwedKind
  | breakIn
  | held
  | cut
  | kill
  deriving DecidableEq, Repr

/-- An item of an owed-notice list (R113). -/
structure OwedItem where
  kind : OwedKind
  slot : Fin 48
  deriving DecidableEq, Repr

/-- What a notice line is, for what its completion records (R120). -/
inductive NoticeKind
  | entry (slot : Fin 48)
  | closer (slot : Fin 48)
  | item
  deriving DecidableEq, Repr

/-- The kinds of unit (R119). -/
inductive UnitKind
  | text
  | notice (n : NoticeKind)
  | reply
  | answerback
  deriving DecidableEq, Repr

/-- A unit in progress with the part of it not yet sent: the codes of the character begun, and the
office characters not yet converted (R113, R42). -/
structure OutUnit where
  kind : UnitKind
  codes : List Code := []
  chars : List Office
  deriving DecidableEq, Repr

/-- The outlet record (R113), at its power-on values. -/
structure Outlet where
  state : OutletState := .off
  holder : Option (Fin 48) := none
  waiting : List (Fin 48) := []
  owed : List OwedItem := []
  unit : Option OutUnit := none
  answerbackOwed : Bool := false
  counterBreak : Bool := false
  farBreak : Bool := false
  plane : Plane := .letters
  shiftOwed : Bool := true
  column : Nat := 0
  stallTimer : Option Nat := none
  substitutions : Nat := 0
  drops : Nat := 0
  stalls : Nat := 0
  deriving DecidableEq, Repr

/-! ## Circuit control units (08) -/

/-- Motor sequencer states (R140). -/
inductive MotorState
  | off
  | starting
  | running
  | runOn
  deriving DecidableEq, Repr

/-- Control counter phases (R140). -/
inductive CounterPhase
  | idle
  | delay
  | counting
  | holding
  deriving DecidableEq, Repr

/-- Uses of the control counter (R144). -/
inductive CounterUse
  | wave
  | lineBreak
  | fill
  deriving DecidableEq, Repr

/-- The actions of COUNTER_ACTION (R145). -/
inductive CounterAction
  | idle
  | once
  | repeated
  | delayedOnce
  | delayedRepeat
  | hold
  | release
  | forceIdle
  deriving DecidableEq, Repr

/-- The counter settings (R144), at their power-on values (R140). -/
structure CounterSettings where
  use : CounterUse := .wave
  max : Nat := 1
  delay : Nat := 0
  skip : Bool := false
  startLevel : Level := .low
  toggles : List Nat := []
  deriving DecidableEq, Repr

/-- The conditions a selector input names (R151). -/
inductive Condition
  | motorWanted
  | counterWave
  | flashHeld
  | storyWaiting
  | farBreak
  | outletPaused
  | zero
  deriving DecidableEq, Repr

/-- A selector: two inputs and the four levels of its truth table in the order of R151. -/
structure Selector where
  inputA : Condition
  inputB : Condition
  ff : Level
  ft : Level
  tf : Level
  tt : Level
  deriving DecidableEq, Repr

/-- The control record (R140), at its power-on values. `action` is the action the counter runs
(R146; log 27). -/
structure Control where
  motor : MotorState := .off
  motorCount : Nat := 0
  motorTarget : Nat := 0
  phase : CounterPhase := .idle
  value : Nat := 0
  firstPass : Bool := false
  fillOwed : Bool := false
  wave : Level := .low
  settings : CounterSettings := {}
  action : CounterAction := .once
  motorSel : Selector := ⟨.motorWanted, .zero, .low, .low, .high, .high⟩
  signalSel : Selector := ⟨.flashHeld, .farBreak, .low, .high, .high, .high⟩
  motorOut : Level := .low
  signalOut : Level := .low
  deriving DecidableEq, Repr

/-! ## The host port (10) -/

/-- Result codes, in the order of their numbers (R166). -/
inductive ResultCode
  | ok
  | badArgument
  | badState
  | noSuchStory
  | notTerminalSource
  | duplicate
  | slowPath
  | outletUnavailable
  | tableFull
  | pageFixed
  | pageInUse
  | circuitBusy
  | numberInUse
  | noticePending
  | unknownCommand
  deriving DecidableEq, Repr

/-- RESET_CAUSE (10.1). -/
inductive ResetCause
  | power
  | traffic
  deriving DecidableEq, Repr

/-- The notice flags, in the order of their bits (R174). -/
inductive Flag
  | storyOpened
  | storyClosed
  | storyRejected
  | destCut
  | circuitLost
  | circuitRestored
  | surveyDone
  | slip
  | deskRequest
  | terminalOverrun
  | tableFull
  deriving DecidableEq, Repr

/-- NOTICE, NOTICE_ENABLE and the interrupt output (R174, R175). -/
structure Notices where
  flags : BitVec 11 := 0#11
  enables : BitVec 11 := 0#11
  interrupt : Level := .low
  deriving DecidableEq, Repr

/-- The circuit configuration draft (R169): characters as the bytes the host wrote. -/
structure Draft where
  circuit : Fin 16
  length : Nat
  chars : Vector (BitVec 8) 20
  section2 : Bool
  deriving DecidableEq, Repr

/-- RVAL0 to RVAL3 (10.1). -/
structure ResultWords where
  r0 : Word := 0#16
  r1 : Word := 0#16
  r2 : Word := 0#16
  r3 : Word := 0#16
  deriving DecidableEq, Repr

/-- The host port's registers and internal state (10.1, R164), at their power-on values, with the block
limit (R86) and the story clock (R176). `snapshot` is the view snapshot, empty when it holds no view;
`readData` is the word the last effective read returned (log 10). -/
structure HostRegs where
  command : Word := 0#16
  result : ResultCode := .ok
  args : Vector Word 8 := Vector.replicate 8 0#16
  rvals : ResultWords := {}
  select : BitVec 15 := 0#15
  clock : Nat := 0
  capture : Nat := 0
  resetCause : ResetCause := .power
  snapshot : List Word := []
  draft : Option Draft := none
  blockLimit : Nat := 30
  readData : Word := 0#16
  deriving DecidableEq, Repr

end Sys2Proof.Machine
end

