-- ==== Sys2Proof/Machine/StandardPage.lean ====
section
/-! DEFINITION. The code pages as power-on reset leaves them: the standard page 0 (R29) and the blank
pages 1 to 3 (R28). -/

namespace Sys2Proof.Machine

/-- The office character of a printing character of the spec's text. -/
def office (c : Char) : Office := BitVec.ofNat 7 c.toNat

/-- BEL (R26). -/
def bel : Office := 7#7
/-- LF (R26). -/
def lf : Office := 10#7
/-- CR (R26). -/
def cr : Office := 13#7
/-- The request lead (R26). -/
def lead : Office := 29#7
/-- Space (R26). -/
def space : Office := 32#7
/-- "?", the substitute of every page after power-on and of every terminal (R28, R49). -/
def query : Office := 63#7

/-- A receive map entry that is a printing character. -/
def RxEntry.ofChar (c : Char) : RxEntry := .char (office c)

/-- The letters plane column of R29, codes 0 to 31. -/
def standardLetters : List RxEntry :=
  [ .drop, .ofChar 'E', .char lf, .ofChar 'A', .char space, .ofChar 'S', .ofChar 'I', .ofChar 'U',
    .char cr, .ofChar 'D', .ofChar 'R', .ofChar 'J', .ofChar 'N', .ofChar 'F', .ofChar 'C',
    .ofChar 'K',
    .ofChar 'T', .ofChar 'Z', .ofChar 'L', .ofChar 'W', .ofChar 'H', .ofChar 'Y', .ofChar 'P',
    .ofChar 'Q',
    .ofChar 'O', .ofChar 'B', .ofChar 'G', .planeFigures, .ofChar 'M', .ofChar 'X', .ofChar 'V',
    .planeLetters]

/-- The figures plane column of R29, codes 0 to 31. -/
def standardFigures : List RxEntry :=
  [ .drop, .ofChar '3', .char lf, .ofChar '-', .char space, .char 39#7, .ofChar '8', .ofChar '7',
    .char cr, .answerback, .ofChar '4', .bell, .ofChar ',', .subst, .ofChar ':', .ofChar '(',
    .ofChar '5', .ofChar '+', .ofChar ')', .ofChar '2', .subst, .ofChar '6', .ofChar '0',
    .ofChar '1',
    .ofChar '9', .ofChar '?', .subst, .planeFigures, .ofChar '.', .ofChar '/', .ofChar '=',
    .planeLetters]

/-- The code whose row of a column holds a character, if it stands in that column. -/
def codeIn (column : List RxEntry) (o : Office) : Option Code :=
  (column.findIdx? (fun e => e = .char o)).map (BitVec.ofNat 5)

/-- The send map entry R29 forms from the table for an office character that stands in it. -/
def standardTableEntry (o : Office) : SendEntry :=
  match codeIn standardLetters o, codeIn standardFigures o with
  | some c, some _ => .code c .both
  | some c, none => .code c .letters
  | none, some c => .code c .figures
  | none, none => .subst

/-- The send map of page 0 (R29): BEL is code 11 in the figures plane, and a small letter takes the
entry of its capital. -/
def standardSendEntry (o : Office) : SendEntry :=
  if o = bel then .code 11#5 .figures
  else if 97 ≤ o.toNat ∧ o.toNat ≤ 122 then standardTableEntry (o - 32#7)
  else standardTableEntry o

/-- Page 0 (R29). -/
def standardPage : Page where
  rxLetters := ⟨standardLetters.toArray, rfl⟩
  rxFigures := ⟨standardFigures.toArray, rfl⟩
  send := ⟨((List.range 128).map (fun n => standardSendEntry (BitVec.ofNat 7 n))).toArray, by simp⟩
  substitute := query

/-- Pages 1 to 3 after power-on (R28). -/
def blankPage : Page where
  rxLetters := Vector.replicate 32 .subst
  rxFigures := Vector.replicate 32 .subst
  send := Vector.replicate 128 .subst
  substitute := query

/-- The four pages at power-on reset (R28). -/
def powerOnPages : Vector Page 4 := #v[standardPage, blankPage, blankPage, blankPage]

end Sys2Proof.Machine
end

