-- ==== Sys2Proof/Machine/Bits.lean ====
section
/-! DEFINITION. Helpers over words, office characters and counts: packing (R166), classes of
characters (R26), saturation (00, Numbers), decimal numbers and letters of notices (R72, R132). -/

namespace Sys2Proof.Machine

/-- A count, number or position as a register word (R166). -/
def word (n : Nat) : Word := BitVec.ofNat 16 n

/-- The upper byte of a word, the first of two packed values (R166). -/
def hiByte (w : Word) : Nat := w.toNat / 256

/-- The lower byte of a word, the second of two packed values (R166). -/
def loByte (w : Word) : Nat := w.toNat % 256

/-- One of four packed values of a word, 0 the first, in the highest four bits (R166). -/
def nibble (w : Word) (k : Nat) : Nat := w.toNat / 16 ^ (3 - k) % 16

/-- Two values packed in one word (R166). -/
def packBytes (a b : Nat) : Word := word (256 * a + b)

/-- A mark as a word: 1 for set, 0 for clear (R166). -/
def markWord (b : Bool) : Word := if b then 1#16 else 0#16

/-- A number that may be absent, FFFFh when it is (R166). -/
def optWord : Option Nat → Word
  | some n => word n
  | none => 0xFFFF#16

/-- A seconds-of-day value as its upper and lower words (R171, R176). -/
def timeWords (n : Nat) : List Word := [word (n / 65536), word (n % 65536)]

/-- An optional seconds-of-day value, FFFFh in both words when absent (R171). -/
def optTimeWords : Option Nat → List Word
  | some n => timeWords n
  | none => [0xFFFF#16, 0xFFFF#16]

/-- A count raised by one, staying at its largest value (00, Numbers). -/
def satInc (max n : Nat) : Nat := if n < max then n + 1 else n

/-- A count of 0 to 65535 raised by one. -/
def inc (n : Nat) : Nat := satInc Config.countMax n

/-- A count of 0 to 65535 raised by several (R60, R70). -/
def incBy (k n : Nat) : Nat := min (n + k) (max n Config.countMax)

/-- A capital letter (R26). -/
def isCapital (o : Office) : Bool := decide (65 ≤ o.toNat ∧ o.toNat ≤ 90)

/-- A digit (R26). -/
def isDigit (o : Office) : Bool := decide (48 ≤ o.toNat ∧ o.toNat ≤ 57)

/-- The hyphen (R26). -/
def isHyphen (o : Office) : Bool := decide (o = 45#7)

/-- A printable character, space included (R26). -/
def isPrintable (o : Office) : Bool := decide (32 ≤ o.toNat ∧ o.toNat ≤ 126)

/-- CR or LF. -/
def isLineEnd (o : Office) : Bool := decide (o = cr ∨ o = lf)

/-- A character a header field, slug or request may hold besides the space (R63, R155). -/
def isFieldChar (o : Office) : Bool := isCapital o || isDigit o || isHyphen o

/-- A word of the spec's text as office characters. -/
def text (cs : List Char) : List Office := cs.map office

/-- One decimal digit. -/
def digit (n : Nat) : Office := BitVec.ofNat 7 (48 + n % 10)

/-- A story number as four digits with leading zeros (00, Numbers). -/
def fourDigits (n : Nat) : List Office :=
  [digit (n / 1000), digit (n / 100), digit (n / 10), digit n]

/-- A count in decimal without leading zeros (R158). -/
def decimal (n : Nat) : List Office :=
  if n < 10 then [digit n]
  else if n < 100 then [digit (n / 10), digit n]
  else if n < 1000 then [digit (n / 100), digit (n / 10), digit n]
  else if n < 10000 then fourDigits n
  else digit (n / 10000) :: fourDigits n

/-- The value of a run of digits. -/
def digitsValue (os : List Office) : Nat := os.foldl (fun n o => 10 * n + (o.toNat - 48)) 0

/-- A line's fields: the runs between its spaces, empty ones included (R63, R155). -/
def fields : List Office → List (List Office)
  | [] => [[]]
  | o :: rest =>
    if o = space then [] :: fields rest
    else match fields rest with
      | [] => [[o]]
      | f :: fs => (o :: f) :: fs

/-- A priority's rank: 0 for F to 4 for D (R166); absent ranks below D. -/
def Priority.rank : Priority → Nat
  | .f => 0
  | .b => 1
  | .u => 2
  | .r => 3
  | .d => 4

/-- A priority's letter. -/
def Priority.letter : Priority → Office
  | .f => office 'F'
  | .b => office 'B'
  | .u => office 'U'
  | .r => office 'R'
  | .d => office 'D'

/-- The priority a letter names (R63, R155). -/
def priorityOfLetter (o : Office) : Option Priority :=
  [Priority.f, .b, .u, .r, .d].find? (fun p => p.letter = o)

/-- A desk code's two letters. -/
def DeskCode.letters (d : DeskCode) : List Office := [d.first, d.second]

/-- A framed line: CR LF before and after (R119, R132, R134). -/
def framed (line : List Office) : List Office := [cr, lf] ++ line ++ [cr, lf]

/-- The number of a source's framer and own outlet: n for circuit Ln, 16 + n for terminal Tn (00,
Numbering). -/
def Source.index : Source → Fin 24
  | .circuit c => ⟨c.val, by omega⟩
  | .terminal t => ⟨16 + t.val, by omega⟩

/-- The circuit of a line outlet, O0 to O15. -/
def outletCircuit (o : Fin 24) : Option (Fin 16) :=
  if h : o.val < 16 then some ⟨o.val, h⟩ else none

/-- The terminal of a terminal outlet, O16 to O23. -/
def outletTerminal (o : Fin 24) : Option (Fin 8) :=
  if o.val < 16 then none else some ⟨o.val - 16, by omega⟩

/-- The line outlet of a circuit. -/
def lineOutlet (c : Fin 16) : Fin 24 := (Source.circuit c).index

/-- The terminal outlet of a terminal. -/
def terminalOutlet (t : Fin 8) : Fin 24 := (Source.terminal t).index

end Sys2Proof.Machine
end

