-- ==== Sys2Proof/Machine/State.lean ====
section
/-! DEFINITION. The state of the part, the reasons a step can stop, and the state after power-on
reset. -/

namespace Sys2Proof.Machine

/-- Everything the part holds (00, Block overview), and the queue of commands waiting (log 4).
Framers and outlets are numbered 0 to 15 for the circuits and 16 to 23 for the terminals. -/
structure State where
  circuits : Vector Circuit 16
  pages : Vector Page 4
  ports : Vector Port 8
  parsers : Vector Parser 8
  framers : Vector Framer 24
  stories : Vector Story 48
  openOrder : List (Fin 48)
  nextNumber : Nat
  desks : Vector (Option Desk) 32
  outlets : Vector Outlet 24
  controls : Vector Control 16
  notices : Notices
  regs : HostRegs
  pending : List Instr
  deriving DecidableEq, Repr

/-- Why the part stops. The spec names no fault of the part; this one is the model's. -/
inductive Fault
  /-- Raised by REGISTER_WRITE at an offset of 100 or more, which is no word of the register window
  (10.1). Safe: the spec gives such an access no meaning (log 3). -/
  | outsideWindow (offset : Nat)
  deriving DecidableEq, Repr

/-- Why a step has no meaning in the model. -/
inductive Refusal
  /-- Raised by an arm of `exec` whose row has no meaning yet; no arm does. Safe. -/
  | notModelled (mnemonic : String)
  deriving DecidableEq, Repr

/-- The outlets at power-on: the shift-owed mark is kept by line outlets, 0 to 15, alone (R113,
R39). -/
def powerOnOutlets : Vector Outlet 24 :=
  Vector.replicate 16 ({} : Outlet) ++ Vector.replicate 8 ({ shiftOwed := false } : Outlet)

/-- The part right after power-on reset: every block at the values its rule states (R1, R28, R43,
R56, R73, R75, R76, R101, R113, R140, R154, R164), the pins as log 9 says, and no command waiting. -/
def State.reset : State where
  circuits := Vector.replicate 16 {}
  pages := powerOnPages
  ports := Vector.replicate 8 {}
  parsers := Vector.replicate 8 {}
  framers := Vector.replicate 24 {}
  stories := Vector.replicate 48 {}
  openOrder := []
  nextNumber := 1
  desks := Vector.replicate 32 none
  outlets := powerOnOutlets
  controls := Vector.replicate 16 {}
  notices := {}
  regs := {}
  pending := []

end Sys2Proof.Machine
end

