-- ==== Sys2Proof/Machine/Flags.lean ====
section
/-! DEFINITION. The notice flags and the interrupt output (R174, R175). -/

namespace Sys2Proof.Machine

/-- A flag's bit in NOTICE (R174). -/
def Flag.bit : Flag → Nat
  | .storyOpened => 0
  | .storyClosed => 1
  | .storyRejected => 2
  | .destCut => 3
  | .circuitLost => 4
  | .circuitRestored => 5
  | .surveyDone => 6
  | .slip => 7
  | .deskRequest => 8
  | .terminalOverrun => 9
  | .tableFull => 10

/-- A flag alone. -/
def Flag.mask (f : Flag) : BitVec 11 := 1#11 <<< f.bit

/-- The interrupt output: high while some flag is set and its enable is set (R175). -/
def interruptLevel (flags enables : BitVec 11) : Level :=
  if flags &&& enables = 0#11 then .low else .high

/-- NOTICE set to new flags, the interrupt output following (R174, R175). -/
def Notices.withFlags (n : Notices) (flags : BitVec 11) : Notices :=
  { n with flags := flags, interrupt := interruptLevel flags n.enables }

/-- NOTICE_ENABLE set to new enables, the interrupt output following (R175). -/
def Notices.withEnables (n : Notices) (enables : BitVec 11) : Notices :=
  { n with enables := enables, interrupt := interruptLevel n.flags enables }

/-- A flag raised: set, or left set (R174). -/
def State.raise (s : State) (f : Flag) : State :=
  { s with notices := s.notices.withFlags (s.notices.flags ||| f.mask) }

/-- A flag read. -/
def State.flagSet (s : State) (f : Flag) : Bool := s.notices.flags.getLsbD f.bit

/-- A flag raised when a condition holds. -/
def State.raiseIf (s : State) (b : Bool) (f : Flag) : State := if b then s.raise f else s

end Sys2Proof.Machine
end

