-- ==== Sys2Proof/Machine/Ops.lean ====
section
/-! DEFINITION. The named operations over the records of State: one reader and one writer per bank,
the counts, and the reply slot. -/

namespace Sys2Proof.Machine

/-- A circuit record. -/
def State.circuit (s : State) (c : Fin 16) : Circuit := s.circuits.get c

/-- A circuit record changed. -/
def State.modCircuit (s : State) (c : Fin 16) (f : Circuit → Circuit) : State :=
  { s with circuits := s.circuits.set c (f (s.circuit c)) }

/-- A code page. -/
def State.page (s : State) (p : Fin 4) : Page := s.pages.get p

/-- A port record. -/
def State.port (s : State) (t : Fin 8) : Port := s.ports.get t

/-- A port record changed. -/
def State.modPort (s : State) (t : Fin 8) (f : Port → Port) : State :=
  { s with ports := s.ports.set t (f (s.port t)) }

/-- A request parser. -/
def State.parser (s : State) (t : Fin 8) : Parser := s.parsers.get t

/-- A request parser changed. -/
def State.modParser (s : State) (t : Fin 8) (f : Parser → Parser) : State :=
  { s with parsers := s.parsers.set t (f (s.parser t)) }

/-- A framer record. -/
def State.framer (s : State) (i : Fin 24) : Framer := s.framers.get i

/-- A framer record changed. -/
def State.modFramer (s : State) (i : Fin 24) (f : Framer → Framer) : State :=
  { s with framers := s.framers.set i (f (s.framer i)) }

/-- A story record. -/
def State.story (s : State) (k : Fin 48) : Story := s.stories.get k

/-- A story record written as it is, its changed mark as given. -/
def State.setStory (s : State) (k : Fin 48) (x : Story) : State :=
  { s with stories := s.stories.set k x }

/-- A story record changed by the table or an outlet: its changed mark is set (R97). -/
def State.modStory (s : State) (k : Fin 48) (f : Story → Story) : State :=
  s.setStory k { f (s.story k) with changed := true }

/-- A story's idle timer written, which is no change R97 marks. -/
def State.setIdleTimer (s : State) (k : Fin 48) (v : Option Nat) : State :=
  s.setStory k { s.story k with idleTimer := v }

/-- A position of the desk directory. -/
def State.desk (s : State) (i : Fin 32) : Option Desk := s.desks.get i

/-- A position of the desk directory written. -/
def State.setDesk (s : State) (i : Fin 32) (d : Option Desk) : State :=
  { s with desks := s.desks.set i d }

/-- An outlet record. -/
def State.outlet (s : State) (o : Fin 24) : Outlet := s.outlets.get o

/-- An outlet record changed. -/
def State.modOutlet (s : State) (o : Fin 24) (f : Outlet → Outlet) : State :=
  { s with outlets := s.outlets.set o (f (s.outlet o)) }

/-- A control record. -/
def State.control (s : State) (c : Fin 16) : Control := s.controls.get c

/-- A control record changed. -/
def State.modControl (s : State) (c : Fin 16) (f : Control → Control) : State :=
  { s with controls := s.controls.set c (f (s.control c)) }

/-- The host port's registers changed. -/
def State.modRegs (s : State) (f : HostRegs → HostRegs) : State := { s with regs := f s.regs }

/-- A circuit's counters changed. -/
def State.modCounts (s : State) (c : Fin 16) (f : CircuitCounts → CircuitCounts) : State :=
  s.modCircuit c (fun x => { x with counts := f x.counts })

/-- A port's counters changed. -/
def State.modPortCounts (s : State) (t : Fin 8) (f : PortCounts → PortCounts) : State :=
  s.modPort t (fun x => { x with counts := f x.counts })

/-- The loose-copy count of a source raised by k (R59, R1, R43). -/
def State.addLoose (s : State) (src : Source) (k : Nat) : State :=
  match src with
  | .circuit c => s.modCounts c (fun n => { n with looseCopy := incBy k n.looseCopy })
  | .terminal t => s.modPortCounts t (fun n => { n with looseCopy := incBy k n.looseCopy })

/-- The refused-opens count of a source raised by one (R61). -/
def State.addRefusedOpen (s : State) (src : Source) : State :=
  match src with
  | .circuit c => s.modCounts c (fun n => { n with refusedOpens := inc n.refusedOpens })
  | .terminal t => s.modPortCounts t (fun n => { n with refusedOpens := inc n.refusedOpens })

/-- A line offered to a terminal's reply slot: stored whole into the empty slot of an ENABLED port,
and otherwise not stored (R54). -/
def State.offerReply (s : State) (t : Fin 8) (line : List Office) : State :=
  if (s.port t).enabled ∧ (s.port t).replySlot = none then
    s.modPort t (fun p => { p with replySlot := some line })
  else s

/-- A line offered to the source of a story, if it is a terminal (R64, R92). -/
def State.offerSource (s : State) (src : Source) (line : List Office) : State :=
  match src with
  | .circuit _ => s
  | .terminal t => s.offerReply t line

/-- Every slot, in ascending order. -/
def allSlots : List (Fin 48) := List.finRange 48

/-- Every outlet, in ascending order. -/
def allOutlets : List (Fin 24) := List.finRange 24

/-- Every circuit, in ascending order. -/
def allCircuits : List (Fin 16) := List.finRange 16

/-- Every terminal, in ascending order. -/
def allTerminals : List (Fin 8) := List.finRange 8

/-- A change made to the state for each of a list of things in turn. -/
def forEach {α : Type} (l : List α) (f : α → State → State) (s : State) : State :=
  l.foldl (fun t a => f a t) s

/-- A live story: in HEADER, RUNNING or HELD (00, Terms). -/
def StoryState.live : StoryState → Bool
  | .header | .running | .held => true
  | .free | .closing | .closed => false

/-- A live entry: in WAITING, CARRYING or SUSPENDED (00, Terms). -/
def EntryState.live : EntryState → Bool
  | .waiting | .carrying | .suspended _ => true
  | .done | .cut _ => false

/-- A story's entry for an outlet (R74: at most one). -/
def Story.entryOn (st : Story) (o : Fin 24) : Option Entry :=
  st.entries.find? (fun e => e.outlet = o)

/-- A story's entry for an outlet changed. -/
def Story.modEntry (st : Story) (o : Fin 24) (f : Entry → Entry) : Story :=
  { st with entries := st.entries.map (fun e => if e.outlet = o then f e else e) }

/-- A story has a live entry for an outlet. -/
def Story.liveOn (st : Story) (o : Fin 24) : Bool :=
  st.entries.any (fun e => e.outlet = o && e.state.live)

/-- A story has a live entry left. -/
def Story.anyLive (st : Story) : Bool := st.entries.any (fun e => e.state.live)

/-- A source is the source of a live story (R9, R20, R41). -/
def State.sourceLive (s : State) (src : Source) : Bool :=
  allSlots.any (fun k => (s.story k).source = src && (s.story k).state.live)

/-- An outlet carries a live entry (R9, R41). -/
def State.outletLive (s : State) (o : Fin 24) : Bool :=
  allSlots.any (fun k => (s.story k).liveOn o)

/-- The record that is not FREE and carries a story number (R96). -/
def State.findNumber (s : State) (n : Nat) : Option (Fin 48) :=
  allSlots.find? (fun k => (s.story k).state ≠ .free && (s.story k).number = n)

/-- Some outlet's owed-notice list holds an item naming a slot (R78, R98). -/
def State.owedAnywhere (s : State) (k : Fin 48) : Bool :=
  allOutlets.any (fun o => (s.outlet o).owed.any (fun i => i.slot = k))

end Sys2Proof.Machine
end

