-- ==== Sys2Proof/Machine/Conversion.lean ====
section
/-! DEFINITION. The Conversion Unit: receive lookup (R30 to R32), send conversion with shifts,
substitutes, drops and shift guard (R33 to R36), columns and automatic new line (R37, R38). -/

namespace Sys2Proof.Machine

/-- The shift code of a plane: LTRS 31, FIGS 27. -/
def shiftCode : Plane → Code
  | .letters => 31#5
  | .figures => 27#5

/-- The receive map entry of a code in a plane (R30). -/
def Page.receive (p : Page) (plane : Plane) (c : Code) : RxEntry :=
  match plane with
  | .letters => p.rxLetters.get c.toFin
  | .figures => p.rxFigures.get c.toFin

/-- The send map entry of an office character: its verdict (R33). -/
def Page.verdict (p : Page) (o : Office) : SendEntry := p.send.get o.toFin

/-- The office character a receive entry hands to the framer, if it hands one (R30). -/
def handedOn (p : Page) : RxEntry → Option Office
  | .char o => some o
  | .bell => some bel
  | .subst => some p.substitute
  | .planeLetters | .planeFigures | .drop | .answerback => none

/-- The receive plane after a character (R30, R31). -/
def planeAfter (cfg : CircuitConfig) (plane : Plane) : RxEntry → Plane
  | .planeLetters => .letters
  | .planeFigures => .figures
  | .char o => if cfg.unshiftOnSpace ∧ o = space then .letters else plane
  | .drop | .bell | .answerback | .subst => plane

/-- The column after an office character is sent (R37). -/
def columnAfter (o : Office) (column : Nat) : Nat :=
  if o = cr then 0 else if isPrintable o then satInc 255 column else column

/-- The plane a send entry asks for, if it asks for one. -/
def SendPlane.needs : SendPlane → Option Plane
  | .letters => some .letters
  | .figures => some .figures
  | .both => none

/-- The shift a character needs: its plane's, when the outlet stands in the other or owes a shift
(R33). -/
def shiftFor (o : Outlet) (p : SendPlane) : Option Plane :=
  match p.needs with
  | none => none
  | some q => if o.plane ≠ q ∨ o.shiftOwed then some q else none

/-- A shift sent: the send plane named and the shift-owed mark cleared (R33, R35). -/
def Outlet.shifted (o : Outlet) : Option Plane → Outlet
  | none => o
  | some q => { o with plane := q, shiftOwed := false }

/-- The shift-owed mark after a character sent as a code: a guarded CR clears it (R36), a space under
unshift-on-space sets it (R35). -/
def owedAfter (cfg : CircuitConfig) (ch : Office) (owed : Bool) : Bool :=
  if ch = cr ∧ cfg.shiftGuard then false
  else if ch = space ∧ cfg.unshiftOnSpace then true
  else owed

/-- A character sent as a code: the shift it needs, the code, the guard after a CR, the column moved
(R33, R36, R37). -/
def sendAsCode (cfg : CircuitConfig) (o : Outlet) (ch : Office) (c : Code) (p : SendPlane) :
    Outlet × List Code :=
  let shift := shiftFor o p
  let o := o.shifted shift
  let guard := if ch = cr ∧ cfg.shiftGuard then [shiftCode o.plane] else []
  ({ o with
      shiftOwed := owedAfter cfg ch o.shiftOwed
      column := columnAfter ch o.column },
    (shift.map shiftCode).toList ++ [c] ++ guard)

/-- A character dropped (R33, R34). -/
def Outlet.dropped (o : Outlet) : Outlet × List Code := ({ o with drops := inc o.drops }, [])

/-- An office character converted for a line outlet: the outlet's conversion state after it and the
codes handed to the send side. A SUBST verdict is replaced once by the page's substitute (R33, R34). -/
def convertChar (pg : Page) (cfg : CircuitConfig) (o : Outlet) (ch : Office) :
    Outlet × List Code :=
  match pg.verdict ch with
  | .code c p => sendAsCode cfg o ch c p
  | .drop => o.dropped
  | .subst =>
    match pg.verdict pg.substitute with
    | .code c p => sendAsCode cfg { o with substitutions := inc o.substitutions } pg.substitute c p
    | .subst | .drop => o.dropped

/-- A character will be sent: its verdict is a code, or a substitute that is sent (R38). -/
def Page.sends (pg : Page) (ch : Office) : Bool :=
  match pg.verdict ch with
  | .code _ _ => true
  | .drop => false
  | .subst =>
    match pg.verdict pg.substitute with
    | .code _ _ => true
    | .subst | .drop => false

/-- The office characters of a text-character unit: a new line before a printable character, space
apart, at or beyond the carriage width (R38). -/
def textChars (width column : Nat) (sent : Bool) (ch : Office) : List Office :=
  if width ≠ 0 ∧ width ≤ column ∧ isPrintable ch ∧ ch ≠ space ∧ sent then [cr, lf, ch] else [ch]

end Sys2Proof.Machine
end

