-- ==== Sys2Proof/Machine/Control.lean ====
section
/-! DEFINITION. The motor sequencer and the control counter as they stand in one control record (R141
to R147), and the levels the selectors give (R151). -/

namespace Sys2Proof.Machine

/-! ## The toggle list and the wave -/

/-- The other level. -/
def Level.flip : Level → Level
  | .low => .high
  | .high => .low

/-- The positions in effect after one that is: each greater than the one before it (R147). -/
def risingFrom (previous : Nat) : List Nat → List Nat
  | [] => []
  | n :: rest => if previous < n then n :: risingFrom n rest else []

/-- The toggle positions in effect (R147). -/
def togglesInEffect : List Nat → List Nat
  | [] => []
  | n :: rest => n :: risingFrom n rest

/-- The positions of a counter in effect. -/
def CounterSettings.inEffect (x : CounterSettings) : List Nat := togglesInEffect x.toggles

/-- The wave flipped when the value is a position in effect (R147). -/
def CounterSettings.flipAt (x : CounterSettings) (value : Nat) (wave : Level) : Level :=
  if value ∈ x.inEffect then wave.flip else wave

/-! ## The control counter -/

/-- The counter at rest: value 0 and the wave at the start level (R146). -/
def Control.rest (c : Control) : Control :=
  { c with phase := .idle, value := 0, wave := c.settings.startLevel }

/-- Entry to COUNTING (R146). -/
def Control.enterCounting (c : Control) : Control :=
  { c with
    phase := .counting
    value := 0
    wave := c.settings.flipAt 0 c.settings.startLevel }

/-- Entry to DELAY; a delay of 0 is complete as soon as it begins (R146). -/
def Control.enterDelay (c : Control) : Control :=
  if c.settings.delay = 0 then c.enterCounting
  else { c with phase := .delay, value := 0, wave := c.settings.startLevel }

/-- Entry to HOLDING: the wave as after every position in effect had flipped it (R146). -/
def Control.enterHolding (c : Control) : Control :=
  { c with
    phase := .holding
    value := 0
    wave := if c.settings.inEffect.length % 2 = 0 then c.settings.startLevel
      else c.settings.startLevel.flip }

/-- FORCE_IDLE (R146). On an IDLE counter a fill still owed is cleared all the same (DEDUCED, log
36). -/
def Control.force (c : Control) : Control :=
  { c.rest with firstPass := false, fillOwed := false }

/-- What follows a completed count, by the action the counter runs (R146). -/
def Control.afterCount (c : Control) : Control :=
  match c.action with
  | .repeated => c.enterCounting
  | .delayedRepeat => if c.settings.skip then c.enterCounting else c.enterDelay
  | .idle | .once | .delayedOnce | .hold | .release | .forceIdle => c.rest

/-- The end of a count: under FILL a fill is owed, unless the circuit's outlet is OFF (R146, R150, R5;
log 18); the first pass is over. -/
def Control.endCount (c : Control) (outletOff : Bool) : Control :=
  { c with
    fillOwed := c.fillOwed || (decide (c.settings.use = CounterUse.fill) && !outletOff)
    firstPass := false : Control }.afterCount

/-- One character time of the counter (R146). -/
def Control.countTick (c : Control) (outletOff : Bool) : Control :=
  match c.phase with
  | .idle | .holding => c
  | .delay =>
    if c.settings.delay ≤ c.value + 1 then c.enterCounting else { c with value := c.value + 1 }
  | .counting =>
    let d := { c with value := c.value + 1, wave := c.settings.flipAt (c.value + 1) c.wave }
    if c.settings.max ≤ c.value + 1 then d.endCount outletOff else d

/-- An action started on an IDLE counter with its settings written (R145, R146). RELEASE and
FORCE_IDLE are not started this way. -/
def Control.start (c : Control) (x : CounterSettings) (a : CounterAction) : Control :=
  let d := { c with settings := x, action := a, wave := x.startLevel }
  match a with
  | .idle | .release | .forceIdle => d
  | .once | .repeated => d.enterCounting
  | .delayedOnce => d.enterDelay
  | .delayedRepeat => { d with firstPass := true : Control }.enterDelay
  | .hold => d.enterHolding

/-- The counter holds the send output at space: use BREAK, in COUNTING or HOLDING (R148). -/
def Control.breaking (c : Control) : Bool :=
  decide (c.settings.use = CounterUse.lineBreak) && decide (c.phase = .counting ∨ c.phase = .holding)

/-! ## The motor sequencer -/

/-- The motor OFF, count and target 0 (R143). -/
def Control.motorStop (c : Control) : Control :=
  { c with motor := .off, motorCount := 0, motorTarget := 0 }

/-- The lead begun (R141). -/
def Control.motorLead (c : Control) (lead : Nat) : Control :=
  { c with motor := .starting, motorCount := 0, motorTarget := lead }

/-- The lead complete: RUNNING (R141; log 19). -/
def Control.motorRun (c : Control) : Control := { c with motor := .running }

/-- The run-on begun; one of 0 is complete at once (R142). -/
def Control.motorRunOn (c : Control) (runOn : Nat) : Control :=
  if runOn = 0 then c.motorStop
  else { c with motor := .runOn, motorCount := 0, motorTarget := runOn }

/-- The run-on abandoned: RUNNING with the count at 0 (R142). -/
def Control.motorResume (c : Control) : Control := { c with motor := .running, motorCount := 0 }

/-- One character time of the sequencer in STARTING or RUN_ON (R141, R142). -/
def Control.motorTick (c : Control) : Control :=
  match c.motor with
  | .off | .running => c
  | .starting =>
    let d := { c with motorCount := c.motorCount + 1 }
    if c.motorTarget ≤ c.motorCount + 1 then d.motorRun else d
  | .runOn =>
    if c.motorTarget ≤ c.motorCount + 1 then c.motorStop
    else { c with motorCount := c.motorCount + 1 }

/-- The motor is wanted (R151). -/
def MotorState.wanted : MotorState → Bool
  | .off => false
  | .starting | .running | .runOn => true

/-! ## Selectors -/

/-- The level a selector gives for the values of its inputs (R151). -/
def Selector.level (x : Selector) (holds : Condition → Bool) : Level :=
  match holds x.inputA, holds x.inputB with
  | false, false => x.ff
  | false, true => x.ft
  | true, false => x.tf
  | true, true => x.tt

end Sys2Proof.Machine
end

