-- ==== Sys2Proof/Machine/Operands.lean ====
section
/-! DEFINITION. The forms values take in argument words and in views (R166), and the checks of the
fields a command carries (R7, R44, R144, R27). -/

namespace Sys2Proof.Machine

/-- An argument word as it stands (R165). -/
def State.arg (s : State) (k : Fin 8) : Word := s.regs.args.get k

/-! ## Numbers of things -/

/-- A circuit number, 0 to 15. -/
def circuitOf (n : Nat) : Option (Fin 16) := if h : n < 16 then some ⟨n, h⟩ else none

/-- A terminal number, 0 to 7. -/
def terminalOf (n : Nat) : Option (Fin 8) := if h : n < 8 then some ⟨n, h⟩ else none

/-- An outlet number, 0 to 23. -/
def outletOf (n : Nat) : Option (Fin 24) := if h : n < 24 then some ⟨n, h⟩ else none

/-- A slot, 0 to 47. -/
def slotOf (n : Nat) : Option (Fin 48) := if h : n < 48 then some ⟨n, h⟩ else none

/-- A page number, 0 to 3. -/
def pageOf (n : Nat) : Option (Fin 4) := if h : n < 4 then some ⟨n, h⟩ else none

/-- A position of the desk directory, 0 to 31. -/
def positionOf (n : Nat) : Option (Fin 32) := if h : n < 32 then some ⟨n, h⟩ else none

/-! ## Named lists, in the order the spec first gives them (R166) -/

/-- The item at a position of a named list. -/
def named {α : Type} (l : List α) (n : Nat) : Option α := l[n]?

/-- The position of an item in a named list. -/
def position {α : Type} [DecidableEq α] (l : List α) (a : α) : Nat := l.idxOf a

/-- Priorities (R166). -/
def priorities : List Priority := [.f, .b, .u, .r, .d]
/-- Survey gates (R20). -/
def gates : List SurveyGate := [.oneSecond, .fourSeconds, .eightSeconds, .untimed]
/-- Stop lengths (R7). -/
def stops : List StopLength := [.one, .oneAndHalf, .two]
/-- Polarities (R7). -/
def polarities : List Polarity := [.markHigh, .markLow]
/-- Glitch filters (R7). -/
def filters : List GlitchFilter := [.off, .sixteenth, .eighth, .quarter]
/-- Terminal speeds (R44). -/
def speeds : List Speed := [.baud300, .baud600, .baud1200, .baud2400, .baud4800, .baud9600]
/-- Terminal parities (R44). -/
def parities : List Parity := [.even, .odd, .off]
/-- Authorities (R44). -/
def authorities : List Authority := [.view, .desk, .chief]
/-- Counter uses (R144). -/
def uses : List CounterUse := [.wave, .lineBreak, .fill]
/-- Counter actions (R145). -/
def actions : List CounterAction :=
  [.idle, .once, .repeated, .delayedOnce, .delayedRepeat, .hold, .release, .forceIdle]
/-- Selector conditions (R151). -/
def conditions : List Condition :=
  [.motorWanted, .counterWave, .flashHeld, .storyWaiting, .farBreak, .outletPaused, .zero]
/-- Levels (10.2, note 3). -/
def levels : List Level := [.low, .high]
/-- Circuit states (R1). -/
def circuitStates : List CircuitState := [.closed, .opened, .lost]
/-- Planes (R1). -/
def planes : List Plane := [.letters, .figures]
/-- Receiver phases of a circuit (R1). -/
def rxPhases : List RxPhase := [.hunting, .inCharacter, .farBreak, .idle]
/-- Receiver phases of a port (R43). -/
def portPhases : List PortPhase := [.idle, .hunting, .inCharacter, .waitMark]
/-- Framer states (R56). -/
def framerStates : List FramerState :=
  [.idle, .openerMatch, .header, .inStory, .closerMatch, .discard]
/-- Story states (R73). -/
def storyStates : List StoryState := [.free, .header, .running, .held, .closing, .closed]
/-- Close reasons (R73). -/
def closeReasons : List CloseReason :=
  [.closer, .idleEnd, .tooLong, .killed, .sourceLost, .headerFault, .unknownDesk, .noRoute,
   .noOutlet]
/-- Suspension causes (R74). -/
def suspendCauses : List SuspendCause := [.preempted, .held]
/-- Cut reasons (R74). -/
def cutReasons : List CutReason := [.lapped, .blockLimit, .stall, .removed, .killed, .outletLost]
/-- Entry notices (R74). -/
def entryNotices : List EntryNotice := [.none, .header, .resume, .joined]
/-- Outlet states (R113). -/
def outletStates : List OutletState := [.off, .idle, .starting, .sending, .paused, .stalled]
/-- Owed item kinds (R113). -/
def owedKinds : List OwedKind := [.breakIn, .held, .cut, .kill]
/-- Motor states (R140). -/
def motorStates : List MotorState := [.off, .starting, .running, .runOn]
/-- Counter phases (R140). -/
def counterPhases : List CounterPhase := [.idle, .delay, .counting, .holding]
/-- Result codes (R166). -/
def resultCodes : List ResultCode :=
  [.ok, .badArgument, .badState, .noSuchStory, .notTerminalSource, .duplicate, .slowPath,
   .outletUnavailable, .tableFull, .pageFixed, .pageInUse, .circuitBusy, .numberInUse,
   .noticePending, .unknownCommand]

/-- A listed value as a view word, counting from 0 (R166). -/
def listWord {α : Type} [DecidableEq α] (l : List α) (a : α) : Word := word (position l a)

/-- A listed value that may be absent, 0 for absent and counting from 1 (R166). -/
def optListWord {α : Type} [DecidableEq α] (l : List α) : Option α → Word
  | some a => word (position l a + 1)
  | none => 0#16

/-! ## Marks, characters, codes -/

/-- A mark or option whose range is checked: 0 or 1 (R166). -/
def optionOf (n : Nat) : Option Bool :=
  if n = 0 then some false else if n = 1 then some true else none

/-- A mark whose command checks no range: another value is the free value of log 12. -/
def markOf (n : Nat) : Bool :=
  if n = 0 then false else if n = 1 then true else Config.unstatedMark n

/-- A capital letter carried in a byte. -/
def capitalOf (n : Nat) : Option Office :=
  if 65 ≤ n ∧ n ≤ 90 then some (BitVec.ofNat 7 n) else none

/-- A desk code carried in a word: two capital letters, the first in the upper byte (R166). -/
def deskCodeOf (w : Word) : Option DeskCode :=
  match capitalOf (hiByte w), capitalOf (loByte w) with
  | some a, some b => some ⟨a, b⟩
  | _, _ => none

/-- A desk code as a view word. -/
def DeskCode.asWord (d : DeskCode) : Word := packBytes d.first.toNat d.second.toNat

/-- A desk code that may be absent, 0 when it is (R166). -/
def optDeskWord : Option DeskCode → Word
  | some d => d.asWord
  | none => 0#16

/-- An outlet set carried in two words (R166). -/
def outletSetOf (a b : Word) : BitVec 24 := BitVec.ofNat 24 (a.toNat + 65536 * loByte b)

/-- An outlet set as its two view words (R166). -/
def outletSetWords (x : BitVec 24) : List Word := [word x.toNat, word (x.toNat / 65536)]

/-- A byte that an answerback string may hold: printable, CR or LF (R7, note 2). -/
def answerbackByte (b : BitVec 8) : Bool :=
  decide ((32 ≤ b.toNat ∧ b.toNat ≤ 126) ∨ b.toNat = 10 ∨ b.toNat = 13)

/-- The two bytes of a word, the first the upper. -/
def bytesOf (w : Word) : List (BitVec 8) := [BitVec.ofNat 8 (hiByte w), BitVec.ofNat 8 (loByte w)]

/-- Characters two to a word, ten words, zeros past the string's end (R173, log 29). -/
def stringWords (cs : List Office) : List Word :=
  (List.range 10).map (fun i =>
    packBytes ((cs[2 * i]?.map BitVec.toNat).getD 0) ((cs[2 * i + 1]?.map BitVec.toNat).getD 0))

/-! ## Slugs (R166) -/

/-- The symbol of a slug character. -/
def slugSymbol (o : Office) : Nat :=
  if isCapital o then o.toNat - 64 else if isDigit o then o.toNat - 48 + 27 else 37

/-- The slug character of a symbol 1 to 37. -/
def symbolChar (n : Nat) : Office :=
  if n ≤ 26 then BitVec.ofNat 7 (64 + n)
  else if n ≤ 36 then BitVec.ofNat 7 (48 + (n - 27)) else 45#7

/-- The three symbols of a slug word. -/
def slugSymbols (w : Word) : List Nat := [w.toNat / 1444, w.toNat / 38 % 38, w.toNat % 38]

/-- A slug as its seven words. -/
def slugWords (cs : List Office) : List Word :=
  (List.range 7).map (fun i =>
    word (1444 * ((cs[3 * i]?.map slugSymbol).getD 0)
      + 38 * ((cs[3 * i + 1]?.map slugSymbol).getD 0)
      + ((cs[3 * i + 2]?.map slugSymbol).getD 0)))

/-- A slug read from its words: refused when a word exceeds 54871, when there is no symbol, or when a
symbol follows a 0 (R167). -/
def slugOfWords (ws : List Word) : Option (List Office) :=
  let symbols := ws.flatMap slugSymbols
  let body := symbols.takeWhile (fun n => n ≠ 0)
  if ws.all (fun w => decide (w.toNat ≤ 54871)) ∧ body ≠ []
      ∧ (symbols.drop body.length).all (fun n => n = 0) then
    some (body.map symbolChar)
  else none

/-! ## Page entries (R166, R27) -/

/-- The actions of a receive map from 128 on (R166). -/
def rxActions : List RxEntry :=
  [.planeLetters, .planeFigures, .drop, .bell, .answerback, .subst]

/-- A receive map entry: a printable character, CR, LF, or an action (R27). -/
def rxEntryOf (n : Nat) : Option RxEntry :=
  if (32 ≤ n ∧ n ≤ 126) ∨ n = 10 ∨ n = 13 then some (.char (BitVec.ofNat 7 n))
  else if 128 ≤ n then named rxActions (n - 128) else none

/-- A receive map entry as a word. -/
def RxEntry.asWord : RxEntry → Word
  | .char o => word o.toNat
  | e => word (128 + position rxActions e)

/-- The planes of a send map, from 1 (R166). -/
def sendPlanes : List SendPlane := [.letters, .figures, .both]

/-- A send map entry: a code other than 27 and 31 with a plane, SUBST or DROP (R27). -/
def sendEntryOf (n : Nat) : Option SendEntry :=
  if n = 128 then some .subst
  else if n = 129 then some .drop
  else if 32 ≤ n ∧ n < 128 ∧ n % 32 ≠ 27 ∧ n % 32 ≠ 31 then
    (named sendPlanes (n / 32 - 1)).map (fun p => .code (BitVec.ofNat 5 (n % 32)) p)
  else none

/-- A send map entry as a word. -/
def SendEntry.asWord : SendEntry → Word
  | .code c p => word (c.toNat + 32 * (position sendPlanes p + 1))
  | .subst => 128#16
  | .drop => 129#16

/-- A substitute: a printable character (R27). -/
def substituteOf (n : Nat) : Option Office :=
  if 32 ≤ n ∧ n ≤ 126 then some (BitVec.ofNat 7 n) else none

/-! ## Circuit configurations (R7, R169) -/

/-- A carriage width: 0 or 20 to 132 (R7, R44). -/
def validWidth (n : Nat) : Bool := decide (n = 0 ∨ (20 ≤ n ∧ n ≤ 132))

/-- A character an answerback string may hold (R7, note 2). -/
def answerbackChar (o : Office) : Bool := isPrintable o || isLineEnd o

/-- Every field of a configuration is in its range (R7). -/
def CircuitConfig.valid (c : CircuitConfig) : Bool :=
  decide (1 ≤ c.speedClass ∧ c.speedClass ≤ 7)
  && decide (8192 ≤ c.programmedN ∧ c.programmedN ≤ 65535)
  && validWidth c.width
  && decide (1 ≤ c.lossTime ∧ c.lossTime ≤ 120)
  && decide (1 ≤ c.restoreTime ∧ c.restoreTime ≤ 60)
  && decide (10 ≤ c.idleLimit ∧ c.idleLimit ≤ 900)
  && decide (c.answerback.length ≤ 20) && c.answerback.all answerbackChar
  && decide (c.motorLead ≤ 255) && decide (c.runOn ≤ 8191)

/-- The configuration section 0 of CIRCUIT_SET carries, with its answerback string; none when a listed
field names no value or a field fails its check (R7, R169). -/
def circuitConfigOf (args : Vector Word 8) (answerback : List Office) : Option CircuitConfig := do
  let stop ← named stops (nibble (args.get 1) 1)
  let polarity ← named polarities (nibble (args.get 1) 2)
  let filter ← named filters (nibble (args.get 1) 3)
  let page ← pageOf (nibble (args.get 3) 0)
  let unshift ← optionOf (nibble (args.get 3) 1)
  let guard ← optionOf (nibble (args.get 3) 2)
  let stopping ← optionOf (nibble (args.get 3) 3)
  let cfg : CircuitConfig :=
    { speedClass := nibble (args.get 1) 0
      programmedN := (args.get 2).toNat
      stop := stop
      polarity := polarity
      filter := filter
      page := page
      unshiftOnSpace := unshift
      shiftGuard := guard
      width := hiByte (args.get 4)
      lossTime := hiByte (args.get 5)
      restoreTime := loByte (args.get 5)
      idleLimit := (args.get 6).toNat
      breakStopsSending := stopping
      answerback := answerback
      motorLead := loByte (args.get 4)
      runOn := (args.get 7).toNat }
  if cfg.valid then some cfg else none

/-! ## Terminal configurations (R44) -/

/-- Every field of a port configuration is in its range (R44). -/
def PortConfig.valid (c : PortConfig) : Bool :=
  validWidth c.width && decide (5 ≤ c.stallTime ∧ c.stallTime ≤ 300)
  && decide (10 ≤ c.idleLimit ∧ c.idleLimit ≤ 900)

/-- The configuration TERMINAL_SET carries; none when a field is outside its range (R44). -/
def portConfigOf (args : Vector Word 8) : Option PortConfig := do
  let speed ← named speeds (args.get 1).toNat
  let parity ← named parities (args.get 2).toNat
  let authority ← named authorities (args.get 4).toNat
  let enable ← optionOf (args.get 7).toNat
  let cfg : PortConfig :=
    { speed := speed
      parity := parity
      width := (args.get 3).toNat
      authority := authority
      stallTime := (args.get 5).toNat
      idleLimit := (args.get 6).toNat
      enable := enable }
  if cfg.valid then some cfg else none

/-! ## Counter settings and selectors (R144, R152) -/

/-- Every setting is in its range (R144). -/
def CounterSettings.valid (c : CounterSettings) : Bool :=
  decide (1 ≤ c.max ∧ c.max ≤ 8191) && decide (c.delay ≤ 8191)
  && decide (c.toggles.length ≤ 4) && c.toggles.all (fun n => decide (n ≤ 8191))

/-- The settings COUNTER_ACTION carries; none when one is outside its range (R144, R145). -/
def counterSettingsOf (args : Vector Word 8) : Option CounterSettings := do
  let use ← named uses (nibble (args.get 1) 0)
  let skip ← optionOf (nibble (args.get 1) 1)
  let start ← named levels (nibble (args.get 1) 2)
  if 4 < nibble (args.get 1) 3 then none
  else
    let cfg : CounterSettings :=
      { use := use
        max := (args.get 2).toNat
        delay := (args.get 3).toNat
        skip := skip
        startLevel := start
        toggles := ([(args.get 4).toNat, (args.get 5).toNat, (args.get 6).toNat,
          (args.get 7).toNat] : List Nat).take (nibble (args.get 1) 3) }
    if cfg.valid then some cfg else none

/-- The selector OUTPUT_SET carries; none when an input or a level is out of its list (R152). -/
def selectorOf (args : Vector Word 8) : Option Selector := do
  let a ← named conditions (args.get 2).toNat
  let b ← named conditions (args.get 3).toNat
  let ff ← named levels (args.get 4).toNat
  let ft ← named levels (args.get 5).toNat
  let tf ← named levels (args.get 6).toNat
  let tt ← named levels (args.get 7).toNat
  some ⟨a, b, ff, ft, tf, tt⟩

end Sys2Proof.Machine
end

