-- ==== Sys2Proof/Machine/Line.lean ====
section
/-! DEFINITION. Unit timing, polarity, the glitch filter, slips and the judging of a survey (R11 to R13,
R17, R22); applying a configuration and the quiet point (R9, R10). -/

namespace Sys2Proof.Machine

/-! ## Unit timing and polarity -/

/-- The unit interval of classes 1 to 6 (R11). -/
def classN : Nat → Nat
  | 1 => 27036
  | 2 => 24576
  | 3 => 21596
  | 4 => 16561
  | 5 => 16384
  | _ => 12288

/-- The unit interval of a class under a configuration (R11, R22). -/
def CircuitConfig.nOfClass (c : CircuitConfig) (k : Nat) : Nat :=
  if k = 7 then c.programmedN else classN k

/-- The unit interval of a circuit (R11). -/
def CircuitConfig.n (c : CircuitConfig) : Nat := c.nOfClass c.speedClass

/-- A level read through a polarity (R12). -/
def Polarity.reads : Polarity → Level → Signal
  | .markHigh, .high => .mark
  | .markHigh, .low => .space
  | .markLow, .high => .space
  | .markLow, .low => .mark

/-- The level of a signal under a polarity (R12). -/
def Polarity.drives : Polarity → Signal → Level
  | .markHigh, .mark => .high
  | .markHigh, .space => .low
  | .markLow, .mark => .low
  | .markLow, .space => .high

/-- The accepted receive input as mark or space (R12). -/
def Circuit.reads (c : Circuit) : Signal := c.config.polarity.reads c.rxLine

/-- The accepted receive input moved to a signal. -/
def Circuit.withInput (c : Circuit) (x : Signal) : Circuit :=
  { c with rxLine := c.config.polarity.drives x }

/-- The filter width in ticks (R13). -/
def CircuitConfig.filterWidth (c : CircuitConfig) : Nat :=
  match c.filter with
  | .off => 0
  | .sixteenth => c.n / 16
  | .eighth => c.n / 8
  | .quarter => c.n / 4

/-- A level change is accepted: the new level has held for the filter width and differs from the
accepted one (R13). -/
def Circuit.accepts (c : Circuit) (x : Signal) (held : Nat) : Bool :=
  decide (c.config.filterWidth ≤ held) && decide (c.reads ≠ x)

/-! ## Slips -/

/-- The distance between two tick counts. -/
def distance (a b : Nat) : Nat := (a - b) + (b - a)

/-- The unit boundary nearest to an edge, 1 to 6, the earlier of two at the same distance (R17). -/
def nearestBoundary (n ticks : Nat) : Nat :=
  [2, 3, 4, 5, 6].foldl
    (fun best k => if distance ticks (k * n) < distance ticks (best * n) then k else best) 1

/-- What an edge inside a character counts as (R17). -/
inductive Slip
  | none
  | early
  | late
  deriving DecidableEq, Repr

/-- An edge judged: only edges dated after the start sample and up to the stop sample are compared, and
a slip lies more than 0.3 unit from its boundary (R17). -/
def judgeEdge (n ticks : Nat) : Slip :=
  let b := nearestBoundary n ticks * n
  if ticks ≤ n / 2 ∨ 13 * n / 2 < ticks then .none
  else if ticks + 3 * n / 10 < b then .early
  else if b + 3 * n / 10 < ticks then .late
  else .none

/-- A slip counted and the slip flag set (R17). -/
def Circuit.slipped (c : Circuit) : Slip → Circuit
  | .none => c
  | .early =>
    { c with
      slipFlag := true
      counts := { c.counts with earlySlips := satInc Config.slipMax c.counts.earlySlips } }
  | .late =>
    { c with
      slipFlag := true
      counts := { c.counts with lateSlips := satInc Config.slipMax c.counts.lateSlips } }

/-! ## Surveys -/

/-- A class matches a pulse: the difference is at most 6 % of its N (R22). -/
def classMatches (n p : Nat) : Bool := decide (100 * distance p n ≤ 6 * n)

/-- The better of a class found so far and the next one: the smaller deviation, the earlier where they
are equal (R22). -/
def betterClass (cfg : CircuitConfig) (p : Nat) (best : Option Nat) (k : Nat) : Option Nat :=
  if classMatches (cfg.nOfClass k) p then
    match best with
    | none => some k
    | some b =>
      if distance p (cfg.nOfClass k) * cfg.nOfClass b < distance p (cfg.nOfClass b) * cfg.nOfClass k
      then some k else some b
  else best

/-- The result of a survey record (R22). -/
def judgeSurvey (cfg : CircuitConfig) (r : SurveyRecord) : SurveyResult :=
  if r.edges < 8 then .noSignal
  else
    match [1, 2, 3, 4, 5, 6, 7].foldl (betterClass cfg (min r.shortestMark r.shortestSpace)) none with
    | some k => .speedClass k
    | none => .noMatch

/-- The seconds of a timed gate (R20). -/
def SurveyGate.seconds : SurveyGate → Option Nat
  | .oneSecond => some 1
  | .fourSeconds => some 4
  | .eightSeconds => some 8
  | .untimed => none

/-! ## Reception restarted, configurations applied, the quiet point -/

/-- Reception begun afresh: HUNTING in letters, no far break and no loss timer (R2, R10, R22, R25). -/
def Circuit.hunt (c : Circuit) : Circuit :=
  { c with
    rxPhase := .hunting
    rxPlane := .letters
    lossTimer := none
    edges := []
    allSpace := false
    afterStop := false }

/-- A configuration put in place on a LOST circuit: the restore timer is cleared, and runs at once in
receiver phase IDLE if the input now reads mark (R10). -/
def Circuit.reconfigureLost (c : Circuit) : Circuit :=
  match c.reads with
  | .mark => { c with restoreTimer := some 0, rxPhase := .idle }
  | .space => { c with restoreTimer := none }

/-- A configuration replaces the current one, and any pending one is gone (R8, R10). A far break it ends
is ended for the condition FAR_BREAK too, so the outputs, "unchanged" in R153, follow it (DEDUCED, log 38). -/
def Circuit.apply (c : Circuit) (cfg : CircuitConfig) : Circuit :=
  let d := { c with config := cfg, pendingConfig := none }
  match c.state, c.survey with
  | .opened, false => d.hunt
  | .lost, _ => d.reconfigureLost
  | .opened, true | .closed, _ => d

/-- A configuration applied to a circuit (R10). -/
def applyConfig (c : Fin 16) (cfg : CircuitConfig) (s : State) : State :=
  s.modCircuit c (fun x => x.apply cfg)

/-- A circuit is at its quiet point (R9). -/
def State.quiet (s : State) (c : Fin 16) : Bool :=
  !s.sourceLive (.circuit c) && !s.outletLive (lineOutlet c)

/-- The test for the quiet point: a pending configuration is applied if the circuit is quiet (R9). -/
def quietTest (c : Fin 16) (s : State) : State :=
  match (s.circuit c).pendingConfig with
  | some cfg => if s.quiet c then applyConfig c cfg s else s
  | none => s

/-- The test for the quiet point of a line outlet's circuit (R82). -/
def quietTestOutlet (o : Fin 24) (s : State) : State :=
  match outletCircuit o with
  | some c => quietTest c s
  | none => s

/-- The test for the quiet point of a circuit source (R9). -/
def quietTestSource (src : Source) (s : State) : State :=
  match src with
  | .circuit c => quietTest c s
  | .terminal _ => s

end Sys2Proof.Machine
end

