-- ==== Sys2Proof/Machine/Drive.lean ====
section
/-! DEFINITION. The send outputs of circuits and terminals: the elements of a character in progress, and
the steady level between characters (R2 to R5, R10, R12, R18, R19, R25, R45 to R47, R53, R55, R148,
R153). No output is a field of State: each is read from the records that drive it (log 30). -/

namespace Sys2Proof.Machine

/-! ## Circuits -/

/-- The length of a stop element in ticks (R18; log 30 for one and a half units of an odd N). -/
def StopLength.ticks (n : Nat) : StopLength → Nat
  | .one => n
  | .oneAndHalf => 3 * n / 2
  | .two => 2 * n

/-- A code as it starts on a circuit's line, at the unit interval, stop length and polarity then in
force (R10, R18). -/
def Circuit.startChar (c : Circuit) (code : Code) (owner : SendOwner) : LineChar :=
  { code := code, owner := owner, n := c.config.n, stop := c.config.stop, polarity := c.config.polarity }

/-- A data unit: mark where the bit is 1 (R18, R53). -/
def dataSignal (bit : Bool) : Signal := if bit then .mark else .space

/-- A character on a line as marks and spaces: the start element, units 1 to 5, the stop element
(R18). -/
def LineChar.signals (x : LineChar) : List (Signal × Nat) :=
  (.space, x.n) :: (List.range 5).map (fun i => (dataSignal (x.code.getLsbD i), x.n))
    ++ [(.mark, x.stop.ticks x.n)]

/-- The levels of a character on a line, by the polarity it started at (R12, R18). -/
def LineChar.elements (x : LineChar) : List (Level × Nat) :=
  x.signals.map (fun e => (x.polarity.drives e.1, e.2))

/-- A circuit's send output between characters: space while the counter's break holds it, and mark
otherwise; a CLOSED circuit's is at mark (1.2, R18, R148). -/
def State.restSignal (s : State) (c : Fin 16) : Signal :=
  if (s.circuit c).state ≠ .closed ∧ (s.control c).breaking then .space else .mark

/-- A circuit's send output (R12, R18, R19, R148). -/
def State.lineDrive (s : State) (c : Fin 16) : Drive Level :=
  match (s.circuit c).sending with
  | some x => .elements x.elements
  | none => .steady ((s.circuit c).config.polarity.drives (s.restSignal c))

/-! ## Terminals -/

/-- A bit in ticks of the line reference, which 1.2288 MHz divided by the speed gives exactly (R44). -/
def Speed.bitTicks : Speed → Nat
  | .baud300 => 4096
  | .baud600 => 2048
  | .baud1200 => 1024
  | .baud2400 => 512
  | .baud4800 => 256
  | .baud9600 => 128

/-- The marks among the data bits (R48). -/
def marksIn (data : Office) : Nat := ((List.finRange 7).filter (fun i => data.getLsbD i.val)).length

/-- A parity error (R48). -/
def parityError (p : Parity) (data : Office) (bit : Bool) : Bool :=
  let n := marksIn data + (if bit then 1 else 0)
  match p with
  | .even => decide (n % 2 = 1)
  | .odd => decide (n % 2 = 0)
  | .off => false

/-- The parity bit sent, unless the parity is none: the one that gives the count of marks R48 requires
(R53). -/
def parityBit (p : Parity) (data : Office) : Option Bool :=
  match p with
  | .off => none
  | .even | .odd => some (parityError p data false)

/-- A character as it starts on a terminal's line, at the speed and parity then in force (R46, R53). -/
def Port.startChar (p : Port) (ch : Office) : PortChar :=
  { char := ch, orphan := false, speed := p.config.speed, parity := p.config.parity }

/-- The bits of a character on a terminal's line: start, data with the least significant first, parity,
stop (R53). -/
def PortChar.signals (x : PortChar) : List Signal :=
  [.space] ++ (List.range 7).map (fun i => dataSignal (x.char.getLsbD i))
    ++ ((parityBit x.parity x.char).map dataSignal).toList ++ [.mark]

/-- The elements of a character on a terminal's line (R44, R53). -/
def PortChar.elements (x : PortChar) : List (Signal × Nat) :=
  x.signals.map (fun e => (e, x.speed.bitTicks))

/-- A terminal's send output: mark while the send phase is IDLE (R53). -/
def State.terminalDrive (s : State) (t : Fin 8) : Drive Signal :=
  match (s.port t).sending with
  | some x => .elements x.elements
  | none => .steady .mark

end Sys2Proof.Machine
end

