-- ==== Sys2Proof/Machine/Table.lean ====
section
/-! DEFINITION. The Story Table's own operations: allocation and numbering (R76, R78), header faults and
rejections (R79, R80), owed items (R130), the cut of an entry (R82), closing (R89), retiring (R98). -/

namespace Sys2Proof.Machine

/-! ## Opening -/

/-- The number after a story number, 9999 being followed by 1 (R76). -/
def nextNumberAfter (n : Nat) : Nat := if n < 9999 then n + 1 else 1

/-- The first number from n on that no record which is not FREE carries (R76). At most 48 are carried,
so 49 trials find one. -/
def drawNumber (s : State) : Nat → Nat → Nat
  | 0, n => n
  | fuel + 1, n =>
    if (s.findNumber n).isSome then drawNumber s fuel (nextNumberAfter n) else n

/-- A record made FREE: it leaves the open-order list (R75, R98). -/
def freeRecord (k : Fin 48) (s : State) : State :=
  { s.setStory k {} with openOrder := s.openOrder.filter (fun j => j ≠ k) }

/-- The lowest FREE slot (R78). -/
def State.freeSlot (s : State) : Option (Fin 48) :=
  allSlots.find? (fun k => (s.story k).state = .free)

/-- The CLOSED record that stands earliest in the open-order list among those no outlet owes an item for
(R78). -/
def State.reclaimable (s : State) : Option (Fin 48) :=
  s.openOrder.find? (fun k => (s.story k).state = .closed ∧ s.owedAnywhere k = false)

/-- A FREE record allocated to a source (R73, R75, R76, R78). -/
def allocate (src : Source) (k : Fin 48) (s : State) : State :=
  let n := drawNumber s 49 s.nextNumber
  { s.setStory k
      { state := .header, number := n, source := src, opened := s.regs.clock, idleTimer := some 0,
        changed := true } with
    openOrder := s.openOrder ++ [k]
    nextNumber := nextNumberAfter n }

/-- The slot an open is given, and the state with that slot's record FREE (R78). -/
def claimSlot (s : State) : Option (Fin 48) × State :=
  match s.freeSlot with
  | some k => (some k, s)
  | none =>
    match s.reclaimable with
    | some k => (some k, freeRecord k s)
    | none => (none, s)

/-- An open claimed for a source: granted with a slot, or refused with TABLE_FULL raised (R78). -/
def openClaim (src : Source) (s : State) : Option (Fin 48) × State :=
  match claimSlot s with
  | (some k, s1) => (some k, allocate src k s1)
  | (none, s1) => (none, s1.raise .tableFull)

/-! ## Rejecting a header -/

/-- A close reason's words in a reply, underscores written as hyphens (R64). -/
def CloseReason.replyWords : CloseReason → List Office
  | .headerFault => text ['H', 'E', 'A', 'D', 'E', 'R', '-', 'F', 'A', 'U', 'L', 'T']
  | .unknownDesk => text ['U', 'N', 'K', 'N', 'O', 'W', 'N', '-', 'D', 'E', 'S', 'K']
  | .noRoute => text ['N', 'O', '-', 'R', 'O', 'U', 'T', 'E']
  | .noOutlet => text ['N', 'O', '-', 'O', 'U', 'T', 'L', 'E', 'T']
  | .closer | .idleEnd | .tooLong | .killed | .sourceLost => []

/-- A story in HEADER closed with a reason: STORY_REJECTED, a line offered to a terminal source, the
quiet point of a circuit source (R64, R79, R80, R9). -/
def rejectStory (k : Fin 48) (why : CloseReason) (s : State) : State :=
  let src := (s.story k).source
  let s := s.modStory k (fun st =>
    { st with state := .closed, reason := some why, closed := some s.regs.clock, idleTimer := none })
  let s := s.raise .storyRejected
  let s := s.offerSource src (text ['N', 'O', ' '] ++ why.replyWords)
  quietTestSource src s

/-! ## Owed items and cuts -/

/-- An item added to a list: in place of the slot's item if it has one, otherwise at the tail (R130). -/
def addItem (item : OwedItem) (l : List OwedItem) : List OwedItem :=
  if l.any (fun i => i.slot = item.slot) then
    l.map (fun i => if i.slot = item.slot then item else i)
  else l ++ [item]

/-- An outlet takes items: it is neither OFF nor STALLED (R130). -/
def OutletState.takesItems : OutletState → Bool
  | .off | .stalled => false
  | .idle | .starting | .sending | .paused => true

/-- An item owed on an outlet (R130). -/
def oweItem (o : Fin 24) (kind : OwedKind) (k : Fin 48) (s : State) : State :=
  if (s.outlet o).state.takesItems then
    s.modOutlet o (fun x => { x with owed := addItem ⟨kind, k⟩ x.owed })
  else s

/-- The item a cut owes on the entry's outlet (R82). -/
def CutReason.item : CutReason → Option OwedKind
  | .lapped | .blockLimit | .removed => some .cut
  | .killed => some .kill
  | .outletLost | .stall => none

/-- A cut raises DEST_CUT itself (R82; a stall raises it once, R138). -/
def CutReason.flagged : CutReason → Bool
  | .lapped | .blockLimit => true
  | .removed | .killed | .outletLost | .stall => false

/-- An entry cut at a taken count (R82). -/
def Entry.cut (e : Entry) (taken : Nat) (why : CutReason) : Entry :=
  { e with state := .cut why, lost := taken - e.read, holdMark := false, owed := .none }

/-- A slot leaves an outlet: its waiting list and its holder (R82). -/
def Outlet.leave (x : Outlet) (k : Fin 48) : Outlet :=
  { x with
    waiting := x.waiting.filter (fun j => j ≠ k)
    holder := if x.holder = some k then none else x.holder }

/-- An item owed where a cut owes one. -/
def oweCut (o : Fin 24) (k : Fin 48) (why : CutReason) (s : State) : State :=
  match why.item with
  | some kind => oweItem o kind k s
  | none => s

/-- A story's live entry for an outlet cut, with the item it owes and its flag, without the tests that
follow (R82). An entry that is not live is left as it is. -/
def cutRecord (k : Fin 48) (o : Fin 24) (why : CutReason) (s : State) : State :=
  if (s.story k).liveOn o then
    let taken := (s.story k).taken
    let s := s.modStory k (fun st => st.modEntry o (fun e => e.cut taken why))
    let s := s.modOutlet o (fun x => x.leave k)
    let s := oweCut o k why s
    s.raiseIf why.flagged .destCut
  else s

/-- The outlets of a story's entries that satisfy a test. -/
def Story.outletsWhere (st : Story) (p : Entry → Bool) : List (Fin 24) :=
  (st.entries.filter p).map (·.outlet)

/-! ## Closing -/

/-- A CLOSING story with no live entry left becomes CLOSED (R89). -/
def closeIfDone (k : Fin 48) (s : State) : State :=
  if (s.story k).state = .closing ∧ (s.story k).anyLive = false then
    (s.modStory k (fun st => { st with state := .closed, closed := some s.regs.clock })).raise
      .storyClosed
  else s

/-- A RUNNING story goes to CLOSING (R89). -/
def toClosing (k : Fin 48) (why : CloseReason) (s : State) : State :=
  let src := (s.story k).source
  let s := s.modStory k (fun st =>
    { st with state := .closing, reason := some why, idleTimer := none, blockedSince := none,
              blockTimer := none })
  closeIfDone k (quietTestSource src s)

/-! ## Finding and retiring -/

/-- The record a slug finds: the latest in the open-order list whose slug equals it (R96). -/
def State.findSlug (s : State) (cs : List Office) : Option (Fin 48) :=
  s.openOrder.reverse.find? (fun k => (s.story k).slug = some cs)

/-- A record can be made FREE: CLOSED, with no item owed on any outlet (R98). -/
def State.retirable (s : State) (k : Fin 48) : Bool :=
  decide ((s.story k).state = .closed) && !s.owedAnywhere k

end Sys2Proof.Machine
end

