-- ==== Sys2Proof/Machine/Framing.lean ====
section
/-! DEFINITION. The Story Framer outside a story: IDLE, OPENER_MATCH, DISCARD and a closer matched from
DISCARD (R58 to R61, R66, R68), the header line's form (R63), and the events that end a framer's story
(R69 to R71). -/

namespace Sys2Proof.Machine

/-- The source of framer i: circuit Ln for n, terminal Tn for 16 + n (00, Numbering). -/
def framerOf (src : Source) (s : State) : Framer := s.framer src.index

/-- A source's framer changed. -/
def modFramerOf (src : Source) (f : Framer → Framer) (s : State) : State := s.modFramer src.index f

/-- The marks after a character is taken: the line start set by CR and LF alone, the line-end mark
cleared (R58). -/
def Framer.took (f : Framer) (ch : Office) : Framer :=
  { f with lineStart := isLineEnd ch, lineEnd := false }

/-- The character is the LF of a line end already taken (R58). -/
def Framer.swallows (f : Framer) (ch : Office) : Bool := f.lineEnd && decide (ch = lf)

/-- "N". -/
def letterN : Office := office 'N'
/-- "E". -/
def letterE : Office := office 'E'
/-- The opener (00, Terms). -/
def opener : List Office := text ['N', 'R', 'N', 'R']
/-- The closer (00, Terms). -/
def closer : List Office := text ['E', 'N', 'E', 'N']

/-- A match begun on a first letter (R59, R65, R68). -/
def Framer.begin (f : Framer) (st : FramerState) (origin : MatchOrigin) (ch : Office) : Framer :=
  { f.took ch with state := st, origin := some origin, holdBack := [ch] }

/-- The rest of a closer line ignored up to the CR or LF that ends it (R66). -/
def Framer.ignoreTail (f : Framer) (ch : Office) : Framer :=
  { f.took ch with tail := f.tail && !isLineEnd ch, lineEnd := decide (ch = cr) }

/-- A framer in IDLE takes a character (R59). -/
def takeIdle (src : Source) (ch : Office) (s : State) : State :=
  let f := framerOf src s
  if f.swallows ch then modFramerOf src (fun g => g.took ch) s
  else if ch = letterN ∧ f.lineStart then modFramerOf src (fun g => g.begin .openerMatch .idle ch) s
  else if ¬ f.lineStart ∧ f.tail then modFramerOf src (fun g => g.ignoreTail ch) s
  else (modFramerOf src (fun g => g.took ch) s).addLoose src 1

/-- A framer in DISCARD takes a character (R68). -/
def takeDiscard (src : Source) (ch : Office) (s : State) : State :=
  let f := framerOf src s
  if f.swallows ch then modFramerOf src (fun g => g.took ch) s
  else if ch = letterN ∧ f.lineStart then
    modFramerOf src (fun g => g.begin .openerMatch .discard ch) s
  else if ch = letterE ∧ f.lineStart then
    modFramerOf src (fun g => g.begin .closerMatch .discard ch) s
  else (modFramerOf src (fun g => g.took ch) s).addLoose src 1

/-- The letter that extends a match of a word. -/
def extends? (pattern held : List Office) (ch : Office) : Bool := pattern[held.length]? = some ch

/-- The framer after a granted open (R61). -/
def Framer.granted (f : Framer) (k : Fin 48) : Framer :=
  { f with state := .header, origin := none, holdBack := [], header := opener, slot := some k }

/-- The framer after a refused open (R61). -/
def Framer.refusedOpen (f : Framer) : Framer :=
  { f with state := .discard, origin := none, holdBack := [], lineStart := false }

/-- The opener complete: an open is claimed (R61). -/
def completeOpener (src : Source) (s : State) : State :=
  match openClaim src s with
  | (some k, s1) => modFramerOf src (fun f => f.granted k) s1
  | (none, s1) =>
    ((modFramerOf src (fun f => f.refusedOpen) s1).addRefusedOpen src).addLoose src 4

/-- The framer back in the state a match that failed came from, outside a story (R60, R66). -/
def Framer.failed (f : Framer) : Framer :=
  { f with
    state := if f.origin = some .discard then .discard else .idle
    origin := none
    holdBack := []
    lineStart := false }

/-- A match failed outside a story: the held characters are loose copy, and the mismatching character
is taken in the state returned to (R60, R66). -/
def failMatch (src : Source) (ch : Office) (s : State) : State :=
  let f := framerOf src s
  let s := (modFramerOf src (fun g => g.failed) s).addLoose src f.holdBack.length
  if f.origin = some .discard then takeDiscard src ch s else takeIdle src ch s

/-- A framer in OPENER_MATCH takes a character that does not complete the opener (R60). -/
def extendOpener (src : Source) (ch : Office) (s : State) : State :=
  if extends? opener (framerOf src s).holdBack ch then
    modFramerOf src (fun g => { g.took ch with holdBack := g.holdBack ++ [ch] }) s
  else failMatch src ch s

/-- A framer in OPENER_MATCH takes a character; the fourth letter completes the opener (R60, R61). -/
def takeOpenerMatch (src : Source) (ch : Office) (s : State) : State :=
  let held := (framerOf src s).holdBack
  if extends? opener held ch ∧ held.length = 3 then completeOpener src (extendOpener src ch s)
  else extendOpener src ch s

/-- The framer at a completed closer: IDLE with the tail mark set and the line-start mark clear
(R66). -/
def Framer.closerDone (f : Framer) : Framer :=
  { f with
    state := .idle
    origin := none
    holdBack := []
    slot := none
    tail := true
    lineStart := false
    lineEnd := false }

/-- A framer in CLOSER_MATCH with origin DISCARD takes a character (R66). -/
def takeCloserDiscard (src : Source) (ch : Office) (s : State) : State :=
  let f := framerOf src s
  if extends? closer f.holdBack ch then
    if f.holdBack.length = 3 then (modFramerOf src (fun g => g.closerDone) s).addLoose src 4
    else modFramerOf src (fun g => { g.took ch with holdBack := g.holdBack ++ [ch] }) s
  else failMatch src ch s

/-- The characters left over when the taken count reaches its ceiling inside a write, taken in IDLE
oldest first (R69). Fewer than four are left, so no opener completes among them. -/
def takeLeftover (src : Source) (chs : List Office) (s : State) : State :=
  forEach chs
    (fun ch t =>
      if (framerOf src t).state = .openerMatch then extendOpener src ch t
      else takeIdle src ch t)
    s

/-! ## The header line's form -/

/-- The recorded fields of a header (R63). -/
structure HeaderFields where
  origin : Option Nat
  priority : Priority
  desk : DeskCode
  slug : List Office
  correction : Option Nat
  deriving DecidableEq, Repr

/-- Exactly four digits. -/
def isFourDigits (f : List Office) : Bool := decide (f.length = 4) && f.all isDigit

/-- The story number of a field of four digits, 0001 to 9999. -/
def numberField (f : List Office) : Option Nat :=
  if isFourDigits f ∧ digitsValue f ≠ 0 then some (digitsValue f) else none

/-- The optional correction at the end of a header: some none when it is not there (R63). -/
def correctionFields : List (List Office) → Option (Option Nat)
  | [] => some none
  | [c, n] => if c = text ['C'] then (numberField n).map some else none
  | _ => none

/-- The fields from the priority on (R63). -/
def headerBody (origin : Option Nat) : List (List Office) → Option HeaderFields
  | [p] :: [a, b] :: slug :: rest =>
    match priorityOfLetter p, correctionFields rest with
    | some pr, some corr =>
      if isCapital a ∧ isCapital b ∧ 1 ≤ slug.length ∧ slug.length ≤ 20 then
        some ⟨origin, pr, ⟨a, b⟩, slug, corr⟩
      else none
    | _, _ => none
  | _ => none

/-- A header line judged: its recorded fields, or none for a fault (R63). The line includes the four
letters of the opener. -/
def parseHeader (line : List Office) : Option HeaderFields :=
  match line.drop 4 with
  | [] => none
  | sp :: rest =>
    let fs := fields rest
    if sp = space ∧ fs.all (fun f => f ≠ [] ∧ f.all isFieldChar) then
      match fs with
      | f :: more =>
        if isFourDigits f then
          match numberField f with
          | some n => headerBody (some n) more
          | none => none
        else headerBody none fs
      | [] => none
    else none

/-! ## Events that end a framer's story -/

/-- The framer sent to IDLE with every buffer and mark as after a reset (R71). -/
def resetFramer (src : Source) (s : State) : State := modFramerOf src (fun _ => {}) s

/-- The framer after an over-long header, or one ended by silence: DISCARD without its story (R62,
R69). -/
def Framer.dropHeader (f : Framer) : Framer :=
  { f with state := .discard, slot := none, header := [] }

/-- The framer after a story ended by the table in IN_STORY or CLOSER_MATCH: IDLE at a line start
(R69). -/
def Framer.giveUp (f : Framer) : Framer :=
  { f with
    state := .idle
    origin := none
    slot := none
    holdBack := []
    outstanding := none
    withdrawn := false
    lineStart := true
    tail := false }

/-- The framer after a kill of its story (R70). -/
def Framer.killed (f : Framer) : Framer :=
  { f with
    state := .discard
    origin := none
    slot := none
    holdBack := []
    header := []
    outstanding := none
    withdrawn := false
    lineEnd := false }

end Sys2Proof.Machine
end

