-- ==== Sys2Proof/Machine/Writing.lean ====
section
/-! DEFINITION. Text into the window: writes, laps and blocking (R83 to R85), the outstanding write
offered again (R67, R85), and the cut of an entry with the tests that follow it (R82). -/

namespace Sys2Proof.Machine

/-! ## The input queue's ready line -/

/-- Ready out judged from the queue's length (R52). -/
def readyFor (length : Nat) (now : Level) : Level :=
  if 12 ≤ length then .low else if length ≤ 4 then .high else now

/-- A port's queue changed, ready out judged afresh (R52). -/
def Port.withQueue (p : Port) (q : List Office) : Port :=
  { p with queue := q, readyOut := readyFor q.length p.readyOut }

/-- The head of a terminal's queue taken (R51). -/
def popQueue (t : Fin 8) (s : State) : State := s.modPort t (fun p => p.withQueue p.queue.tail)

/-! ## Writes -/

/-- A character joins a story's text: the counts rise and the window keeps the last 128 (R83). -/
def Story.append (st : Story) (ch : Office) : Story :=
  let w := st.window ++ [ch]
  { st with
    taken := st.taken + 1
    lines := if ch = cr then st.lines + 1 else st.lines
    window := w.drop (w.length - Config.windowSize) }

/-- The entries a circuit write at the taken count laps, cut with their quiet points tested (R84,
R82). -/
def lapCuts (k : Fin 48) (s : State) : State :=
  let t := (s.story k).taken
  let lagging := (s.story k).outletsWhere
    (fun e => e.state.live && decide (e.read + Config.windowSize ≤ t))
  forEach lagging (fun o u => quietTestOutlet o (cutRecord k o .lapped u)) s

/-- One character written: on a circuit source the entries it laps are cut first (R84). -/
def writeOne (k : Fin 48) (ch : Office) (s : State) : State :=
  let s := match (s.story k).source with
    | .circuit _ => lapCuts k s
    | .terminal _ => s
  s.modStory k (fun st => st.append ch)

/-- Characters written up to the ceiling of the taken count; the rest comes back (R83). -/
def writeChars (k : Fin 48) : List Office → State → List Office × State
  | [], s => ([], s)
  | ch :: rest, s =>
    if (s.story k).taken < Config.takenMax then writeChars k rest (writeOne k ch s)
    else (ch :: rest, s)

/-- A write that goes ahead: blocked-since becomes absent, the characters are written, and a story at
65535 goes to CLOSING with TOO_LONG (R83, R85). -/
def writeText (k : Fin 48) (chs : List Office) (s : State) : List Office × State :=
  let s := if (s.story k).blockedSince = none then s
    else s.modStory k (fun st => { st with blockedSince := none, blockTimer := none })
  let r := writeChars k chs s
  if (r.2.story k).taken = Config.takenMax then (r.1, toClosing k .tooLong r.2) else r

/-- The framer after a write that went ahead: IN_STORY, at a line start if the last character was CR or
LF (R65, R66). -/
def Framer.wrote (f : Framer) (last : Office) : Framer :=
  { f.took last with state := .inStory, origin := none, holdBack := [], outstanding := none,
                     withdrawn := false }

/-- A write of a framer's story goes ahead and the framer completes the step it was making (R65, R66,
R69). -/
def completeWrite (src : Source) (k : Fin 48) (chs : List Office) (s : State) : State :=
  let r := writeText k chs s
  if (r.2.story k).state = .running then
    modFramerOf src (fun f => f.wrote (chs.getLastD space)) r.2
  else takeLeftover src r.1 (modFramerOf src (fun f => f.giveUp) r.2)

/-- The window of a terminal story has room for k characters, as many of them as will be written (R83,
R85). -/
def roomFor (st : Story) (k : Nat) : Bool :=
  let n := min k (Config.takenMax - st.taken)
  st.entries.all (fun e => !e.state.live || decide (st.taken + n ≤ e.read + Config.windowSize))

/-- The idle timer of a framer's story restarted by the taking of a character (R57, R88). -/
def restartIdle (k : Fin 48) (s : State) : State :=
  if (s.story k).idleTimer = none then s else s.setIdleTimer k (some 0)

/-- A terminal story's outstanding write offered again: taken whole if every live entry has room, the
framer then taking its head character (R67, R85). -/
def offerWrite (k : Fin 48) (s : State) : State :=
  match (s.story k).source with
  | .circuit _ => s
  | .terminal t =>
    let f := framerOf (.terminal t) s
    match f.outstanding with
    | none => s
    | some chs =>
      if f.slot = some k ∧ (s.story k).state = .running ∧ roomFor (s.story k) chs.length then
        completeWrite (.terminal t) k chs (restartIdle k (popQueue t s))
      else s

/-! ## Cuts with their tests -/

/-- The tests the table makes after a cut or a DONE (R82, R87). -/
def afterCut (k : Fin 48) (o : Fin 24) (s : State) : State :=
  offerWrite k (quietTestOutlet o (closeIfDone k s))

/-- A live entry cut, with the tests that follow (R82). -/
def cutEntry (k : Fin 48) (o : Fin 24) (why : CutReason) (s : State) : State :=
  if (s.story k).liveOn o then afterCut k o (cutRecord k o why s) else s

/-- Every live entry on an outlet cut with one reason (R94, R138). -/
def cutOutlet (o : Fin 24) (why : CutReason) (s : State) : State :=
  forEach allSlots (fun k t => cutEntry k o why t) s

/-! ## The framer inside a story -/

/-- The write a character would cause in IN_STORY, or in CLOSER_MATCH with origin IN_STORY (R65,
R66). -/
def writeCaused (f : Framer) (ch : Office) : Option (List Office) :=
  match f.state with
  | .inStory =>
    if f.swallows ch ∨ (ch = letterE ∧ f.lineStart) then none else some [ch]
  | .closerMatch => if extends? closer f.holdBack ch then none else some (f.holdBack ++ [ch])
  | .idle | .openerMatch | .header | .discard => none

/-- A framer in IN_STORY takes a character that its story has room for (R65). -/
def takeInStory (src : Source) (k : Fin 48) (ch : Office) (s : State) : State :=
  let f := framerOf src s
  if f.swallows ch then modFramerOf src (fun g => g.took ch) s
  else if ch = letterE ∧ f.lineStart then
    modFramerOf src (fun g => g.begin .closerMatch .inStory ch) s
  else completeWrite src k [ch] s

/-- A framer in CLOSER_MATCH with origin IN_STORY takes a character that its story has room for
(R66). -/
def takeCloserStory (src : Source) (k : Fin 48) (ch : Office) (s : State) : State :=
  let f := framerOf src s
  if extends? closer f.holdBack ch then
    if f.holdBack.length = 3 then toClosing k .closer (modFramerOf src (fun g => g.closerDone) s)
    else modFramerOf src (fun g => { g.took ch with holdBack := g.holdBack ++ [ch] }) s
  else completeWrite src k (f.holdBack ++ [ch]) s

end Sys2Proof.Machine
end

