-- ==== Sys2Proof/Machine/Routing.lean ====
section
/-! DEFINITION. The Desk Directory and routing (R101 to R108), correction inheritance (R81), the header
collected and completed (R62, R64, R80), and the framer's taking of a character in any state (R57). -/

namespace Sys2Proof.Machine

/-! ## The directory -/

/-- Every position of the directory, in ascending order. -/
def allPositions : List (Fin 32) := List.finRange 32

/-- The position of the entry that carries a desk code (R101). -/
def State.findDesk (s : State) (d : DeskCode) : Option (Fin 32) :=
  allPositions.find? (fun i => (s.desk i).any (fun e => e.code = d))

/-- The position of the default entry (R103). -/
def State.defaultDesk (s : State) : Option (Fin 32) :=
  allPositions.find? (fun i => (s.desk i).any (fun e => e.isDefault))

/-- The empty position with the lowest number (R102). -/
def State.emptyPosition (s : State) : Option (Fin 32) :=
  allPositions.find? (fun i => (s.desk i).isNone)

/-- The entry used, or the reason of the rejection (R106, steps 3 and 4). -/
def deskUsed (s : State) (found : Fin 32) (p : Priority) : Except CloseReason (Fin 32) :=
  match s.desk found with
  | none => .error .unknownDesk
  | some e =>
    if p.rank ≤ e.floor.rank then .ok found
    else
      match e.fallback.bind s.findDesk with
      | some j => .ok j
      | none => .error .noRoute

/-- The desk entry that routes a story, or the reason it is rejected (R106). -/
def chooseDesk (s : State) (d : DeskCode) (p : Priority) : Except CloseReason (Fin 32) :=
  match (s.findDesk d).orElse (fun _ => s.defaultDesk) with
  | none => .error .unknownDesk
  | some i => deskUsed s i p

/-! ## Filtering -/

/-- An outlet is available for routing and for adding (R107, R113). -/
def State.available (s : State) (o : Fin 24) : Bool :=
  (s.outlet o).state.takesItems
  && (match outletCircuit o with
      | some c => decide ((s.circuit c).state = .opened)
      | none =>
        match outletTerminal o with
        | some t => (s.port t).enabled
        | none => false)

/-- An outlet passes the speed test for a source: the N of current configurations is compared (R107,
R11). -/
def State.fastEnough (s : State) (src : Source) (o : Fin 24) : Bool :=
  match src, outletCircuit o with
  | .circuit c, some d => decide ((s.circuit d).config.n ≤ (s.circuit c).config.n)
  | .circuit _, none | .terminal _, _ => true

/-- An outlet stays in the set of a story of a source (R107). -/
def State.passes (s : State) (src : Source) (echo : Bool) (o : Fin 24) : Bool :=
  (decide (o ≠ src.index) || echo) && s.available o && s.fastEnough src o

/-- The outlets an outlet set names. -/
def setOutlets (x : BitVec 24) : List (Fin 24) := allOutlets.filter (fun o => x.getLsbD o.val)

/-- The original a correction inherits from (R81). -/
def State.originalOf (s : State) (k : Fin 48) (n : Nat) : Option (Fin 48) :=
  allSlots.find? (fun j => (s.story j).state ≠ .free ∧ (s.story j).number = n ∧ j ≠ k
    ∧ (s.story j).entries ≠ [])

/-- The echo mark of the entry a code names, clear where none carries it (R81). -/
def State.echoOf (s : State) (d : Option DeskCode) : Bool :=
  match d.bind s.findDesk with
  | some i => (s.desk i).any (fun e => e.echo)
  | none => false

/-! ## Completing a header -/

/-- A route found: the outlets, the routed desk and the position whose routed count rises. -/
structure Route where
  outlets : List (Fin 24)
  desk : Option DeskCode
  counted : Option (Fin 32)
  deriving DecidableEq, Repr

/-- A route, or NO_OUTLET where its filtered set is empty (R108). -/
def Route.nonempty (r : Route) : Except CloseReason Route :=
  if r.outlets = [] then .error .noOutlet else .ok r

/-- The route of a story by its desk code (R106, R107). -/
def routeByDesk (s : State) (src : Source) (h : HeaderFields) : Except CloseReason Route :=
  match chooseDesk s h.desk h.priority with
  | .error e => .error e
  | .ok i =>
    match s.desk i with
    | none => .error .unknownDesk
    | some e =>
      Route.nonempty ⟨(setOutlets e.outlets).filter (s.passes src e.echo), some e.code, some i⟩

/-- The route of a story: inherited from a correction's original, or by the desk code (R80, R81). -/
def routeStory (s : State) (k : Fin 48) (src : Source) (h : HeaderFields) :
    Except CloseReason Route :=
  match h.correction.bind (s.originalOf k) with
  | some j =>
    let orig := s.story j
    Route.nonempty
      ⟨(orig.entries.map (·.outlet)).filter (s.passes src (s.echoOf orig.routedDesk)),
       orig.routedDesk, none⟩
  | none => routeByDesk s src h

/-- A destination entry as it is created (R74). -/
def Entry.fresh (o : Fin 24) (st : EntryState) (start : Nat) (owed : EntryNotice) : Entry :=
  { outlet := o, state := st, start := start, read := start, owed := owed }

/-- An entry placed among a story's entries in order of outlet number (R74, R110). -/
def insertEntry (e : Entry) (l : List Entry) : List Entry :=
  l.filter (fun x => x.outlet.val < e.outlet.val) ++ [e]
    ++ l.filter (fun x => e.outlet.val < x.outlet.val)

/-- An entry created on a story, its slot joining the outlet's waiting list (R74). -/
def createEntry (k : Fin 48) (e : Entry) (s : State) : State :=
  (s.modStory k (fun st => { st with entries := insertEntry e st.entries })).modOutlet e.outlet
    (fun x => { x with waiting := x.waiting ++ [k] })

/-- The routed count of a position raised (R108). -/
def countRouted (i : Fin 32) (s : State) : State :=
  s.setDesk i ((s.desk i).map (fun e => { e with routed := inc e.routed }))

/-- A story routed (R80, R108). -/
def routed (k : Fin 48) (r : Route) (s : State) : State :=
  let s := match r.counted with
    | some i => countRouted i s
    | none => s
  let s := s.modStory k (fun st => { st with state := .running, routedDesk := r.desk })
  let s := forEach r.outlets (fun o t => createEntry k (.fresh o .waiting 0 .header) t) s
  s.raise .storyOpened

/-- The header fields recorded (R80). -/
def Story.withHeader (st : Story) (h : HeaderFields) : Story :=
  { st with origin := h.origin, priority := some h.priority, desk := some h.desk,
            slug := some h.slug, correctionOf := h.correction }

/-- Header completion: whether the story was routed, and the state after (R80). -/
def completeHeader (k : Fin 48) (h : HeaderFields) (s : State) : Bool × State :=
  let src := (s.story k).source
  let s := s.modStory k (fun st => st.withHeader h)
  match routeStory s k src h with
  | .ok r => (true, routed k r s)
  | .error why => (false, rejectStory k why s)

/-- The framer after a header routed: IN_STORY at a line start (R64). -/
def Framer.enterStory (f : Framer) (byCR : Bool) : Framer :=
  { f with state := .inStory, header := [], lineStart := true, lineEnd := byCR }

/-- The framer after a header faulted or rejected at its line end: DISCARD at a line start (R64). -/
def Framer.rejected (f : Framer) (byCR : Bool) : Framer :=
  { f with state := .discard, slot := none, header := [], lineStart := true, lineEnd := byCR }

/-- The header line judged at its line end (R64). -/
def judgeHeader (src : Source) (k : Fin 48) (byCR : Bool) (s : State) : State :=
  match parseHeader (framerOf src s).header with
  | none => modFramerOf src (fun f => f.rejected byCR) (rejectStory k .headerFault s)
  | some h =>
    match completeHeader k h s with
    | (true, s1) => modFramerOf src (fun f => f.enterStory byCR) s1
    | (false, s1) => modFramerOf src (fun f => f.rejected byCR) s1

/-- A framer in HEADER takes a character (R62). -/
def takeHeader (src : Source) (k : Fin 48) (ch : Office) (s : State) : State :=
  if isLineEnd ch then judgeHeader src k (decide (ch = cr)) s
  else if (framerOf src s).header.length < 40 then
    modFramerOf src (fun g => { g.took ch with header := g.header ++ [ch] }) s
  else
    (modFramerOf src (fun g => (g.took ch).dropHeader) (rejectStory k .headerFault s)).addLoose
      src 1

/-! ## Taking a character in any state -/

/-- A framer takes a character; in IN_STORY and in CLOSER_MATCH from IN_STORY the write it causes goes
ahead (R57 to R68). A character taken with a story slot restarts the idle timer. -/
def takeChar (src : Source) (ch : Office) (s : State) : State :=
  let f := framerOf src s
  match f.slot with
  | none =>
    match f.state with
    | .idle => takeIdle src ch s
    | .openerMatch => takeOpenerMatch src ch s
    | .closerMatch => takeCloserDiscard src ch s
    | .discard => takeDiscard src ch s
    | .header | .inStory => s
  | some k =>
    let s := restartIdle k s
    match f.state with
    | .header => takeHeader src k ch s
    | .inStory => takeInStory src k ch s
    | .closerMatch => takeCloserStory src k ch s
    | .idle | .openerMatch | .discard => s

/-- A terminal write refused for want of room: recorded as outstanding, blocked-since set if it was
absent (R67, R85). -/
def refuseWrite (t : Fin 8) (k : Fin 48) (chs : List Office) (s : State) : State :=
  let s := modFramerOf (.terminal t) (fun f => { f with outstanding := some chs }) s
  if (s.story k).blockedSince = none then
    s.modStory k (fun st => { st with blockedSince := some s.regs.clock, blockTimer := some 0 })
  else s

/-- A terminal's framer may take from its queue: its story, if it has one, is in HEADER or RUNNING and
no write is outstanding (R57). -/
def mayTake (t : Fin 8) (s : State) : Bool :=
  let f := framerOf (.terminal t) s
  (s.port t).enabled && f.outstanding.isNone
  && (match f.slot with
      | none => true
      | some k => decide ((s.story k).state = .header ∨ (s.story k).state = .running))

/-- A terminal's framer takes the head of its queue, or is refused the write it would cause (R51, R57,
R67). -/
def takeHead (t : Fin 8) (s : State) : State :=
  match (s.port t).queue with
  | [] => s
  | ch :: _ =>
    if mayTake t s then
      let f := framerOf (.terminal t) s
      match f.slot, writeCaused f ch with
      | some k, some chs =>
        if roomFor (s.story k) chs.length then takeChar (.terminal t) ch (popQueue t s)
        else refuseWrite t k chs s
      | _, _ => takeChar (.terminal t) ch (popQueue t s)
    else s

end Sys2Proof.Machine
end

