-- ==== Sys2Proof/Machine/Claims.lean ====
section
/-! DEFINITION. Claims on a story by hosts, desks, lost sources and timers: hold and release (R90, R91),
kill and lost source (R92, R93), priority (R95), add and drop (R110, R111), idle and block expiry (R86,
R88). -/

namespace Sys2Proof.Machine

/-! ## Hold and release -/

/-- An entry at a hold (R90). -/
def Entry.hold (e : Entry) : Entry :=
  match e.state with
  | .carrying => { e with holdMark := true }
  | .waiting | .suspended .preempted => { e with state := .suspended .held }
  | .suspended .held | .done | .cut _ => e

/-- An entry at a release (R91). -/
def Entry.release (e : Entry) : Entry :=
  match e.state with
  | .carrying => { e with holdMark := false }
  | .suspended .held =>
    { e with
      state := .waiting
      owed := match e.owed with
        | .none | .resume => .resume
        | .header => .header
        | .joined => .joined }
  | .waiting | .suspended .preempted | .done | .cut _ => e

/-- An outstanding write withdrawn by a hold (R67). -/
def Framer.withdraw (f : Framer) : Framer :=
  { f with outstanding := none, withdrawn := f.withdrawn || f.outstanding.isSome }

/-- A story held (R90). -/
def holdStory (k : Fin 48) (by_ : Holder) (s : State) : State :=
  let src := (s.story k).source
  let s := s.modStory k (fun st =>
    { st with state := .held, heldBy := some by_, idleTimer := none, blockedSince := none,
              blockTimer := none, entries := st.entries.map Entry.hold })
  modFramerOf src (fun f => f.withdraw) s

/-- A withdrawn write claimed again at a release (R67, R91; log 16). -/
def reclaimWrite (src : Source) (s : State) : State :=
  match src with
  | .circuit _ => s
  | .terminal t =>
    if (framerOf src s).withdrawn then
      takeHead t (modFramerOf src (fun f => { f with withdrawn := false }) s)
    else s

/-- A story released (R91). -/
def releaseStory (k : Fin 48) (s : State) : State :=
  let src := (s.story k).source
  let s := s.modStory k (fun st =>
    { st with state := .running, heldBy := none, idleTimer := some 0,
              entries := st.entries.map Entry.release })
  reclaimWrite src s

/-! ## Kills and lost sources -/

/-- A story closed at once with a reason, whatever its state (R92, R93). -/
def closeNow (k : Fin 48) (why : CloseReason) (s : State) : State :=
  s.modStory k (fun st =>
    { st with state := .closed, reason := some why, closed := some s.regs.clock, idleTimer := none,
              heldBy := none, blockedSince := none, blockTimer := none })

/-- A kill reaches the framer that still has the story: DISCARD, the characters it held being loose
copy (R70). -/
def killFramer (k : Fin 48) (s : State) : State :=
  let src := (s.story k).source
  let f := framerOf src s
  if f.slot = some k then
    (modFramerOf src (fun g => g.killed) s).addLoose src (f.holdBack.length + f.header.length)
  else s

/-- A story closed at once with a reason, its live entries cut, each with the reason its outlet gives
it; their circuits are tested for their quiet points (R92, R93, R82). -/
def closeCut (k : Fin 48) (why : Fin 24 → CutReason) (reason : CloseReason) (s : State) : State :=
  let os := (s.story k).outletsWhere (fun e => e.state.live)
  let s := forEach os (fun o t => cutRecord k o (why o) t) s
  let s := closeNow k reason s
  forEach os quietTestOutlet s

/-- A story killed. `asker` is the terminal whose K request kills it, if one does: its own reply
answers it (R92). -/
def killStory (k : Fin 48) (asker : Option (Fin 8)) (s : State) : State :=
  let st := s.story k
  let s := killFramer k s
  let s := closeCut k (fun _ => .killed) .killed s
  let s := s.raise .storyClosed
  let s := quietTestSource st.source s
  match st.source, asker with
  | .terminal t, some a =>
    if t = a then s else s.offerReply t (text ['K', 'I', 'L', 'L', 'E', 'D', ' '] ++ fourDigits st.number)
  | .terminal t, none =>
    s.offerReply t (text ['K', 'I', 'L', 'L', 'E', 'D', ' '] ++ fourDigits st.number)
  | .circuit _, _ => s

/-- A live story that has lost its source: the entry on the source's own outlet goes with its outlet,
the others are cut KILLED (R93). -/
def loseStory (k : Fin 48) (s : State) : State :=
  let own := (s.story k).source.index
  (closeCut k (fun o => if o = own then .outletLost else .killed) .sourceLost s).raise .storyClosed

/-- A source leaves service: its live story is closed SOURCE_LOST and its framer goes to IDLE (R71,
R93). -/
def loseSource (src : Source) (s : State) : State :=
  let s := forEach allSlots
    (fun k t =>
      if (t.story k).source = src ∧ (t.story k).state.live then loseStory k t else t) s
  resetFramer src s

/-! ## Priority, add, drop -/

/-- A story's priority replaced; one equal to it changes nothing (R95). -/
def setPriority (k : Fin 48) (p : Priority) (s : State) : State :=
  if (s.story k).priority = some p then s
  else s.modStory k (fun st => { st with priority := some p })

/-- The state of an entry added to a story (R110). -/
def addedState (st : StoryState) : EntryState :=
  if st = .held then .suspended .held else .waiting

/-- An outlet added to a story (R110). -/
def addOutlet (k : Fin 48) (o : Fin 24) (s : State) : State :=
  let st := s.story k
  createEntry k (.fresh o (addedState st.state) st.taken .joined) s

/-- A story can take a new outlet: RUNNING, HELD or CLOSING (R109). -/
def StoryState.joinable : StoryState → Bool
  | .running | .held | .closing => true
  | .free | .header | .closed => false

/-! ## Story timers -/

/-- The idle limit of a source's current configuration (R78, R88). -/
def State.idleLimit (s : State) : Source → Nat
  | .circuit c => (s.circuit c).config.idleLimit
  | .terminal t => (s.port t).config.idleLimit

/-- The characters a framer holds back from its story k written at an idle expiry: on a terminal source
only if there is room for all of them, and otherwise counted as loose copy (R69). -/
def flushHeld (src : Source) (k : Fin 48) (s : State) : State :=
  let f := framerOf src s
  if f.slot = some k ∧ f.holdBack ≠ [] then
    match src with
    | .circuit _ => completeWrite src k f.holdBack s
    | .terminal _ =>
      if roomFor (s.story k) f.holdBack.length then completeWrite src k f.holdBack s
      else s.addLoose src f.holdBack.length
  else s

/-- A RUNNING story ended by silence (R69, R88, R89). -/
def endIdle (k : Fin 48) (s : State) : State :=
  let src := (s.story k).source
  let s := modFramerOf src (fun f => { f with outstanding := none, withdrawn := false }) s
  let s := flushHeld src k s
  if (s.story k).state = .running then
    toClosing k .idleEnd (modFramerOf src (fun f => f.giveUp) s)
  else s

/-- The idle timer of a story expires (R69, R79, R88). -/
def expireIdle (k : Fin 48) (s : State) : State :=
  match (s.story k).state with
  | .header =>
    modFramerOf (s.story k).source (fun f => f.dropHeader) (rejectStory k .headerFault s)
  | .running => endIdle k s
  | .free | .held | .closing | .closed => s

/-- The entries that hold back a write of n characters are cut BLOCK_LIMIT, their quiet points tested,
and the write is taken (R86). -/
def expireBlock (k : Fin 48) (s : State) : State :=
  let st := s.story k
  let src := st.source
  match (framerOf src s).outstanding with
  | none => s
  | some chs =>
    let n := min chs.length (Config.takenMax - st.taken)
    let lagging := st.outletsWhere
      (fun e => e.state.live && decide (e.read + Config.windowSize < st.taken + n))
    offerWrite k (forEach lagging (fun o t => quietTestOutlet o (cutRecord k o .blockLimit t)) s)

end Sys2Proof.Machine
end

