-- ==== Sys2Proof/Machine/Notices.lean ====
section
/-! DEFINITION. The notice lines, composed from a story record as it stands (R72, R131, R132), and the
control output conditions (R151). -/

namespace Sys2Proof.Machine

/-- A slug, or nothing where a record has none. -/
def Story.slugText (st : Story) : List Office := st.slug.getD []

/-- " C mmmm" when correction-of is present (R72). -/
def Story.correctionText (st : Story) : List Office :=
  match st.correctionOf with
  | some n => text [' ', 'C', ' '] ++ fourDigits n
  | none => []

/-- "NRNR nnnn p dd slug", with the correction (R72). -/
def Story.headerText (st : Story) : List Office :=
  opener ++ [space] ++ fourDigits st.number ++ [space]
    ++ (st.priority.map Priority.letter).toList ++ [space]
    ++ (st.desk.map DeskCode.letters).getD [] ++ [space] ++ st.slugText ++ st.correctionText

/-- The header text followed by " JOINED" (R132). -/
def Story.joinedText (st : Story) : List Office :=
  st.headerText ++ text [' ', 'J', 'O', 'I', 'N', 'E', 'D']

/-- "RESUME nnnn slug" (R132). -/
def Story.resumeText (st : Story) : List Office :=
  text ['R', 'E', 'S', 'U', 'M', 'E', ' '] ++ fourDigits st.number ++ [space] ++ st.slugText

/-- "ENEN nnnn" (R72). -/
def Story.closerText (st : Story) : List Office := closer ++ [space] ++ fourDigits st.number

/-- The text of an owed item's notice (R132). -/
def Story.itemText (st : Story) : OwedKind → List Office
  | .breakIn => text ['B', 'R', 'E', 'A', 'K', ' ', 'I', 'N', ' '] ++ fourDigits st.number
  | .held => text ['H', 'E', 'L', 'D', ' '] ++ fourDigits st.number
  | .cut => text ['C', 'U', 'T', ' '] ++ fourDigits st.number
  | .kill =>
    text ['K', 'I', 'L', 'L', ' '] ++ fourDigits st.number ++ [space] ++ st.slugText

/-- The text of an entry notice, if one is owed (R124). -/
def Story.noticeText (st : Story) : EntryNotice → Option (List Office)
  | .none => none
  | .header => some st.headerText
  | .joined => some st.joinedText
  | .resume => some st.resumeText

end Sys2Proof.Machine
end

