-- ==== Sys2Proof/Machine/Outlets.lean ====
section
/-! DEFINITION. The Outlet Controllers: arbitration (R125 to R129), the service order at a unit boundary
(R121), units and their completion (R119, R120), and the reactions of every outlet to what a step has
changed (R115 to R117, R137; log 8). -/

namespace Sys2Proof.Machine

/-! ## Arbitration -/

/-- A story's entry on an outlet. -/
def State.entry (s : State) (o : Fin 24) (k : Fin 48) : Option Entry := (s.story k).entryOn o

/-- An entry state that may be granted (R125). -/
def EntryState.grantable : EntryState → Bool
  | .waiting | .suspended .preempted => true
  | .carrying | .suspended .held | .done | .cut _ => false

/-- A waiting slot's entry is eligible (R125). -/
def State.eligible (s : State) (o : Fin 24) (k : Fin 48) : Bool :=
  (s.entry o k).any (fun e => e.state.grantable) && decide ((s.story k).state ≠ .held)

/-- A story's rank by priority, 0 the highest (R125). -/
def Story.rank (st : Story) : Nat :=
  match st.priority with
  | some p => p.rank
  | none => 5

/-- SUSPENDED stands before WAITING (R126). -/
def State.standing (s : State) (o : Fin 24) (k : Fin 48) : Nat :=
  if (s.entry o k).any (fun e => e.state = .waiting) then 1 else 0

/-- The comparisons of R126 as one number, the lowest first: priority, standing, place in the open-order
list of at most 48. -/
def State.key (s : State) (o : Fin 24) (k : Fin 48) : Nat :=
  (s.story k).rank * 128 + s.standing o k * 64 + s.openOrder.idxOf k

/-- The entry that comes first among a list of slots (R126). -/
def State.first (s : State) (o : Fin 24) (l : List (Fin 48)) : Option (Fin 48) :=
  l.foldl (fun best k =>
    match best with
    | none => some k
    | some b => if s.key o k < s.key o b then some k else some b) none

/-- The eligible entry that comes first on an outlet (R125, R126). -/
def State.winner (s : State) (o : Fin 24) : Option (Fin 48) :=
  s.first o ((s.outlet o).waiting.filter (s.eligible o))

/-- The winner preempts a holder: priority F or B, strictly higher than the holder's (R127). -/
def State.preempts (s : State) (w h : Fin 48) : Bool :=
  decide ((s.story w).rank ≤ 1 ∧ (s.story w).rank < (s.story h).rank)

/-- The slot that arbitration would grant the outlet to (R126, R127). -/
def State.granted (s : State) (o : Fin 24) : Option (Fin 48) :=
  match s.winner o, (s.outlet o).holder with
  | none, _ => none
  | some w, none => some w
  | some w, some h => if s.preempts w h then some w else none

/-- A live entry granted its outlet (R126). -/
def Entry.grant (e : Entry) : Entry := if e.state.live then { e with state := .carrying } else e

/-- The outlet granted to a slot: its entry CARRYING, off the waiting list, its story the holder
(R126). -/
def grant (o : Fin 24) (k : Fin 48) (s : State) : State :=
  (s.modStory k (fun st => st.modEntry o Entry.grant)).modOutlet o
    (fun x => { x with waiting := x.waiting.filter (fun j => j ≠ k), holder := some k })

/-- A holder's CARRYING entry preempted (R127, R90). -/
def Entry.preempt (e : Entry) : Entry :=
  if e.state = .carrying then
    { e with
      state := .suspended (if e.holdMark then .held else .preempted)
      holdMark := false
      owed := if e.owed = .none then .resume else e.owed }
  else e

/-- A holder suspended: it joins the waiting list and the outlet has no holder. -/
def Outlet.suspend (x : Outlet) (k : Fin 48) : Outlet :=
  { x with waiting := x.waiting ++ [k], holder := none }

/-- A holder preempted, owing a BREAK_IN if its notice had been sent (R127). -/
def preempt (o : Fin 24) (h : Fin 48) (s : State) : State :=
  let shown := (s.entry o h).any (fun e => e.owed = .none)
  let s := (s.modStory h (fun st => st.modEntry o Entry.preempt)).modOutlet o (fun x => x.suspend h)
  if shown then oweItem o .breakIn h s else s

/-- Arbitration (R126, R127). -/
def arbitrate (o : Fin 24) (s : State) : State :=
  match s.granted o, (s.outlet o).holder with
  | none, _ => s
  | some w, none => grant o w s
  | some w, some h => grant o w (preempt o h s)

/-! ## Work -/

/-- The reply slot of a terminal outlet's terminal; none for a line outlet. -/
def State.replyOf (s : State) (o : Fin 24) : Option (List Office) :=
  match outletTerminal o with
  | some t => (s.port t).replySlot
  | none => none

/-- A holder gives its outlet work: an entry notice or text, or, caught up, a CLOSING story or the hold
mark (R114). -/
def holderWork (st : Story) (e : Entry) : Bool :=
  decide (e.owed ≠ .none) || decide (e.read < st.taken) || decide (st.state = .closing) || e.holdMark

/-- The holder of an outlet gives it work (R114). -/
def State.holderWorks (s : State) (o : Fin 24) : Bool :=
  match (s.outlet o).holder with
  | none => false
  | some h => (s.entry o h).any (holderWork (s.story h))

/-- A character will be sent on an outlet (R38): every one on a terminal outlet. -/
def State.willSend (s : State) (o : Fin 24) (ch : Office) : Bool :=
  match outletCircuit o with
  | some c => (s.page (s.circuit c).config.page).sends ch
  | none => true

/-- What is left of a unit yields no code: nothing is left, or characters that will not be sent
(R119). -/
def State.silent (s : State) (o : Fin 24) (u : OutUnit) : Bool :=
  u.codes.isEmpty && u.chars.all (fun ch => !s.willSend o ch)

/-- An outlet has work (R114). -/
def State.hasWork (s : State) (o : Fin 24) : Bool :=
  let x := s.outlet o
  x.unit.any (fun u => !s.silent o u) || x.answerbackOwed || !x.owed.isEmpty || (s.replyOf o).isSome
    || (s.granted o).isSome || s.holderWorks o

/-! ## Choosing a unit -/

/-- A CARRYING entry suspended by a hold, its hold mark cleared (R90, R121). -/
def Entry.suspendHeld (e : Entry) : Entry :=
  if e.state = .carrying then { e with state := .suspended .held, holdMark := false } else e

/-- The hold-marked holder that has caught up is suspended, owing a HELD item (R121). -/
def suspendCaughtUp (o : Fin 24) (s : State) : State :=
  match (s.outlet o).holder with
  | none => s
  | some h =>
    if (s.entry o h).any (fun e => e.holdMark && decide (e.read = (s.story h).taken)) then
      let s := s.modStory h (fun st => st.modEntry o Entry.suspendHeld)
      oweItem o .held h (s.modOutlet o (fun x => x.suspend h))
    else s

/-- A unit begun. -/
def beginUnit (o : Fin 24) (kind : UnitKind) (chars : List Office) (s : State) : State :=
  s.modOutlet o (fun x => { x with unit := some { kind := kind, chars := chars } })

/-- The oldest owed item leaves the list and its notice begins (R131). -/
def beginItem (o : Fin 24) (i : OwedItem) (rest : List OwedItem) (s : State) : State :=
  beginUnit o (.notice .item) (framed ((s.story i.slot).itemText i.kind))
    (s.modOutlet o (fun x => { x with owed := rest }))

/-- The carriage width of an outlet (R38). -/
def State.widthOf (s : State) (o : Fin 24) : Nat :=
  match outletCircuit o, outletTerminal o with
  | some c, _ => (s.circuit c).config.width
  | none, some t => (s.port t).config.width
  | none, none => 0

/-- The character at a read position, which stands in the window (R83, R122). -/
def Story.textAt (st : Story) (p : Nat) : Option Office :=
  st.window[p - (st.taken - st.window.length)]?

/-- A read advance; one that finds the entry no longer CARRYING is not taken (R87). -/
def Entry.advance (e : Entry) : Entry :=
  if e.state = .carrying then { e with read := e.read + 1, delivered := e.delivered + 1 } else e

/-- The holder's next character is read, its read advance taken, and its unit begun; the advance offers
the story's outstanding write again (R122, R87, R85). Whether a new line goes before the character is
judged here, once, as the unit begins (DEDUCED, log 35). -/
def beginText (o : Fin 24) (h : Fin 48) (ch : Office) (s : State) : State :=
  let chars := textChars (s.widthOf o) (s.outlet o).column (s.willSend o ch) ch
  let s := s.modStory h (fun st => st.modEntry o Entry.advance)
  offerWrite h (beginUnit o .text chars s)

/-- What the holder sends next: its entry notice, its next character, or its closer (R121, steps 4 and
5). -/
def beginHolder (o : Fin 24) (h : Fin 48) (e : Entry) (s : State) : State :=
  let st := s.story h
  match st.noticeText e.owed with
  | some line => beginUnit o (.notice (.entry h)) (framed line) s
  | none =>
    if e.read < st.taken then
      match st.textAt e.read with
      | some ch => beginText o h ch s
      | none => s
    else if st.state = .closing then beginUnit o (.notice (.closer h)) (framed st.closerText) s
    else s

/-- Steps 4 and 5 of the service order, after arbitration: a BREAK_IN item that preemption has owed goes
first (R121). -/
def beginCarried (o : Fin 24) (s : State) : State :=
  let s := arbitrate o s
  match (s.outlet o).owed with
  | i :: rest => beginItem o i rest s
  | [] =>
    match (s.outlet o).holder with
    | none => s
    | some h =>
      match s.entry o h with
      | some e => beginHolder o h e s
      | none => s

/-- The answerback string of a line outlet's circuit. -/
def State.answerbackOf (s : State) (o : Fin 24) : List Office :=
  match outletCircuit o with
  | some c => (s.circuit c).config.answerback
  | none => []

/-- A unit boundary: the holder examined, then the first step of the service order that yields a unit.
No unit begun means no work (R121). -/
def takeBoundary (o : Fin 24) (s : State) : State :=
  let s := suspendCaughtUp o s
  let x := s.outlet o
  if x.answerbackOwed then beginUnit o .answerback (s.answerbackOf o) s
  else
    match x.owed with
    | i :: rest => beginItem o i rest s
    | [] =>
      match s.replyOf o with
      | some line => beginUnit o .reply (framed line) s
      | none => beginCarried o s

/-! ## Completing a unit -/

/-- A CARRYING entry whose notice has been sent (R87, R120). -/
def Entry.noticed (e : Entry) : Entry := if e.state = .carrying then { e with owed := .none } else e

/-- An entry of the outlet's holder changed (R120). -/
def State.modCarried (s : State) (o : Fin 24) (k : Fin 48) (f : Entry → Entry) : State :=
  if (s.outlet o).holder = some k then s.modStory k (fun st => st.modEntry o f) else s

/-- The holder can be claimed DONE: its story is CLOSING and it is caught up (R87). -/
def State.doneDue (s : State) (o : Fin 24) (k : Fin 48) : Bool :=
  decide ((s.outlet o).holder = some k) && decide ((s.story k).state = .closing)
  && (s.entry o k).any (fun e => decide (e.read = (s.story k).taken))

/-- A CARRYING entry DONE (R87). -/
def Entry.finish (e : Entry) : Entry :=
  if e.state = .carrying then { e with state := .done, lost := 0, owed := .none } else e

/-- DONE claimed after a closer notice, with the tests that follow (R87, R123). -/
def claimDone (o : Fin 24) (k : Fin 48) (s : State) : State :=
  if s.doneDue o k then
    let s := s.modStory k (fun st => st.modEntry o Entry.finish)
    afterCut k o (s.modOutlet o (fun x => { x with holder := none }))
  else s

/-- The reply slot of a terminal outlet's terminal emptied (R54). -/
def emptyReply (o : Fin 24) (s : State) : State :=
  match outletTerminal o with
  | some t => s.modPort t (fun p => { p with replySlot := none })
  | none => s

/-- Several characters dropped (R33, R34). -/
def Outlet.dropMore (x : Outlet) (k : Nat) : Outlet := { x with drops := incBy k x.drops }

/-- What the completion of a unit records (R120); each character left is one that is dropped (R33, R34,
R119). -/
def completeUnit (o : Fin 24) (u : OutUnit) (s : State) : State :=
  let s := s.modOutlet o
    (fun x => { x.dropMore u.chars.length with unit := none })
  match u.kind with
  | .text | .notice .item => s
  | .notice (.entry k) => s.modCarried o k Entry.noticed
  | .notice (.closer k) => claimDone o k s
  | .reply => emptyReply o s
  | .answerback => s.modOutlet o (fun x => { x with answerbackOwed := false })

/-! ## Driving an outlet -/

/-- A pause cause holds: on a line outlet the counter's break, or a far break with break-stops-sending
on (R116); on a terminal outlet ready in low (R117). -/
def State.pauseCause (s : State) (o : Fin 24) : Bool :=
  match outletCircuit o, outletTerminal o with
  | some c, _ =>
    (s.control c).breaking
    || (decide ((s.circuit c).rxPhase = .farBreak) && (s.circuit c).config.breakStopsSending)
  | none, some t => decide ((s.port t).readyIn = .low)
  | none, none => false

/-- The character on the line is the outlet's own unit's. -/
def State.ownBusy (s : State) (o : Fin 24) : Bool :=
  match outletCircuit o, outletTerminal o with
  | some c, _ => (s.circuit c).sending.any (fun x => x.owner = .unit)
  | none, some t => (s.port t).sending.any (fun x => !x.orphan)
  | none, none => false

/-- Some character is on the line, be it a fill or one whose unit was abandoned (log 20). -/
def State.lineBusy (s : State) (o : Fin 24) : Bool :=
  match outletCircuit o, outletTerminal o with
  | some c, _ => (s.circuit c).sending.isSome
  | none, some t => (s.port t).sending.isSome
  | none, none => false

/-- An outlet's state set. -/
def setOutletState (o : Fin 24) (st : OutletState) (s : State) : State :=
  s.modOutlet o (fun x => { x with state := st })

/-- A pause cause that meets a line outlet in SENDING waits for the character on its line, a fill's as well
as its own (R115, R116); a terminal outlet waits for none (R117). -/
def State.pauseWaits (s : State) (o : Fin 24) : Bool :=
  (outletCircuit o).isSome && decide ((s.outlet o).state = .sending) && s.lineBusy o

/-- An outlet met by a pause cause where it would go on: PAUSED, unless the pause waits (R115 to R117). -/
def pauseOutlet (o : Fin 24) (s : State) : State :=
  if s.pauseWaits o then s else setOutletState o .paused s

/-- A line outlet ceases to be IDLE: a fill owed is cleared unsent (R150). -/
def clearFill (o : Fin 24) (s : State) : State :=
  match outletCircuit o with
  | some c => s.modControl c (fun x => { x with fillOwed := false })
  | none => s

/-- A boundary found no work: IDLE, the motor to its run-on (R115, R142). -/
def fallIdle (o : Fin 24) (s : State) : State :=
  let s := setOutletState o .idle s
  match outletCircuit o with
  | some c => s.modControl c (fun x => x.motorRunOn (s.circuit c).config.runOn)
  | none => s

/-- The next code or character of the unit handed to the send side (R18, R53). -/
def handOver (o : Fin 24) (u : OutUnit) (s : State) : State :=
  match outletCircuit o, outletTerminal o with
  | some c, _ =>
    match u.codes with
    | code :: rest =>
      (s.modCircuit c (fun x => { x with sending := some (x.startChar code .unit) })).modOutlet o
        (fun x => { x with unit := some { u with codes := rest } })
    | [] => s
  | none, some t =>
    match u.chars with
    | ch :: rest =>
      (s.modPort t (fun p => { p with sending := some (p.startChar ch) })).modOutlet o
        (fun x => { x with unit := some { u with chars := rest }, column := columnAfter ch x.column })
    | [] => s
  | none, none => s

/-- The next character of a unit needs converting before it can be handed over (R33). -/
def needsConversion (o : Fin 24) (u : OutUnit) : Bool :=
  (outletCircuit o).isSome && u.codes.isEmpty

/-- The next office character of a line outlet's unit that will be sent, converted; the ones before it
are dropped (R33, R34, R42). Its counts, column, plane and shift-owed mark move here, as its first code is
about to be handed over, even if the circuit is lost before its last (DEDUCED, log 34). -/
def convertNext (o : Fin 24) (u : OutUnit) (s : State) : State :=
  match outletCircuit o, u.chars.dropWhile (fun ch => !s.willSend o ch) with
  | some c, ch :: rest =>
    let cfg := (s.circuit c).config
    let skipped := (u.chars.takeWhile (fun ch => !s.willSend o ch)).length
    let r := convertChar (s.page cfg.page) cfg ((s.outlet o).dropMore skipped) ch
    s.modOutlet o (fun _ => { r.1 with unit := some { u with codes := r.2, chars := rest } })
  | _, _ => s

/-- An outlet that is not waiting for its own character goes on until it is: it completes its unit,
takes its boundary, converts and hands over, pauses, or falls idle (R115, R117, R119). -/
def drive : Nat → Fin 24 → State → State
  | 0, _, s => s
  | fuel + 1, o, s =>
    match (s.outlet o).unit with
    | none =>
      if s.pauseCause o then pauseOutlet o s
      else
        let s := takeBoundary o s
        if (s.outlet o).unit.isSome then drive fuel o (setOutletState o .sending s)
        else fallIdle o s
    | some u =>
      if s.silent o u then drive fuel o (completeUnit o u s)
      else if s.pauseCause o then pauseOutlet o s
      else
        let s := setOutletState o .sending s
        if s.lineBusy o then s
        else if needsConversion o u then drive fuel o (convertNext o u s)
        else handOver o u s

/-- An outlet resumes or goes on. -/
def goOn (o : Fin 24) (s : State) : State := drive Config.driveFuel o s

/-! ## Reactions -/

/-- An IDLE line outlet gains work: the lead with its arbitration when the motor is OFF, and otherwise
the motor RUNNING again and a boundary at once (R115, R129, R141, R142). -/
def lineGainsWork (o : Fin 24) (c : Fin 16) (s : State) : State :=
  if (s.control c).motor = .off then
    let lead := (s.circuit c).config.motorLead
    let s := s.modControl c (fun x => x.motorLead lead)
    let s := arbitrate o (setOutletState o .starting s)
    if lead = 0 then goOn o (s.modControl c (fun x => x.motorRun)) else s
  else goOn o (s.modControl c (fun x => x.motorResume))

/-- An IDLE outlet gains work, and a fill owed is cleared unsent (R115, R117, R150). -/
def gainWork (o : Fin 24) (s : State) : State :=
  let s := clearFill o s
  match outletCircuit o with
  | some c => lineGainsWork o c s
  | none => goOn o s

/-- The motor lead of a STARTING line outlet is complete (R115). -/
def State.leadDone (s : State) (o : Fin 24) : Bool :=
  match outletCircuit o with
  | some c => decide ((s.control c).motor = .running)
  | none => true

/-- A unit in progress has no code left to hand over and its last character is off the line (R119). -/
def State.unitOver (s : State) (o : Fin 24) : Bool :=
  (s.outlet o).unit.any (s.silent o) && !s.ownBusy o

/-- A SENDING outlet whose own character is not on the line, and whose unit is not over, can go on: into a
pause that does not wait, to a boundary, or to its unit's next code (R115, R117). -/
def State.sendingGoesOn (s : State) (o : Fin 24) : Bool :=
  if s.pauseCause o then !s.pauseWaits o else (s.outlet o).unit.isNone || !s.lineBusy o

/-- An outlet has something to do now: its state and what a step has changed call for a reaction (R115,
R117). -/
def State.stirs (s : State) (o : Fin 24) : Bool :=
  match (s.outlet o).state with
  | .off | .stalled => false
  | .idle => s.hasWork o
  | .starting => s.leadDone o
  | .sending => !s.ownBusy o && (s.unitOver o || s.sendingGoesOn o)
  | .paused => s.unitOver o || !s.pauseCause o

/-- A PAUSED outlet: a unit that is over completes with no boundary while the pause lasts, and the
outlet goes on when it ends (R115 to R117). -/
def leavePause (o : Fin 24) (s : State) : State :=
  if s.pauseCause o then
    match (s.outlet o).unit with
    | some u => completeUnit o u s
    | none => s
  else if s.ownBusy o then setOutletState o .sending s
  else goOn o s

/-- One outlet's reaction. -/
def react (o : Fin 24) (s : State) : State :=
  match (s.outlet o).state with
  | .off | .stalled => s
  | .idle => gainWork o s
  | .starting | .sending => goOn o s
  | .paused => leavePause o s

/-- The outlets react, the lowest number first, until none has anything to do (log 8). -/
def reactAll : Nat → State → State
  | 0, s => s
  | fuel + 1, s =>
    match allOutlets.find? s.stirs with
    | none => s
    | some o => reactAll fuel (react o s)

/-! ## What follows the outlets: stall timers, pause causes, control outputs -/

/-- A terminal outlet's stall timer runs from 0 while it is PAUSED with work (R137). -/
def stallTimer (t : Fin 8) (s : State) : State :=
  let o := terminalOutlet t
  let x := s.outlet o
  let runs := decide (x.state = .paused) && s.hasWork o
  let timer := if runs then some (x.stallTimer.getD 0) else none
  s.modOutlet o (fun y => { y with stallTimer := timer })

/-- The condition a selector input names, for a circuit (R151). -/
def State.condition (s : State) (c : Fin 16) : Condition → Bool
  | .motorWanted => (s.control c).motor.wanted
  | .counterWave => decide ((s.control c).wave = .high)
  | .flashHeld => (s.outlet (lineOutlet c)).holder.any (fun h => (s.story h).priority = some .f)
  | .storyWaiting => (s.outlet (lineOutlet c)).waiting.any (s.eligible (lineOutlet c))
  | .farBreak => decide ((s.circuit c).rxPhase = .farBreak)
  | .outletPaused => decide ((s.outlet (lineOutlet c)).state = .paused)
  | .zero => false

/-- The level of an output of a circuit: its selector's in service, low when CLOSED (R151). -/
def State.outputLevel (s : State) (c : Fin 16) (x : Selector) : Level :=
  if (s.circuit c).state = .closed then .low else x.level (s.condition c)

/-- The control outputs of a circuit driven (R151). -/
def driveOutputs (c : Fin 16) (s : State) : State :=
  let m := s.outputLevel c (s.control c).motorSel
  let g := s.outputLevel c (s.control c).signalSel
  s.modControl c (fun x => { x with motorOut := m, signalOut := g })

/-- The pause causes a line outlet's record shows; none while it is OFF (R116, R118). -/
def showCauses (c : Fin 16) (s : State) : State :=
  let o := lineOutlet c
  let on := decide ((s.outlet o).state ≠ .off)
  let br := on && (s.control c).breaking
  let fb := on && decide ((s.circuit c).rxPhase = .farBreak)
    && (s.circuit c).config.breakStopsSending
  s.modOutlet o (fun x => { x with counterBreak := br, farBreak := fb })

/-- Everything that follows a step's own effect: the outlets' reactions, the stall timers, the pause
causes and the control outputs (log 8). -/
def settle (s : State) : State :=
  let s := reactAll Config.settleFuel s
  let s := forEach allTerminals stallTimer s
  forEach allCircuits (fun c t => driveOutputs c (showCauses c t)) s

end Sys2Proof.Machine
end

