-- ==== Sys2Proof/Machine/Service.lean ====
section
/-! DEFINITION. Going into and out of service (R2, R3, R45, R47, R115, R117, R118), the end of a survey
(R22 to R24), and what each block does at a traffic reset (R25, R55, R100, R139, R153, R177). -/

namespace Sys2Proof.Machine

/-! ## Answering a host command -/

/-- A command answered: its number in COMMAND, the result code and the result words (R165). -/
def State.answer (s : State) (number : Nat) (code : ResultCode) (words : ResultWords := {}) : State :=
  s.modRegs (fun r => { r with command := word number, result := code, rvals := words })

/-- A command refused: every result word 0 (R165). -/
def State.refuse (s : State) (number : Nat) (code : ResultCode) : State := s.answer number code

/-- A command carried out, with the outlets settled. -/
def State.done (s : State) (number : Nat) : State := (settle s).answer number .ok

/-! ## Outlets into and out of OFF -/

/-- An outlet record OFF (R118). -/
def Outlet.toOff (x : Outlet) : Outlet :=
  { x with
    state := .off
    holder := none
    waiting := []
    owed := []
    unit := none
    answerbackOwed := false
    counterBreak := false
    farBreak := false
    stallTimer := none }

/-- An outlet goes OFF: its live entries are cut OUTLET_LOST and a fill owed is cleared (R94, R118,
R150). -/
def outletOff (o : Fin 24) (s : State) : State :=
  clearFill o ((cutOutlet o .outletLost s).modOutlet o (fun x => x.toOff))

/-- A line outlet leaves OFF (R115, R35). -/
def Outlet.lineOn (x : Outlet) : Outlet :=
  { x with state := .idle, plane := .letters, shiftOwed := true, column := 0 }

/-- The state of a terminal outlet that leaves OFF or STALLED, or is reset (R117, R139). -/
def readyState (p : Port) : OutletState :=
  match p.readyIn with
  | .high => .idle
  | .low => .paused

/-! ## Circuits -/

/-- The character on a line whose unit is abandoned (R5; log 20). -/
def LineChar.orphaned (x : LineChar) : LineChar :=
  match x.owner with
  | .unit => { x with owner := .orphan }
  | .fill | .orphan => x

/-- A circuit leaves service for a state: its own story, its own outlet, its motor, and its pending
configuration (R3). The circuit record stands in the new state already. -/
def leaveService (c : Fin 16) (s : State) : State :=
  let s := loseSource (.circuit c) s
  let s := outletOff (lineOutlet c) s
  let s := s.modControl c (fun x => x.motorStop)
  quietTest c s

/-- The circuit record entering CLOSED from OPEN or LOST (R4). -/
def Circuit.toClosed (c : Circuit) : Circuit :=
  { c with
    state := .closed
    rxPhase := .idle
    lossTimer := none
    restoreTimer := none
    edges := []
    allSpace := false
    afterStop := false
    sending := none }

/-- The circuit record entering LOST (R5): the character on the line completes, and the expired loss timer
stops, though the far break lasts (DEDUCED, log 37). -/
def Circuit.toLost (c : Circuit) : Circuit :=
  { c with
    state := .lost
    lossTimer := none
    restoreTimer := none
    sending := c.sending.map LineChar.orphaned
    counts := { c.counts with losses := inc c.counts.losses } }

/-- The circuit record put in service (R2). -/
def Circuit.toOpen (c : Circuit) : Circuit :=
  { c.hunt with
    state := .opened
    restoreTimer := none
    sending := none
    slipFlag := false
    counts := {} }

/-- The circuit record restored from LOST (R6). -/
def Circuit.restored (c : Circuit) : Circuit := { c.hunt with state := .opened, restoreTimer := none }

/-! ## The end of a survey -/

/-- The survey mark removed with a result; an OPEN circuit hunts again (R22, R24). -/
def Circuit.endSurvey (c : Circuit) (r : SurveyResult) : Circuit :=
  let d := { c with survey := false, surveyRec := { c.surveyRec with result := some r } }
  match c.state with
  | .opened => d.hunt
  | .closed | .lost => d

/-- The class found written into the configuration, current or pending (R23). Class 7 written into a
pending configuration leaves the programmed N that configuration holds, be it another than the one that
matched (DEDUCED, log 33). -/
def adoptClass (c : Fin 16) (k : Nat) (s : State) : State :=
  let s := s.modCircuit c (fun x => { x with surveyRec := { x.surveyRec with adopted := true } })
  let x := s.circuit c
  match x.pendingConfig with
  | some p => s.modCircuit c (fun y => { y with pendingConfig := some { p with speedClass := k } })
  | none =>
    if s.quiet c then applyConfig c { x.config with speedClass := k } s
    else s.modCircuit c (fun y => { y with pendingConfig := some { x.config with speedClass := k } })

/-- The adopt option acts on a result (R23). -/
def adoptResult (c : Fin 16) (r : SurveyResult) (s : State) : State :=
  match r with
  | .speedClass k => if (s.circuit c).surveyRec.adopt then adoptClass c k s else s
  | .noSignal | .noMatch | .cancelled => s

/-- A survey judged and ended (R22). -/
def finishSurvey (c : Fin 16) (s : State) : State :=
  let r := judgeSurvey (s.circuit c).config (s.circuit c).surveyRec
  (adoptResult c r (s.modCircuit c (fun x => x.endSurvey r))).raise .surveyDone

/-- A survey cancelled (R24). An OPEN circuit's receive plane becomes LETTERS here also when
CIRCUIT_CLOSE is what cancels (DEDUCED, log 32). -/
def cancelSurvey (c : Fin 16) (s : State) : State :=
  (s.modCircuit c (fun x => x.endSurvey .cancelled)).raise .surveyDone

/-! ## Terminals -/

/-- The phase of a port whose reception begins afresh (R45, R46, R55). -/
def Port.freshPhase (p : Port) : PortPhase := if p.rxMark then .hunting else .waitMark

/-- A port enabled (R45). -/
def Port.enable (p : Port) (cfg : PortConfig) : Port :=
  { p with
    enabled := true
    config := cfg
    rxPhase := p.freshPhase
    requestMode := false
    afterRequest := false
    queue := []
    readyOut := .high
    readyIn := p.readyPin
    sending := none
    replySlot := none
    counts := {} }

/-- A port reconfigured in service (R46). -/
def Port.reconfigure (p : Port) (cfg : PortConfig) : Port :=
  { p with config := cfg, rxPhase := p.freshPhase }

/-- A port disabled (R47). -/
def Port.disable (p : Port) (cfg : PortConfig) : Port :=
  { p with
    enabled := false
    config := cfg
    rxPhase := .idle
    requestMode := false
    afterRequest := false
    queue := []
    readyOut := .low
    sending := none
    replySlot := none }

/-- A terminal outlet that leaves OFF (R45, R113, R117). -/
def Outlet.terminalOn (x : Outlet) (p : Port) : Outlet :=
  { x with state := readyState p, column := 0, stalls := 0 }

/-- A port disabled, its story and its outlet handed over (R47). -/
def disablePort (t : Fin 8) (cfg : PortConfig) (s : State) : State :=
  let s := loseSource (.terminal t) s
  let s := outletOff (terminalOutlet t) s
  let s := s.modPort t (fun p => p.disable cfg)
  s.modParser t (fun _ => {})

/-! ## Traffic reset -/

/-- The pending configuration applied at a traffic reset (R25). -/
def Circuit.applyPending (c : Circuit) : Circuit :=
  match c.pendingConfig with
  | some cfg => c.apply cfg
  | none => c

/-- A survey ended by a traffic reset (R24, R25). -/
def Circuit.dropSurvey (c : Circuit) : Circuit :=
  if c.survey then
    { c with survey := false, surveyRec := { c.surveyRec with result := some .cancelled } }
  else c

/-- A circuit at traffic reset (R25). -/
def Circuit.trafficReset (c : Circuit) : Circuit :=
  let d := { c.dropSurvey with sending := none }
  match c.state with
  | .closed => d.applyPending
  | .opened | .lost => ({ d.hunt with state := .opened, restoreTimer := none } : Circuit).applyPending

/-- A port at traffic reset (R55). -/
def Port.trafficReset (p : Port) : Port :=
  if p.enabled then
    { p with
      rxPhase := p.freshPhase
      requestMode := false
      afterRequest := false
      queue := []
      readyOut := .high
      sending := none
      replySlot := none }
  else p

/-- A line outlet at traffic reset, by its circuit's state before it (R139). -/
def Outlet.lineReset (x : Outlet) (st : CircuitState) : Outlet :=
  match st with
  | .closed => { x.toOff with column := 0 }
  | .opened | .lost => x.toOff.lineOn

/-- A terminal outlet at traffic reset (R139). -/
def Outlet.terminalReset (x : Outlet) (p : Port) : Outlet :=
  if p.enabled then { x.toOff with state := readyState p, column := 0 } else { x.toOff with column := 0 }

/-- A control unit at traffic reset (R153). -/
def Control.trafficReset (c : Control) : Control := c.motorStop.force

/-- The host port at traffic reset (R177). -/
def HostRegs.trafficReset (r : HostRegs) : HostRegs :=
  { r with resetCause := .traffic, snapshot := [], draft := none }

/-- One circuit, with its outlet, at traffic reset. -/
def resetCircuit (c : Fin 16) (s : State) : State :=
  let st := (s.circuit c).state
  (s.modOutlet (lineOutlet c) (fun x => x.lineReset st)).modCircuit c (fun x => x.trafficReset)

/-- One terminal, with its outlet and its parser, at traffic reset. -/
def resetTerminal (t : Fin 8) (s : State) : State :=
  let p := s.port t
  ((s.modOutlet (terminalOutlet t) (fun x => x.terminalReset p)).modPort t
    (fun q => q.trafficReset)).modParser t (fun _ => {})

/-- A traffic reset of every block (R177). -/
def trafficReset (s : State) : State :=
  let s := { s with
    stories := Vector.replicate 48 {}
    openOrder := []
    framers := Vector.replicate 24 {}
    notices := s.notices.withFlags 0#11 }
  let s := forEach allCircuits resetCircuit s
  let s := forEach allTerminals resetTerminal s
  let s := forEach allCircuits (fun c t => t.modControl c (fun x => x.trafficReset)) s
  settle (s.modRegs (fun r => r.trafficReset))

end Sys2Proof.Machine
end

