-- ==== Sys2Proof/Machine/CircuitCommands.lean ====
section
/-! DEFINITION. The circuit commands: CIRCUIT_SET in its three sections, CIRCUIT_OPEN, CIRCUIT_CLOSE, the
surveys, COUNTER_ACTION and OUTPUT_SET (R2, R4, R8, R20 to R24, R145, R146, R152, R169). -/

namespace Sys2Proof.Machine

/-! ## CIRCUIT_SET -/

/-- The section ARG0 names (R169). -/
def State.circuitSetSection (s : State) : Nat := hiByte (s.arg 0)

/-- The circuit ARG0 names (R169). -/
def State.circuitSetCircuit (s : State) : Option (Fin 16) := circuitOf (loByte (s.arg 0))

/-- A new draft (R169). -/
def Draft.fresh (c : Fin 16) : Draft :=
  { circuit := c, length := 0, chars := Vector.replicate 20 0#8, section2 := false }

/-- The draft a section is written into: the one held if it names the circuit, otherwise a new one
(R169). -/
def State.draftFor (s : State) (c : Fin 16) : Draft :=
  match s.regs.draft with
  | some d => if d.circuit = c then d else Draft.fresh c
  | none => Draft.fresh c

/-- The bytes of some argument words, two to a word. -/
def State.argBytes (s : State) (ks : List (Fin 8)) : List (BitVec 8) :=
  ks.flatMap (fun k => bytesOf (s.arg k))

/-- Bytes written into a draft from a position on. -/
def writeBytes (first : Nat) (bytes : List (BitVec 8)) (v : Vector (BitVec 8) 20) :
    Vector (BitVec 8) 20 :=
  Vector.ofFn (fun i =>
    if first ≤ i.val then (bytes[i.val - first]?).getD (v.get i) else v.get i)

/-- The bytes of a section at positions within a string's length are allowed ones (R169). -/
def sectionValid (first length : Nat) (bytes : List (BitVec 8)) : Bool :=
  (bytes.take (length - first)).all answerbackByte

/-- Section 1: the length and characters 1 to 12 (R169). -/
def setSection1 (s : State) : State :=
  let bytes := s.argBytes [2, 3, 4, 5, 6, 7]
  let length := (s.arg 1).toNat
  match s.circuitSetCircuit with
  | none => s.refuse 14 .badArgument
  | some c =>
    if length ≤ 20 ∧ sectionValid 0 length bytes then
      let d := s.draftFor c
      (s.modRegs (fun r =>
        { r with draft := some { d with length := length, chars := writeBytes 0 bytes d.chars } })
        ).answer 14 .ok
    else s.refuse 14 .badArgument

/-- Section 2: characters 13 to 20 (R169; log 15). -/
def setSection2 (s : State) : State :=
  let bytes := s.argBytes [1, 2, 3, 4]
  match s.circuitSetCircuit with
  | none => s.refuse 14 .badArgument
  | some c =>
    let d := s.draftFor c
    if sectionValid 12 d.length bytes then
      (s.modRegs (fun r =>
        { r with draft := some { d with section2 := true, chars := writeBytes 12 bytes d.chars } })
        ).answer 14 .ok
    else s.refuse 14 .badArgument

/-- The first characters of a draft as office characters. -/
def Draft.string (d : Draft) : List Office :=
  (d.chars.toList.take d.length).map (fun b => BitVec.ofNat 7 b.toNat)

/-- The answerback string section 0 submits for a circuit, or none when the draft cannot give one
(R169). -/
def State.submittedString (s : State) (c : Fin 16) : Option (List Office) :=
  match s.regs.draft with
  | none => some []
  | some d =>
    if d.circuit ≠ c then some []
    else if (12 < d.length ∧ d.section2 = false)
        ∨ (d.chars.toList.take d.length).all answerbackByte = false then none
    else some d.string

/-- A configuration placed: applied at the quiet point, or made pending (R8). RVAL0 shows which (R169). -/
def placeConfig (c : Fin 16) (cfg : CircuitConfig) (s : State) : State :=
  let s := s.modRegs (fun r => { r with draft := none })
  if s.quiet c then (settle (applyConfig c cfg s)).answer 14 .ok { r0 := 1#16 }
  else (s.modCircuit c (fun x => { x with pendingConfig := some cfg })).answer 14 .ok { r0 := 2#16 }

/-- Section 0: the configuration submitted (R8, R169). -/
def submitConfig (s : State) : State :=
  match s.circuitSetCircuit with
  | none => s.refuse 14 .badArgument
  | some c =>
    match (s.submittedString c).bind (circuitConfigOf s.regs.args) with
    | none => s.refuse 14 .badArgument
    | some cfg => placeConfig c cfg s

/-- CIRCUIT_SET by its section; a section above 2 is BAD_ARGUMENT (R169). -/
def circuitSet (s : State) : State :=
  match s.circuitSetSection with
  | 0 => submitConfig s
  | 1 => setSection1 s
  | 2 => setSection2 s
  | _ => s.refuse 14 .badArgument

/-- CIRCUIT_SET as the row of one section: another valid section is another row's case (log 1). -/
def circuitSetAs (n : Nat) (s : State) : State :=
  if s.circuitSetSection = n ∨ 2 < s.circuitSetSection then circuitSet s else s

/-- CIRCUIT_SET. -/
def execCircuitSet (s : State) : Host.Outcome State Fault Refusal := .next (circuitSetAs 0 s)

/-- CIRCUIT_SET_SECTION_1. -/
def execCircuitSetSection1 (s : State) : Host.Outcome State Fault Refusal := .next (circuitSetAs 1 s)

/-- CIRCUIT_SET_SECTION_2. -/
def execCircuitSetSection2 (s : State) : Host.Outcome State Fault Refusal := .next (circuitSetAs 2 s)

/-! ## Opening and closing -/

/-- A CLOSED circuit put in service, with its outlet (R2, R39, R115). -/
def openCircuit (c : Fin 16) (s : State) : State :=
  (s.modCircuit c (fun x => x.toOpen)).modOutlet (lineOutlet c)
    (fun x => { x.lineOn with substitutions := 0, drops := 0 })

/-- CIRCUIT_OPEN taken as a command (R2). -/
def circuitOpen (s : State) : State :=
  match circuitOf (s.arg 0).toNat with
  | none => s.refuse 15 .badArgument
  | some c =>
    let x := s.circuit c
    if x.config.valid = false then s.refuse 15 .badArgument
    else if x.state ≠ .closed ∨ x.survey then s.refuse 15 .badState
    else (openCircuit c s).done 15

/-- CIRCUIT_OPEN. -/
def execCircuitOpen (s : State) : Host.Outcome State Fault Refusal := .next (circuitOpen s)

/-- An OPEN or LOST circuit taken out of service to CLOSED (R4, R153). -/
def closeCircuit (c : Fin 16) (s : State) : State :=
  let s := s.modCircuit c (fun x => x.toClosed)
  let s := leaveService c s
  s.modControl c (fun x => x.force)

/-- CIRCUIT_CLOSE taken as a command (R4, R24). -/
def circuitClose (s : State) : State :=
  match circuitOf (s.arg 0).toNat with
  | none => s.refuse 16 .badArgument
  | some c =>
    let t := if (s.circuit c).survey then cancelSurvey c s else s
    (if (s.circuit c).state = .closed then t else closeCircuit c t).done 16

/-- CIRCUIT_CLOSE. -/
def execCircuitClose (s : State) : Host.Outcome State Fault Refusal := .next (circuitClose s)

/-! ## Surveys -/

/-- A survey begun on a circuit record (R20, R21). -/
def Circuit.startSurvey (c : Circuit) (gate : SurveyGate) (adopt : Bool) : Circuit :=
  let d := { c with survey := true, surveyRec := { gate := gate, adopt := adopt } }
  match c.state with
  | .opened =>
    { d with rxPhase := .idle, lossTimer := none, edges := [], allSpace := false, afterStop := false }
  | .closed | .lost => d

/-- SURVEY_START taken as a command (R20, R71). -/
def surveyStart (s : State) : State :=
  match circuitOf (s.arg 0).toNat, named gates (s.arg 1).toNat with
  | some c, some gate =>
    if (s.circuit c).state = .lost ∨ (s.circuit c).survey then s.refuse 17 .badState
    else if s.sourceLive (.circuit c) then s.refuse 17 .circuitBusy
    else
      (resetFramer (.circuit c)
        (s.modCircuit c (fun x => x.startSurvey gate (markOf (s.arg 2).toNat)))).done 17
  | _, _ => s.refuse 17 .badArgument

/-- SURVEY_START. -/
def execSurveyStart (s : State) : Host.Outcome State Fault Refusal := .next (surveyStart s)

/-- A command on a running survey (R22, R24). -/
def onSurvey (number : Nat) (f : Fin 16 → State → State) (s : State) : State :=
  match circuitOf (s.arg 0).toNat with
  | none => s.refuse number .badArgument
  | some c =>
    if (s.circuit c).survey then (f c s).done number else s.refuse number .badState

/-- SURVEY_STOP taken as a command (R22). -/
def surveyStop (s : State) : State := onSurvey 18 finishSurvey s

/-- SURVEY_STOP. -/
def execSurveyStop (s : State) : Host.Outcome State Fault Refusal := .next (surveyStop s)

/-- SURVEY_CANCEL taken as a command (R24). -/
def surveyCancel (s : State) : State := onSurvey 19 cancelSurvey s

/-- SURVEY_CANCEL. -/
def execSurveyCancel (s : State) : Host.Outcome State Fault Refusal := .next (surveyCancel s)

/-! ## COUNTER_ACTION -/

/-- RELEASE on a counter (R145, R146). -/
def releaseCounter (c : Fin 16) (s : State) : State :=
  if (s.control c).phase = .holding then (s.modControl c (fun x => x.rest)).done 20
  else s.refuse 20 .badState

/-- FORCE_IDLE on a counter (R145, R146). -/
def forceCounter (c : Fin 16) (s : State) : State := (s.modControl c (fun x => x.force)).done 20

/-- An action that writes its settings and starts the counter, with its checks (R145). -/
def startCounter (c : Fin 16) (a : CounterAction) (s : State) : State :=
  match counterSettingsOf s.regs.args with
  | none => s.refuse 20 .badArgument
  | some x =>
    if (s.control c).phase ≠ .idle then s.refuse 20 .badState
    else if a ≠ .idle ∧ (s.circuit c).state = .closed then s.refuse 20 .badState
    else (s.modControl c (fun y => y.start x a)).done 20

/-- COUNTER_ACTION taken as a command (R145; log 14). -/
def counterAction (s : State) : State :=
  match circuitOf (hiByte (s.arg 0)), named actions (loByte (s.arg 0)) with
  | some c, some .release => releaseCounter c s
  | some c, some .forceIdle => forceCounter c s
  | some c, some a => startCounter c a s
  | _, _ => s.refuse 20 .badArgument

/-- COUNTER_ACTION as the row of one action: another valid action is another row's case (log 1). -/
def counterActionAs (a : CounterAction) (s : State) : State :=
  match named actions (loByte (s.arg 0)) with
  | some b => if b = a then counterAction s else s
  | none => counterAction s

/-- COUNTER_ACTION_IDLE. -/
def execCounterActionIdle (s : State) : Host.Outcome State Fault Refusal :=
  .next (counterActionAs .idle s)

/-- COUNTER_ACTION_ONCE. -/
def execCounterActionOnce (s : State) : Host.Outcome State Fault Refusal :=
  .next (counterActionAs .once s)

/-- COUNTER_ACTION_REPEAT. -/
def execCounterActionRepeat (s : State) : Host.Outcome State Fault Refusal :=
  .next (counterActionAs .repeated s)

/-- COUNTER_ACTION_DELAYED_ONCE. -/
def execCounterActionDelayedOnce (s : State) : Host.Outcome State Fault Refusal :=
  .next (counterActionAs .delayedOnce s)

/-- COUNTER_ACTION_DELAYED_REPEAT. -/
def execCounterActionDelayedRepeat (s : State) : Host.Outcome State Fault Refusal :=
  .next (counterActionAs .delayedRepeat s)

/-- COUNTER_ACTION_HOLD. -/
def execCounterActionHold (s : State) : Host.Outcome State Fault Refusal :=
  .next (counterActionAs .hold s)

/-- COUNTER_ACTION_RELEASE. -/
def execCounterActionRelease (s : State) : Host.Outcome State Fault Refusal :=
  .next (counterActionAs .release s)

/-- COUNTER_ACTION_FORCE_IDLE. -/
def execCounterActionForceIdle (s : State) : Host.Outcome State Fault Refusal :=
  .next (counterActionAs .forceIdle s)

/-! ## OUTPUT_SET -/

/-- A selector written: output 0 is MOTOR, 1 is SIGNAL (R152). -/
def writeSelector (output : Nat) (x : Selector) (c : Control) : Control :=
  if output = 0 then { c with motorSel := x } else { c with signalSel := x }

/-- OUTPUT_SET taken as a command (R152). -/
def outputSet (s : State) : State :=
  match circuitOf (s.arg 0).toNat, selectorOf s.regs.args with
  | some c, some x =>
    if (s.arg 1).toNat ≤ 1 then
      (s.modControl c (fun y => writeSelector (s.arg 1).toNat x y)).done 21
    else s.refuse 21 .badArgument
  | _, _ => s.refuse 21 .badArgument

/-- OUTPUT_SET. -/
def execOutputSet (s : State) : Host.Outcome State Fault Refusal := .next (outputSet s)

end Sys2Proof.Machine
end

