-- ==== Sys2Proof/Machine/DirectoryCommands.lean ====
section
/-! DEFINITION. The commands on the Desk Directory, the code pages and the terminals: DESK_WRITE,
DESK_REMOVE, PAGE_WRITE, TERMINAL_SET (R40 to R47, R102 to R104). -/

namespace Sys2Proof.Machine

/-! ## The Desk Directory -/

/-- The fallback code of DESK_WRITE: 0 is absent, and any other must be two capital letters other than
the entry's own code (R102). -/
def fallbackOf (w : Word) (own : DeskCode) : Option (Option DeskCode) :=
  if w = 0#16 then some none
  else
    match deskCodeOf w with
    | some d => if d = own then none else some (some d)
    | none => none

/-- The desk entry DESK_WRITE carries, with its routed count at 0; none for BAD_ARGUMENT (R102; log
12). -/
def deskOfArgs (args : Vector Word 8) : Option Desk := do
  let code ← deskCodeOf (args.get 0)
  let floor ← named priorities (args.get 3).toNat
  let fallback ← fallbackOf (args.get 4) code
  some
    { code := code
      outlets := outletSetOf (args.get 1) (args.get 2)
      floor := floor
      fallback := fallback
      isDefault := markOf (hiByte (args.get 5))
      echo := markOf (loByte (args.get 5)) }

/-- The default mark cleared in an entry. -/
def Desk.notDefault (d : Desk) : Desk := { d with isDefault := false }

/-- The default marks of every entry cleared (R103). -/
def clearDefaults (s : State) : State :=
  forEach allPositions (fun i t => t.setDesk i ((t.desk i).map Desk.notDefault)) s

/-- A desk entry put in a position: its default mark clears every other entry's (R102, R103). -/
def putDesk (i : Fin 32) (d : Desk) (s : State) : State :=
  (if d.isDefault then clearDefaults s else s).setDesk i (some d)

/-- The routed count a replaced entry keeps (R102). -/
def State.routedAt (s : State) (i : Fin 32) : Nat := ((s.desk i).map (·.routed)).getD 0

/-- DESK_WRITE taken as a command (R102, R103). -/
def deskWrite (s : State) : State :=
  match deskOfArgs s.regs.args with
  | none => s.refuse 12 .badArgument
  | some d =>
    match s.findDesk d.code, s.emptyPosition with
    | some i, _ => (putDesk i { d with routed := s.routedAt i } s).answer 12 .ok
    | none, some i => (putDesk i d s).answer 12 .ok
    | none, none => s.refuse 12 .tableFull

/-- DESK_WRITE. -/
def execDeskWrite (s : State) : Host.Outcome State Fault Refusal := .next (deskWrite s)

/-- DESK_REMOVE taken as a command (R104). -/
def deskRemove (s : State) : State :=
  match deskCodeOf (s.arg 0) with
  | none => s.refuse 13 .badArgument
  | some d =>
    match s.findDesk d with
    | none => s.refuse 13 .badState
    | some i => (s.setDesk i none).answer 13 .ok

/-- DESK_REMOVE. -/
def execDeskRemove (s : State) : Host.Outcome State Fault Refusal := .next (deskRemove s)

/-! ## Code pages -/

/-- A page is in use: some circuit that names it is the source of a live story or the outlet of a live
entry (R41). -/
def State.pageInUse (s : State) (p : Fin 4) : Bool :=
  allCircuits.any (fun c => decide ((s.circuit c).config.page = p) && !s.quiet c)

/-- The page changes a PAGE_WRITE carries, its values in their order (R27, R40). -/
inductive PageWrite
  | letters (l : List RxEntry)
  | figures (l : List RxEntry)
  | send (l : List SendEntry)
  | substitute (o : Office)
  deriving DecidableEq, Repr

/-- Every value of a list read, or none (R40). -/
def readAll {α : Type} (f : Nat → Option α) : List Nat → Option (List α)
  | [] => some []
  | n :: rest =>
    match f n, readAll f rest with
    | some a, some l => some (a :: l)
    | _, _ => none

/-- The values of PAGE_WRITE, as many as its count (R40). -/
def pageValues (args : Vector Word 8) : List Nat :=
  [(args.get 4).toNat, (args.get 5).toNat, (args.get 6).toNat, (args.get 7).toNat].take
    (args.get 3).toNat

/-- Part, first index and count are ones the page has (R40). -/
def pageRangeValid (part first count : Nat) : Bool :=
  decide (1 ≤ count ∧ count ≤ 4)
  && (match part with
      | 0 | 1 => decide (first + count ≤ 32)
      | 2 => decide (first + count ≤ 128)
      | 3 => decide (count = 1 ∧ first + count ≤ 1)
      | _ => false)

/-- The write PAGE_WRITE carries; none for BAD_ARGUMENT (R40). -/
def pageWriteOf (args : Vector Word 8) : Option PageWrite :=
  if pageRangeValid (args.get 1).toNat (args.get 2).toNat (args.get 3).toNat then
    match (args.get 1).toNat with
    | 0 => (readAll rxEntryOf (pageValues args)).map .letters
    | 1 => (readAll rxEntryOf (pageValues args)).map .figures
    | 2 => (readAll sendEntryOf (pageValues args)).map .send
    | 3 =>
      match pageValues args with
      | [n] => (substituteOf n).map .substitute
      | _ => none
    | _ => none
  else none

/-- Entries written from an index on (R40). -/
def writeFrom {α : Type} {n : Nat} (first : Nat) (l : List α) (v : Vector α n) : Vector α n :=
  Vector.ofFn (fun i => if first ≤ i.val then (l[i.val - first]?).getD (v.get i) else v.get i)

/-- A write made in a page (R40). -/
def Page.write (p : Page) (first : Nat) : PageWrite → Page
  | .letters l => { p with rxLetters := writeFrom first l p.rxLetters }
  | .figures l => { p with rxFigures := writeFrom first l p.rxFigures }
  | .send l => { p with send := writeFrom first l p.send }
  | .substitute o => { p with substitute := o }

/-- A page record replaced. -/
def State.setPage (s : State) (p : Fin 4) (x : Page) : State := { s with pages := s.pages.set p x }

/-- PAGE_WRITE taken as a command, its checks in the order of R40. -/
def pageWrite (s : State) : State :=
  match pageOf (s.arg 0).toNat with
  | none => s.refuse 23 .badArgument
  | some p =>
    if p = 0 then s.refuse 23 .pageFixed
    else
      match pageWriteOf s.regs.args with
      | none => s.refuse 23 .badArgument
      | some w =>
        if s.pageInUse p then s.refuse 23 .pageInUse
        else (s.setPage p ((s.page p).write (s.arg 2).toNat w)).done 23

/-- PAGE_WRITE. -/
def execPageWrite (s : State) : Host.Outcome State Fault Refusal := .next (pageWrite s)

/-! ## Terminals -/

/-- The case of a TERMINAL_SET by its enable field and the port's state (R45 to R47). -/
inductive TerminalCase
  | enable
  | reconfigure
  | disable
  deriving DecidableEq, Repr

/-- The case a configuration makes on a port. -/
def terminalCase (p : Port) (cfg : PortConfig) : TerminalCase :=
  if cfg.enable then (if p.enabled then .reconfigure else .enable) else .disable

/-- A port enabled, with its outlet (R45, R117). -/
def enablePort (t : Fin 8) (cfg : PortConfig) (s : State) : State :=
  let s := s.modPort t (fun p => p.enable cfg)
  s.modOutlet (terminalOutlet t) (fun x => x.terminalOn (s.port t))

/-- TERMINAL_SET with enable off (R47). -/
def turnOff (t : Fin 8) (cfg : PortConfig) (s : State) : State :=
  if (s.port t).enabled then disablePort t cfg s else s.modPort t (fun p => { p with config := cfg })

/-- A configuration written to a port with the effects of its case (R45 to R47). -/
def setTerminal (t : Fin 8) (cfg : PortConfig) (s : State) : State :=
  match terminalCase (s.port t) cfg with
  | .enable => enablePort t cfg s
  | .reconfigure => s.modPort t (fun p => p.reconfigure cfg)
  | .disable => turnOff t cfg s

/-- TERMINAL_SET taken as a command (R44). -/
def terminalSet (s : State) : State :=
  match terminalOf (s.arg 0).toNat, portConfigOf s.regs.args with
  | some t, some cfg => (setTerminal t cfg s).done 22
  | _, _ => s.refuse 22 .badArgument

/-- TERMINAL_SET as the row of one case: valid arguments that make another case are another row's (log
1). -/
def terminalSetAs (a : TerminalCase) (s : State) : State :=
  match terminalOf (s.arg 0).toNat, portConfigOf s.regs.args with
  | some t, some cfg => if terminalCase (s.port t) cfg = a then terminalSet s else s
  | _, _ => terminalSet s

/-- TERMINAL_SET_ENABLE. -/
def execTerminalSetEnable (s : State) : Host.Outcome State Fault Refusal :=
  .next (terminalSetAs .enable s)

/-- TERMINAL_SET_RECONFIGURE. -/
def execTerminalSetReconfigure (s : State) : Host.Outcome State Fault Refusal :=
  .next (terminalSetAs .reconfigure s)

/-- TERMINAL_SET_DISABLE. -/
def execTerminalSetDisable (s : State) : Host.Outcome State Fault Refusal :=
  .next (terminalSetAs .disable s)

end Sys2Proof.Machine
end

