-- ==== Sys2Proof/Machine/StoryCommands.lean ====
section
/-! DEFINITION. The story commands: finding, killing, holding, releasing, priority, adding and dropping
outlets, retiring, changed marks and the next number (R77, R90 to R98, R109 to R111, R167, R168). -/

namespace Sys2Proof.Machine

/-- The record ARG0 names by its number (R96; 10.2, note 1). -/
def State.argStory (s : State) : Option (Fin 48) := s.findNumber (s.arg 0).toNat

/-- A command on the story ARG0 names (R165). -/
def onStory (number : Nat) (f : Fin 48 → State → State) (s : State) : State :=
  match s.argStory with
  | none => s.refuse number .noSuchStory
  | some k => f k s

/-! ## STORY_FIND -/

/-- The answer of STORY_FIND for a slot: FREE shows FFFFh as its number (R167). -/
def foundWords (s : State) (k : Fin 48) : ResultWords :=
  let st := s.story k
  { r0 := word k.val
    r1 := if st.state = .free then 0xFFFF#16 else word st.number
    r2 := listWord storyStates st.state }

/-- A lookup answered (R167). -/
def answerFound (s : State) : Option (Fin 48) → State
  | some k => s.answer 1 .ok (foundWords s k)
  | none => s.refuse 1 .noSuchStory

/-- A lookup by slot (R96, R167). -/
def findBySlot (s : State) : State :=
  match slotOf (s.arg 1).toNat with
  | some k => answerFound s (some k)
  | none => s.refuse 1 .badArgument

/-- A lookup by story number (R96, R167). -/
def findByNumber (s : State) : State :=
  let n := (s.arg 1).toNat
  if 1 ≤ n ∧ n ≤ 9999 then answerFound s (s.findNumber n) else s.refuse 1 .badArgument

/-- The slug words of STORY_FIND. -/
def State.slugArgs (s : State) : List Word := [s.arg 1, s.arg 2, s.arg 3, s.arg 4, s.arg 5, s.arg 6, s.arg 7]

/-- A lookup by slug (R96, R167). -/
def findBySlug (s : State) : State :=
  match slugOfWords s.slugArgs with
  | some cs => answerFound s (s.findSlug cs)
  | none => s.refuse 1 .badArgument

/-- STORY_FIND taken as a command (R96, R167). -/
def storyFind (s : State) : State :=
  match (s.arg 0).toNat with
  | 0 => findBySlot s
  | 1 => findByNumber s
  | 2 => findBySlug s
  | _ => s.refuse 1 .badArgument

/-- STORY_FIND. -/
def execStoryFind (s : State) : Host.Outcome State Fault Refusal := .next (storyFind s)

/-! ## Kill, hold, release, priority -/

/-- STORY_KILL taken as a command (R92). -/
def storyKill (s : State) : State :=
  onStory 2 (fun k t =>
    if (t.story k).state = .closed then t.refuse 2 .badState else (killStory k none t).done 2) s

/-- STORY_KILL. -/
def execStoryKill (s : State) : Host.Outcome State Fault Refusal := .next (storyKill s)

/-- A source is a terminal. -/
def Source.isTerminal : Source → Bool
  | .terminal _ => true
  | .circuit _ => false

/-- STORY_HOLD taken as a command (R90). -/
def storyHold (s : State) : State :=
  onStory 3 (fun k t =>
    if (t.story k).source.isTerminal = false then t.refuse 3 .notTerminalSource
    else if (t.story k).state ≠ .running then t.refuse 3 .badState
    else (holdStory k .host t).done 3) s

/-- STORY_HOLD. -/
def execStoryHold (s : State) : Host.Outcome State Fault Refusal := .next (storyHold s)

/-- STORY_RELEASE taken as a command (R91). -/
def storyRelease (s : State) : State :=
  onStory 4 (fun k t =>
    if (t.story k).state ≠ .held then t.refuse 4 .badState else (releaseStory k t).done 4) s

/-- STORY_RELEASE. -/
def execStoryRelease (s : State) : Host.Outcome State Fault Refusal := .next (storyRelease s)

/-- A story's priority can be changed: RUNNING, HELD or CLOSING (R95). -/
def StoryState.hasPriority : StoryState → Bool
  | .running | .held | .closing => true
  | .free | .header | .closed => false

/-- STORY_PRIORITY taken as a command (R95). -/
def storyPriority (s : State) : State :=
  match named priorities (s.arg 1).toNat with
  | none => s.refuse 5 .badArgument
  | some p =>
    onStory 5 (fun k t =>
      if (t.story k).state.hasPriority then (setPriority k p t).done 5
      else t.refuse 5 .badState) s

/-- STORY_PRIORITY. -/
def execStoryPriority (s : State) : Host.Outcome State Fault Refusal := .next (storyPriority s)

/-! ## Add and drop -/

/-- The checks of an add on a record found, in their order: the result code (R109). -/
def addCheck (k : Fin 48) (o : Fin 24) (s : State) : ResultCode :=
  let st := s.story k
  if st.state.joinable = false then .badState
  else if (st.entryOn o).isSome then .duplicate
  else if s.available o = false then .outletUnavailable
  else if s.fastEnough st.source o = false then .slowPath
  else .ok

/-- STORY_ADD_OUTLET taken as a command (R109, R110). -/
def storyAddOutlet (s : State) : State :=
  match outletOf (s.arg 1).toNat with
  | none => s.refuse 6 .badArgument
  | some o =>
    onStory 6 (fun k t =>
      if addCheck k o t = .ok then (addOutlet k o t).done 6 else t.refuse 6 (addCheck k o t)) s

/-- STORY_ADD_OUTLET. -/
def execStoryAddOutlet (s : State) : Host.Outcome State Fault Refusal := .next (storyAddOutlet s)

/-- STORY_DROP_OUTLET taken as a command (R111). -/
def storyDropOutlet (s : State) : State :=
  match outletOf (s.arg 1).toNat with
  | none => s.refuse 7 .badArgument
  | some o =>
    onStory 7 (fun k t =>
      if (t.story k).liveOn o then (cutEntry k o .removed t).done 7 else t.refuse 7 .badState) s

/-- STORY_DROP_OUTLET. -/
def execStoryDropOutlet (s : State) : Host.Outcome State Fault Refusal := .next (storyDropOutlet s)

/-! ## Retiring, changed marks, numbering -/

/-- RETIRE taken as a command (R98). -/
def retireCommand (s : State) : State :=
  match slotOf (s.arg 0).toNat with
  | none => s.refuse 8 .badArgument
  | some k =>
    if (s.story k).state ≠ .closed then s.refuse 8 .badState
    else if s.owedAnywhere k then s.refuse 8 .noticePending
    else (freeRecord k s).answer 8 .ok

/-- RETIRE. -/
def execRetire (s : State) : Host.Outcome State Fault Refusal := .next (retireCommand s)

/-- RETIRE_CLOSED taken as a command (R98). -/
def retireClosed (s : State) : State :=
  let ks := allSlots.filter s.retirable
  (forEach ks freeRecord s).answer 9 .ok { r0 := word ks.length }

/-- RETIRE_CLOSED. -/
def execRetireClosed (s : State) : Host.Outcome State Fault Refusal := .next (retireClosed s)

/-- NEXT_CHANGED taken as a command (R168). -/
def nextChanged (s : State) : State :=
  match allSlots.find? (fun k => (s.story k).changed) with
  | some k => s.answer 10 .ok { r0 := 1#16, r1 := word k.val }
  | none => s.answer 10 .ok { r1 := 0xFFFF#16 }

/-- NEXT_CHANGED. -/
def execNextChanged (s : State) : Host.Outcome State Fault Refusal := .next (nextChanged s)

/-- SET_NEXT_NUMBER taken as a command (R77). -/
def setNextNumber (s : State) : State :=
  let n := (s.arg 0).toNat
  if n < 1 ∨ 9999 < n then s.refuse 11 .badArgument
  else if (s.findNumber n).isSome then s.refuse 11 .numberInUse
  else ({ s with nextNumber := n } : State).answer 11 .ok

/-- SET_NEXT_NUMBER. -/
def execSetNextNumber (s : State) : Host.Outcome State Fault Refusal := .next (setNextNumber s)

end Sys2Proof.Machine
end

