-- ==== Sys2Proof/Machine/Views.lean ====
section
/-! DEFINITION. The record views of the window (R171 to R173) and what a read of each word of the window
returns (10.1, R164). -/

namespace Sys2Proof.Machine

/-- A count or number as one view word. -/
def nums (l : List Nat) : List Word := l.map word

/-- Zero words. -/
def zeros (n : Nat) : List Word := List.replicate n 0#16

/-- A view's words followed by zeros up to a length. -/
def padTo (n : Nat) (l : List Word) : List Word := l ++ zeros (n - l.length)

/-! ## The story view (R171, R172) -/

/-- A source as 0 to 15 for a circuit, 16 + n for a terminal. -/
def sourceWord (src : Source) : Word := word src.index.val

/-- Held-by as a word. -/
def holderWord : Option Holder → Word
  | none => 0xFFFF#16
  | some .host => 24#16
  | some (.terminal t) => word (16 + t.val)

/-- An entry's suspension cause, 0 when absent. -/
def EntryState.causeNumber : EntryState → Nat
  | .suspended c => position suspendCauses c + 1
  | .waiting | .carrying | .done | .cut _ => 0

/-- An entry's cut reason, 0 when absent. -/
def EntryState.reasonNumber : EntryState → Nat
  | .cut r => position cutReasons r + 1
  | .waiting | .carrying | .suspended _ | .done => 0

/-- An entry's state by its position (R74). -/
def EntryState.number : EntryState → Nat
  | .waiting => 0
  | .carrying => 1
  | .suspended _ => 2
  | .done => 3
  | .cut _ => 4

/-- An entry's status word (R171). -/
def Entry.statusWord (e : Entry) : Word :=
  word (2048 * e.outlet.val + 256 * e.state.number + 64 * e.state.causeNumber
    + (if e.holdMark then 32 else 0) + 8 * position entryNotices e.owed + e.state.reasonNumber)

/-- An entry's four words (R171). -/
def Entry.words (e : Entry) : List Word := [e.statusWord, word e.start, word e.read, word e.lost]

/-- The entry words, FFFFh past the last entry (R171). -/
def entryWords (l : List Entry) : List Word :=
  l.flatMap Entry.words ++ List.replicate (96 - 4 * l.length) 0xFFFF#16

/-- Words 0 to 31 of the story view (R171). -/
def Story.headWords (st : Story) : List Word :=
  [word (position storyStates st.state + (if st.changed then 32768 else 0)), word st.number,
    optWord st.origin, optListWord priorities st.priority, optDeskWord st.desk,
    optDeskWord st.routedDesk]
  ++ slugWords (st.slug.getD [])
  ++ [optWord st.correctionOf, sourceWord st.source]
  ++ timeWords st.opened ++ optTimeWords st.closed
  ++ [optListWord closeReasons st.reason, word st.taken, word st.lines, holderWord st.heldBy]
  ++ optTimeWords st.blockedSince
  ++ [word st.entries.length, optWord st.idleTimer] ++ zeros 5

/-- The story view, both sections; a FREE record shows zeros (R172). -/
def Story.view (st : Story) : List Word :=
  if st.state = .free then zeros 128 else st.headWords ++ entryWords st.entries

/-! ## The other views (R173) -/

/-- The desk view. -/
def deskView : Option Desk → List Word
  | none => zeros 64
  | some d =>
    padTo 64 ([1#16, d.code.asWord] ++ outletSetWords d.outlets
      ++ [listWord priorities d.floor, optDeskWord d.fallback, markWord d.isDefault,
          markWord d.echo, word d.routed])

/-- A configuration's fields in the order of R7. -/
def CircuitConfig.words (c : CircuitConfig) : List Word :=
  [word c.speedClass, word c.programmedN, listWord stops c.stop, listWord polarities c.polarity,
    listWord filters c.filter, word c.page.val, markWord c.unshiftOnSpace, markWord c.shiftGuard,
    word c.width, word c.lossTime, word c.restoreTime, word c.idleLimit,
    markWord c.breakStopsSending, word c.answerback.length]
  ++ stringWords c.answerback ++ [word c.motorLead, word c.runOn]

/-- A survey result (log 11). -/
def resultWord : Option SurveyResult → Word
  | none => 0#16
  | some .noSignal => packBytes 1 0
  | some .noMatch => packBytes 2 0
  | some (.speedClass k) => packBytes 3 k
  | some .cancelled => packBytes 4 0

/-- A survey record in the order of R21. Adopted is shown as a mark, yes 1 and no 0 (DEDUCED, log 39). -/
def SurveyRecord.words (r : SurveyRecord) : List Word :=
  [listWord gates r.gate, markWord r.adopt, word r.elapsed, word r.edges, word r.shortestMark,
    word r.shortestSpace, resultWord r.result, markWord r.adopted]

/-- A circuit's counters in the order of R1. -/
def CircuitCounts.words (n : CircuitCounts) : List Word :=
  nums [n.received, n.sent, n.framingErrors, n.farBreaks, n.losses, n.earlySlips, n.lateSlips,
    n.refusedOpens, n.looseCopy]

/-- Section 0 of the circuit view. -/
def Circuit.words (c : Circuit) (f : Framer) : List Word :=
  [listWord circuitStates c.state, markWord c.survey] ++ c.config.words
  ++ [markWord c.pendingConfig.isSome, listWord planes c.rxPlane, listWord rxPhases c.rxPhase,
      optWord c.lossTimer, optWord c.restoreTimer, markWord c.sending.isSome, markWord c.slipFlag]
  ++ c.counts.words ++ c.surveyRec.words ++ [listWord framerStates f.state]

/-- A selector's inputs and levels. -/
def Selector.words (x : Selector) : List Word :=
  [listWord conditions x.inputA, listWord conditions x.inputB, listWord levels x.ff,
    listWord levels x.ft, listWord levels x.tf, listWord levels x.tt]

/-- The four toggle positions as written, FFFFh for one not written (log 29). -/
def toggleWords (l : List Nat) : List Word := (List.range 4).map (fun i => optWord l[i]?)

/-- Section 1 of the circuit view: the control record. -/
def Control.words (c : Control) : List Word :=
  [listWord motorStates c.motor, word c.motorCount, word c.motorTarget,
    listWord counterPhases c.phase, word c.value, markWord c.firstPass, markWord c.fillOwed,
    listWord levels c.wave, listWord uses c.settings.use, word c.settings.max,
    word c.settings.delay, markWord c.settings.skip, listWord levels c.settings.startLevel,
    word c.settings.toggles.length]
  ++ toggleWords c.settings.toggles ++ [word c.settings.inEffect.length]
  ++ c.motorSel.words ++ c.signalSel.words ++ [listWord levels c.motorOut, listWord levels c.signalOut]

/-- The circuit view, both sections. -/
def circuitView (c : Circuit) (f : Framer) (x : Control) : List Word :=
  padTo 64 (c.words f) ++ padTo 64 x.words

/-- A port configuration in the order of R44. -/
def PortConfig.words (c : PortConfig) : List Word :=
  [listWord speeds c.speed, listWord parities c.parity, word c.width,
    listWord authorities c.authority, word c.stallTime, word c.idleLimit, markWord c.enable]

/-- A port's counters in the order of R43. -/
def PortCounts.words (n : PortCounts) : List Word :=
  nums [n.received, n.sent, n.framingErrors, n.parityErrors, n.overruns, n.dropped, n.requestBusy,
    n.refusedOpens, n.looseCopy]

/-- The terminal view. -/
def terminalView (p : Port) (r : Parser) (f : Framer) : List Word :=
  padTo 64
    ([markWord p.enabled] ++ p.config.words
      ++ [listWord portPhases p.rxPhase, markWord p.requestMode, markWord p.afterRequest,
          word p.queue.length, listWord levels p.readyOut, listWord levels p.readyIn,
          markWord p.sending.isSome, markWord p.replySlot.isSome]
      ++ p.counts.words
      ++ [word r.buffer.length, markWord r.overflow, listWord framerStates f.state])

/-- The kind of a unit in the order of R119, 0 when absent. -/
def unitWord : Option OutUnit → Word
  | none => 0#16
  | some u =>
    match u.kind with
    | .text => 1#16
    | .notice _ => 2#16
    | .reply => 3#16
    | .answerback => 4#16

/-- A field that only one kind of outlet keeps: a free value on the other (R113; log 13). -/
def keptWord (o : Fin 24) (kept : Bool) (index : Nat) (w : Word) : Word :=
  if kept then w else Config.absentOutletField o.val index

/-- Section 0 of the outlet view. -/
def outletWords (o : Fin 24) (x : Outlet) : List Word :=
  let line := (outletCircuit o).isSome
  [listWord outletStates x.state, optWord (x.holder.map (·.val)), unitWord x.unit,
    keptWord o line 3 (markWord x.answerbackOwed), keptWord o line 4 (markWord x.counterBreak),
    keptWord o line 5 (markWord x.farBreak), keptWord o line 6 (listWord planes x.plane),
    keptWord o line 7 (markWord x.shiftOwed), word x.column,
    keptWord o (!line) 9 (optWord x.stallTimer), word x.substitutions, word x.drops,
    keptWord o (!line) 12 (word x.stalls), word x.waiting.length]
  ++ x.waiting.map (fun k => word k.val)

/-- Section 1 of the outlet view. -/
def owedWords (x : Outlet) : List Word :=
  word x.owed.length
    :: x.owed.map (fun i => packBytes (position owedKinds i.kind) i.slot.val)

/-- The outlet view, both sections. -/
def outletView (o : Fin 24) (x : Outlet) : List Word :=
  padTo 64 (outletWords o x) ++ padTo 64 (owedWords x)

/-- The page view, four sections. -/
def pageView (p : Page) (inUse : Bool) : List Word :=
  p.rxLetters.toList.map RxEntry.asWord ++ p.rxFigures.toList.map RxEntry.asWord
  ++ p.send.toList.map SendEntry.asWord
  ++ padTo 64 [word p.substitute.toNat, markWord inUse]

/-- The table view. -/
def tableView (s : State) : List Word :=
  padTo 64
    (nums [s.nextNumber, s.regs.blockLimit,
      (allSlots.filter (fun k => (s.story k).state = .free)).length, s.openOrder.length]
      ++ s.openOrder.map (fun k => word k.val))

/-! ## Selection -/

/-- A record a selection can name (R171). -/
inductive Selected
  | story (k : Fin 48)
  | desk (i : Fin 32)
  | circuit (c : Fin 16)
  | terminal (t : Fin 8)
  | outlet (o : Fin 24)
  | page (p : Fin 4)
  | table
  deriving DecidableEq, Repr

/-- The kind of a selection: bits 14 to 12. -/
def selKind (x : BitVec 15) : Nat := x.toNat / 4096

/-- The section of a selection: bits 11 to 8. -/
def selSection (x : BitVec 15) : Nat := x.toNat / 256 % 16

/-- The index of a selection: bits 7 to 0. -/
def selIndex (x : BitVec 15) : Nat := x.toNat % 256

/-- The record of a kind and an index, if the kind has it (R171). -/
def recordOf (kind index : Nat) : Option Selected :=
  match kind with
  | 0 => (slotOf index).map .story
  | 1 => (positionOf index).map .desk
  | 2 => (circuitOf index).map .circuit
  | 3 => (terminalOf index).map .terminal
  | 4 => (outletOf index).map .outlet
  | 5 => (pageOf index).map .page
  | 6 => if index = 0 then some .table else none
  | _ => none

/-- The sections of a kind's view (R171). -/
def sectionsOf : Selected → Nat
  | .desk _ | .terminal _ | .table => 1
  | .story _ | .circuit _ | .outlet _ => 2
  | .page _ => 4

/-- The record a selection names; none when its index or section is beyond the kind (R171). -/
def selected (x : BitVec 15) : Option Selected :=
  match recordOf (selKind x) (selIndex x) with
  | some r => if selSection x < sectionsOf r then some r else none
  | none => none

/-- The snapshot of a record: every section of its view (R171). -/
def State.viewOf (s : State) : Selected → List Word
  | .story k => (s.story k).view
  | .desk i => deskView (s.desk i)
  | .circuit c => circuitView (s.circuit c) (s.framer (lineOutlet c)) (s.control c)
  | .terminal t => terminalView (s.port t) (s.parser t) (s.framer (terminalOutlet t))
  | .outlet o => outletView o (s.outlet o)
  | .page p => pageView (s.page p) (s.pageInUse p)
  | .table => tableView s

/-- The two effects of taking a snapshot: a story's changed mark and a circuit's slip flag are cleared
(R171, R97, R17). -/
def State.clearMarks (s : State) : Selected → State
  | .story k => s.setStory k { s.story k with changed := false }
  | .circuit c => s.modCircuit c (fun x => { x with slipFlag := false })
  | .desk _ | .terminal _ | .outlet _ | .page _ | .table => s

/-- A window word of the snapshot held: 0 when the selection names no record (R171). -/
def State.windowWord (s : State) (n : Nat) : Word :=
  match selected s.regs.select with
  | none => 0#16
  | some _ => (s.regs.snapshot[selSection s.regs.select * 64 + n]?).getD 0#16

/-! ## Reading the window -/

/-- What a read of an offset returns, the two reads with an effect apart (10.1, R164). -/
def State.readWord (s : State) (offset : Nat) : Word :=
  match offset with
  | 0x00 => Config.ident
  | 0x01 => s.regs.command
  | 0x02 => listWord resultCodes s.regs.result
  | 0x03 => s.arg 0
  | 0x04 => s.arg 1
  | 0x05 => s.arg 2
  | 0x06 => s.arg 3
  | 0x07 => s.arg 4
  | 0x08 => s.arg 5
  | 0x09 => s.arg 6
  | 0x0A => s.arg 7
  | 0x0B => s.regs.rvals.r0
  | 0x0C => s.regs.rvals.r1
  | 0x0D => s.regs.rvals.r2
  | 0x0E => s.regs.rvals.r3
  | 0x0F => word s.notices.flags.toNat
  | 0x10 => word s.notices.enables.toNat
  | 0x11 => word s.regs.select.toNat
  | 0x12 => word (s.regs.clock / 65536)
  | 0x13 => word (s.regs.capture % 65536)
  | 0x15 => if s.regs.resetCause = .traffic then 1#16 else 0#16
  | n => if 0x16 ≤ n ∧ n ≤ 0x55 then s.windowWord (n - 0x16) else 0#16

end Sys2Proof.Machine
end

