-- ==== Sys2Proof/Machine/HostPort.lean ====
section
/-! DEFINITION. The host port: resets, the story clock, the block limit, accesses to the register window
(R164, R165, R170, R171, R174 to R177). -/

namespace Sys2Proof.Machine

/-! ## Resets -/

/-- Power-on reset: every block as State.reset has it; the pins keep their levels, the ready inputs are
read, and the commands waiting stay (R43; log 9). -/
def powerOn (s : State) : State :=
  { State.reset with
    circuits := Vector.ofFn (fun c => { rxLine := (s.circuit c).rxLine })
    ports := Vector.ofFn (fun t =>
      { rxMark := (s.port t).rxMark, readyPin := (s.port t).readyPin,
        readyIn := (s.port t).readyPin })
    pending := s.pending }

/-- POWER_ON_RESET. -/
def execPowerOnReset (s : State) : Host.Outcome State Fault Refusal := .next (powerOn s)

/-- TRAFFIC_RESET taken as a command: RESULT OK and the result words 0 (R177). -/
def trafficResetCommand (s : State) : State := (trafficReset s).answer 26 .ok

/-- TRAFFIC_RESET. -/
def execTrafficReset (s : State) : Host.Outcome State Fault Refusal := .next (trafficResetCommand s)

/-- A write to CONTROL: bit 0 set takes a traffic reset, and any other value is ignored (R164, R177). -/
def writeControl (value : Word) (s : State) : State :=
  if value.getLsbD 0 then trafficReset s else s

/-- CONTROL_WRITE. -/
def execControlWrite (value : Word) (s : State) : Host.Outcome State Fault Refusal :=
  .next (writeControl value s)

/-! ## Clock and block limit -/

/-- CLOCK_SET taken as a command (R176). -/
def clockSet (s : State) : State :=
  let n := 65536 * (s.arg 0).toNat + (s.arg 1).toNat
  if n ≤ 86399 then (s.modRegs (fun r => { r with clock := n })).answer 24 .ok
  else s.refuse 24 .badArgument

/-- CLOCK_SET. -/
def execClockSet (s : State) : Host.Outcome State Fault Refusal := .next (clockSet s)

/-- SET_BLOCK_LIMIT taken as a command (R170). -/
def setBlockLimit (s : State) : State :=
  let n := (s.arg 0).toNat
  if 5 ≤ n ∧ n ≤ 300 then (s.modRegs (fun r => { r with blockLimit := n })).answer 25 .ok
  else s.refuse 25 .badArgument

/-- SET_BLOCK_LIMIT. -/
def execSetBlockLimit (s : State) : Host.Outcome State Fault Refusal := .next (setBlockLimit s)

/-- A read of CLOCK_HI: the whole clock is captured and its upper part returned (R176; log 10). -/
def readClockHi (s : State) : State :=
  s.modRegs (fun r => { r with capture := r.clock, readData := word (r.clock / 65536) })

/-- CLOCK_HI_READ. -/
def execClockHiRead (s : State) : Host.Outcome State Fault Refusal := .next (readClockHi s)

/-! ## Notices -/

/-- A write to NOTICE clears each flag written as 1 (R174). -/
def writeNotice (value : Word) (s : State) : State :=
  { s with notices := s.notices.withFlags (s.notices.flags &&& ~~~(value.setWidth 11)) }

/-- NOTICE_WRITE. -/
def execNoticeWrite (value : Word) (s : State) : Host.Outcome State Fault Refusal :=
  .next (writeNotice value s)

/-- A write to NOTICE_ENABLE replaces the enables (R164, R175). -/
def writeNoticeEnable (value : Word) (s : State) : State :=
  { s with notices := s.notices.withEnables (value.setWidth 11) }

/-- NOTICE_ENABLE_WRITE. -/
def execNoticeEnableWrite (value : Word) (s : State) : Host.Outcome State Fault Refusal :=
  .next (writeNoticeEnable value s)

/-! ## Views -/

/-- Two selections name the same kind and index (R171). -/
def sameRecord (x y : BitVec 15) : Bool :=
  decide (selKind x = selKind y) && decide (selIndex x = selIndex y)

/-- A write to SELECT: a change of kind or index empties the snapshot (R171). -/
def writeSelect (value : Word) (s : State) : State :=
  s.modRegs (fun r =>
    { r with
      select := value.setWidth 15
      snapshot := if sameRecord r.select (value.setWidth 15) then r.snapshot else [] })

/-- SELECT_WRITE. -/
def execSelectWrite (value : Word) (s : State) : Host.Outcome State Fault Refusal :=
  .next (writeSelect value s)

/-- A snapshot taken of a record, its first word returned (R171; log 10). -/
def takeSnapshot (x : Selected) (s : State) : State :=
  let v := s.viewOf x
  (s.clearMarks x).modRegs (fun r => { r with snapshot := v, readData := v.headD 0#16 })

/-- A read of WINDOW0: under section 0 a snapshot is taken, under another it returns a word of the one
held; a selection of no record reads 0 (R171). -/
def readWindow0 (s : State) : State :=
  match selected s.regs.select with
  | none => s.modRegs (fun r => { r with readData := 0#16 })
  | some x =>
    if selSection s.regs.select = 0 then takeSnapshot x s
    else s.modRegs (fun r => { r with readData := s.windowWord 0 })

/-- WINDOW0_READ. -/
def execWindow0Read (s : State) : Host.Outcome State Fault Refusal := .next (readWindow0 s)

/-! ## The command port and the general write -/

/-- A number outside 1 to 26 written to COMMAND (R165). -/
def unknownCommand (number : Word) (s : State) : State :=
  s.modRegs (fun r => { r with command := number, result := .unknownCommand, rvals := {} })

/-- The command of a number taken (R165, R166). -/
def takeCommand (number : Word) (s : State) : State :=
  match number.toNat with
  | 1 => storyFind s
  | 2 => storyKill s
  | 3 => storyHold s
  | 4 => storyRelease s
  | 5 => storyPriority s
  | 6 => storyAddOutlet s
  | 7 => storyDropOutlet s
  | 8 => retireCommand s
  | 9 => retireClosed s
  | 10 => nextChanged s
  | 11 => setNextNumber s
  | 12 => deskWrite s
  | 13 => deskRemove s
  | 14 => circuitSet s
  | 15 => circuitOpen s
  | 16 => circuitClose s
  | 17 => surveyStart s
  | 18 => surveyStop s
  | 19 => surveyCancel s
  | 20 => counterAction s
  | 21 => outputSet s
  | 22 => terminalSet s
  | 23 => pageWrite s
  | 24 => clockSet s
  | 25 => setBlockLimit s
  | 26 => trafficResetCommand s
  | _ => unknownCommand number s

/-- UNKNOWN_COMMAND: a number of 1 to 26 is another row's (R165; log 1). -/
def execUnknownCommand (number : Word) (s : State) : Host.Outcome State Fault Refusal :=
  .next (if 1 ≤ number.toNat ∧ number.toNat ≤ 26 then s else unknownCommand number s)

/-- An argument word written. -/
def writeArg (k : Fin 8) (value : Word) (s : State) : State :=
  s.modRegs (fun r => { r with args := r.args.set k value })

/-- A word of the window written; a read-only or unused word ignores it (10.1, R164; log 3). -/
def writeWord (offset : Nat) (value : Word) (s : State) : State :=
  match offset with
  | 0x01 => takeCommand value s
  | 0x03 => writeArg 0 value s
  | 0x04 => writeArg 1 value s
  | 0x05 => writeArg 2 value s
  | 0x06 => writeArg 3 value s
  | 0x07 => writeArg 4 value s
  | 0x08 => writeArg 5 value s
  | 0x09 => writeArg 6 value s
  | 0x0A => writeArg 7 value s
  | 0x0F => writeNotice value s
  | 0x10 => writeNoticeEnable value s
  | 0x11 => writeSelect value s
  | 0x14 => writeControl value s
  | _ => s

/-- REGISTER_WRITE: an offset of 100 or more is no word of the window. -/
def execRegisterWrite (offset : Nat) (value : Word) (s : State) :
    Host.Outcome State Fault Refusal :=
  if offset < 100 then .next (writeWord offset value s) else .fault (.outsideWindow offset)

end Sys2Proof.Machine
end

