-- ==== Sys2Proof/Machine/LineEvents.lean ====
section
/-! DEFINITION. What happens on a line circuit: edges, characters, far breaks, loss and restore, surveys,
the end of a character sent, time fill (R5, R6, R13 to R18, R21, R22, R150). An event that is not due in
the state it meets changes nothing (log 1). -/

namespace Sys2Proof.Machine

/-! ## Edges outside a character -/

/-- A circuit's edges outside a character are its own: no survey runs and no character is being
received (log 2). -/
def Circuit.edgesFree (c : Circuit) : Bool := !c.survey && decide (c.rxPhase ≠ .inCharacter)

/-- A circuit receives: OPEN without the survey mark (1.5). -/
def Circuit.receives (c : Circuit) : Bool := decide (c.state = .opened) && !c.survey

/-- An accepted mark-to-space edge outside a character: the start of a character in HUNTING, and on a
LOST circuit whose receiver is IDLE the restore timer stops (R6, R14). -/
def Circuit.spaceEdge (c : Circuit) : Circuit :=
  let d := { c.withInput .space with afterStop := false }
  if c.receives ∧ c.rxPhase = .hunting then
    { d with rxPhase := .inCharacter, edges := [], allSpace := false }
  else if c.state = .lost ∧ c.rxPhase = .idle then { d with restoreTimer := none }
  else d

/-- A far break ended by mark (R16). -/
def Circuit.breakEnded (c : Circuit) : Circuit :=
  if c.state = .lost then { c with rxPhase := .idle, restoreTimer := some 0 }
  else { c with rxPhase := .hunting, lossTimer := none }

/-- The space of an all-space character ended short of a far break: a framing error (R15). -/
def Circuit.allSpaceOver (c : Circuit) : Circuit :=
  if c.allSpace then
    { c with
      allSpace := false
      counts := { c.counts with framingErrors := inc c.counts.framingErrors } }
  else c

/-- An accepted space-to-mark edge outside a character (R6, R15, R16). -/
def Circuit.markEdge (c : Circuit) : Circuit :=
  let d := { c.withInput .mark with afterStop := false }
  match c.rxPhase with
  | .farBreak => d.breakEnded
  | .hunting => d.allSpaceOver
  | .idle => if c.state = .lost then { d with restoreTimer := some 0 } else d
  | .inCharacter => d

/-- A mark-to-space edge whose space has held for some ticks. -/
def spaceEdge (c : Fin 16) (held : Nat) (s : State) : State :=
  if (s.circuit c).edgesFree && (s.circuit c).accepts .space held then
    s.modCircuit c (fun x => x.spaceEdge)
  else s

/-- A space-to-mark edge whose mark has held for some ticks. -/
def markEdge (c : Fin 16) (held : Nat) (s : State) : State :=
  if (s.circuit c).edgesFree && (s.circuit c).accepts .mark held then
    settle (s.modCircuit c (fun x => x.markEdge))
  else s

/-- LINE_START_EDGE (R14). -/
def execLineStartEdge (c : Fin 16) (held : Nat) (s : State) : Host.Outcome State Fault Refusal :=
  .next (spaceEdge c held s)

/-- LOST_SPACE_EDGE (R6). -/
def execLostSpaceEdge (c : Fin 16) (held : Nat) (s : State) : Host.Outcome State Fault Refusal :=
  .next (spaceEdge c held s)

/-- ALL_SPACE_ENDED (R15). -/
def execAllSpaceEnded (c : Fin 16) (held : Nat) (s : State) : Host.Outcome State Fault Refusal :=
  .next (markEdge c held s)

/-- FAR_BREAK_ENDS (R16). -/
def execFarBreakEnds (c : Fin 16) (held : Nat) (s : State) : Host.Outcome State Fault Refusal :=
  .next (markEdge c held s)

/-- LOST_MARK_EDGE (R6). -/
def execLostMarkEdge (c : Fin 16) (held : Nat) (s : State) : Host.Outcome State Fault Refusal :=
  .next (markEdge c held s)

/-! ## Inside a character -/

/-- The moment of a sample k half units after the start edge, in ticks (R11, R14). -/
def Circuit.halfUnits (c : Circuit) (k : Nat) : Nat := k * c.config.n / 2

/-- The level a sample reads at a moment of a character: the level accepted last by then, an edge being
accepted when the filter width has passed after it, and the space of the start edge before any (R13). -/
def Circuit.sampleAt (c : Circuit) (ticks : Nat) : Signal :=
  match (c.edges.filter (fun e => decide (e.ticks + c.config.filterWidth ≤ ticks))).getLast? with
  | some e => e.level
  | none => .space

/-- The start sample (R14). -/
def Circuit.startSample (c : Circuit) : Signal := c.sampleAt (c.halfUnits 1)

/-- The stop sample (R14). -/
def Circuit.stopSample (c : Circuit) : Signal := c.sampleAt (c.halfUnits 13)

/-- What the sample of a data unit adds: 1, 2, 4, 8, 16 for a mark in units 1 to 5, counted here from 0
(R14). -/
def Circuit.unitWorth (c : Circuit) (i : Nat) : Nat :=
  if c.sampleAt (c.halfUnits (2 * i + 3)) = .mark then 2 ^ i else 0

/-- The code of the data samples (R14). -/
def Circuit.codeSampled (c : Circuit) : Code :=
  BitVec.ofNat 5 (c.unitWorth 0 + c.unitWorth 1 + c.unitWorth 2 + c.unitWorth 3 + c.unitWorth 4)

/-- A character is being received, and its start sample reads a level (R14). -/
def Circuit.samples (c : Circuit) (start : Signal) : Bool :=
  c.receives && decide (c.rxPhase = .inCharacter) && decide (c.startSample = start)

/-- A start sample that reads mark (R14). -/
def falseStart (c : Fin 16) (s : State) : State :=
  if (s.circuit c).samples .mark then
    s.modCircuit c (fun x => { x with rxPhase := .hunting, edges := [] })
  else s

/-- LINE_FALSE_START (R14). -/
def execLineFalseStart (c : Fin 16) (s : State) : Host.Outcome State Fault Refusal :=
  .next (falseStart c s)

/-- An edge accepted while its character is being received: after the edges before it, and no later than
the stop sample (R13, R17). -/
def Circuit.edgeDue (c : Circuit) (level : Signal) (ticks held : Nat) : Bool :=
  c.receives && decide (c.rxPhase = .inCharacter) && c.accepts level held
  && c.edges.all (fun e => decide (e.ticks < ticks))
  && decide (ticks + c.config.filterWidth ≤ c.halfUnits 13)

/-- An edge of a character just received, dated up to its stop sample and accepted after it (R13, R17; log
31). -/
def Circuit.lateEdgeDue (c : Circuit) (level : Signal) (ticks held : Nat) : Bool :=
  c.receives && decide (c.rxPhase = .hunting) && c.afterStop && c.accepts level held
  && decide (ticks ≤ c.halfUnits 13) && decide (c.halfUnits 13 < ticks + c.config.filterWidth)

/-- An edge recorded among the edges of its character. -/
def Circuit.recordEdge (c : Circuit) (level : Signal) (ticks : Nat) : Circuit :=
  { c.withInput level with edges := c.edges ++ [⟨level, ticks⟩] }

/-- An edge accepted after the stop sample acts as an edge outside a character (R14, R15; log 31). -/
def Circuit.lateEdge (c : Circuit) (level : Signal) : Circuit :=
  match level with
  | .space => c.spaceEdge
  | .mark => c.markEdge

/-- An edge taken and judged for a slip; SLIP is raised when the slip flag goes from clear to set
(R17). -/
def judgedEdge (c : Fin 16) (ticks : Nat) (f : Circuit → Circuit) (s : State) : State :=
  let slip := judgeEdge (s.circuit c).config.n ticks
  (s.modCircuit c (fun x => (f x).slipped slip)).raiseIf
    (decide (slip ≠ .none) && !(s.circuit c).slipFlag) .slip

/-- An accepted edge dated inside a character (R17). -/
def edgeInside (c : Fin 16) (level : Signal) (ticks held : Nat) (s : State) : State :=
  if (s.circuit c).edgeDue level ticks held then
    judgedEdge c ticks (fun x => x.recordEdge level ticks) s
  else if (s.circuit c).lateEdgeDue level ticks held then
    judgedEdge c ticks (fun x => x.lateEdge level) s
  else s

/-- EDGE_INSIDE_CHARACTER (R17). -/
def execEdgeInsideCharacter (c : Fin 16) (level : Signal) (ticks held : Nat) (s : State) :
    Host.Outcome State Fault Refusal :=
  .next (edgeInside c level ticks held s)

/-- An office character handed to the circuit's framer, if there is one (R30, R57). -/
def handToFramer (c : Fin 16) (ch : Option Office) (s : State) : State :=
  match ch with
  | some o => takeChar (.circuit c) o s
  | none => s

/-- The answerback request handed to the circuit's outlet (R30, R135). -/
def requestAnswerback (c : Fin 16) (e : RxEntry) (s : State) : State :=
  if e = .answerback then s.modOutlet (lineOutlet c) (fun x => { x with answerbackOwed := true })
  else s

/-- A circuit record whose stop sample has been taken: HUNTING (R14). -/
def Circuit.charOver (c : Circuit) : Circuit :=
  { c with rxPhase := .hunting, edges := [], afterStop := true }

/-- The circuit record after a good stop sample (R14). -/
def Circuit.gotCharacter (c : Circuit) : Circuit :=
  { c.charOver with counts := { c.counts with received := inc c.counts.received } }

/-- A good character: looked up in the circuit's page, handed on, the plane moved after (R14, R30,
R31). -/
def goodCode (c : Fin 16) (code : Code) (s : State) : State :=
  let x := s.circuit c
  let pg := s.page x.config.page
  let e := pg.receive x.rxPlane code
  let s := s.modCircuit c (fun y => y.gotCharacter)
  let s := handToFramer c (handedOn pg e) s
  let s := requestAnswerback c e s
  s.modCircuit c (fun y => { y with rxPlane := planeAfter x.config y.rxPlane e })

/-- The circuit record after a stop sample that reads space: a framing error, or for code 0 the possible
beginning of a far break (R15). -/
def Circuit.gotSpace (c : Circuit) (code : Code) : Circuit :=
  if code = 0#5 then { c.charOver with allSpace := true }
  else { c.charOver with counts := { c.counts with framingErrors := inc c.counts.framingErrors } }

/-- A stop sample that reads space: codes 1 to 31 hand on the page's substitute (R15, R32). -/
def badStop (c : Fin 16) (code : Code) (s : State) : State :=
  let pg := s.page (s.circuit c).config.page
  handToFramer c (if code = 0#5 then none else some pg.substitute)
    (s.modCircuit c (fun x => x.gotSpace code))

/-- A character's stop sample falls due with a code and a stop level: the start sample read space, and
the samples read that code and that level (R13, R14; log 2). -/
def Circuit.stopDue (c : Circuit) (code : Code) (stop : Signal) : Bool :=
  c.samples .space && decide (c.codeSampled = code) && decide (c.stopSample = stop)

/-- The stop sample of a character (R14, R15). -/
def stopSample (c : Fin 16) (code : Code) (stop : Signal) (s : State) : State :=
  if (s.circuit c).stopDue code stop then
    settle (match stop with
      | .mark => goodCode c code s
      | .space => badStop c code s)
  else s

/-- CHARACTER_RECEIVED (R14). -/
def execCharacterReceived (c : Fin 16) (code : Code) (stop : Signal) (s : State) :
    Host.Outcome State Fault Refusal :=
  .next (stopSample c code stop s)

/-! ## Far breaks, loss, restore -/

/-- Space reaches 16 units on a receiving circuit in HUNTING (R16). -/
def Circuit.breakDue (c : Circuit) : Bool :=
  c.receives && decide (c.rxPhase = .hunting) && decide (c.reads = .space)

/-- A far break begun (R16). -/
def Circuit.breakBegun (c : Circuit) : Circuit :=
  { c with
    rxPhase := .farBreak
    lossTimer := some 0
    allSpace := false
    afterStop := false
    counts := { c.counts with farBreaks := inc c.counts.farBreaks } }

/-- A far break begins (R16). -/
def farBreakBegins (c : Fin 16) (s : State) : State :=
  if (s.circuit c).breakDue then settle (s.modCircuit c (fun x => x.breakBegun)) else s

/-- FAR_BREAK_BEGINS (R16). -/
def execFarBreakBegins (c : Fin 16) (s : State) : Host.Outcome State Fault Refusal :=
  .next (farBreakBegins c s)

/-- A timer has reached a limit (log 5). -/
def expired (timer : Option Nat) (limit : Nat) : Bool := timer.any (fun e => decide (limit ≤ e))

/-- The loss timer of an OPEN circuit is due (R5). -/
def Circuit.lossDue (c : Circuit) : Bool :=
  decide (c.state = .opened) && expired c.lossTimer c.config.lossTime

/-- An OPEN circuit becomes LOST (R3, R5). -/
def loseCircuit (c : Fin 16) (s : State) : State :=
  if (s.circuit c).lossDue then
    settle ((leaveService c (s.modCircuit c (fun x => x.toLost))).raise .circuitLost)
  else s

/-- CIRCUIT_LOST (R5). -/
def execCircuitLost (c : Fin 16) (s : State) : Host.Outcome State Fault Refusal :=
  .next (loseCircuit c s)

/-- The restore timer of a LOST circuit is due (R6). -/
def Circuit.restoreDue (c : Circuit) : Bool :=
  decide (c.state = .lost) && expired c.restoreTimer c.config.restoreTime

/-- A LOST circuit returns to OPEN (R6, R115). -/
def restoreCircuit (c : Fin 16) (s : State) : State :=
  if (s.circuit c).restoreDue then
    settle (((s.modCircuit c (fun x => x.restored)).modOutlet (lineOutlet c)
      (fun x => x.lineOn)).raise .circuitRestored)
  else s

/-- CIRCUIT_RESTORED (R6). -/
def execCircuitRestored (c : Fin 16) (s : State) : Host.Outcome State Fault Refusal :=
  .next (restoreCircuit c s)

/-! ## Surveys -/

/-- A pulse closed by an edge to a level: the level before it was the other (R21). -/
def SurveyRecord.pulse (r : SurveyRecord) (level : Signal) (ticks : Nat) : SurveyRecord :=
  match level with
  | .space => { r with shortestMark := min r.shortestMark (min ticks 65535) }
  | .mark => { r with shortestSpace := min r.shortestSpace (min ticks 65535) }

/-- An accepted edge of a survey: counted, and from the second on it closes a pulse (R21). -/
def SurveyRecord.edge (r : SurveyRecord) (level : Signal) (ticks : Nat) : SurveyRecord :=
  let d := if r.edges = 0 then r else r.pulse level ticks
  { d with edges := inc r.edges }

/-- An edge during a survey (R21). -/
def surveyEdge (c : Fin 16) (level : Signal) (pulse held : Nat) (s : State) : State :=
  let x := s.circuit c
  if x.survey && x.accepts level held && decide (0 < pulse) then
    s.modCircuit c (fun y => { y.withInput level with surveyRec := y.surveyRec.edge level pulse })
  else s

/-- SURVEY_EDGE (R21). -/
def execSurveyEdge (c : Fin 16) (level : Signal) (pulse held : Nat) (s : State) :
    Host.Outcome State Fault Refusal :=
  .next (surveyEdge c level pulse held s)

/-- A timed survey gate is due (R22). -/
def Circuit.gateDue (c : Circuit) : Bool :=
  c.survey && c.surveyRec.gate.seconds.any (fun g => decide (g ≤ c.surveyRec.elapsed))

/-- A timed gate expires (R22). -/
def gateExpires (c : Fin 16) (s : State) : State :=
  if (s.circuit c).gateDue then settle (finishSurvey c s) else s

/-- SURVEY_GATE_EXPIRY (R22). -/
def execSurveyGateExpiry (c : Fin 16) (s : State) : Host.Outcome State Fault Refusal :=
  .next (gateExpires c s)

/-! ## Sending -/

/-- The circuit record at the end of a character sent (R18). -/
def Circuit.sentOne (c : Circuit) : Circuit :=
  { c with sending := none, counts := { c.counts with sent := inc c.counts.sent } }

/-- The stop element of the character on the line completes (R18). -/
def characterSent (c : Fin 16) (s : State) : State :=
  if (s.circuit c).sending.isSome then settle (s.modCircuit c (fun x => x.sentOne)) else s

/-- CHARACTER_SENT (R18). -/
def execCharacterSent (c : Fin 16) (s : State) : Host.Outcome State Fault Refusal :=
  .next (characterSent c s)

/-- An owed fill can be taken: the circuit OPEN, its outlet IDLE, the send side idle and no break
holding it (R18, R148, R150). -/
def State.fillDue (s : State) (c : Fin 16) : Bool :=
  decide ((s.circuit c).state = .opened) && (s.control c).fillOwed
  && decide ((s.outlet (lineOutlet c)).state = .idle) && (s.circuit c).sending.isNone
  && !(s.control c).breaking

/-- The fill LTRS taken: the mark cleared and the outlet's shift owed (R35, R150). -/
def takeFill (c : Fin 16) (s : State) : State :=
  ((s.modCircuit c (fun x => { x with sending := some (x.startChar 31#5 .fill) })).modControl c
    (fun x => { x with fillOwed := false })).modOutlet (lineOutlet c)
    (fun x => { x with shiftOwed := true })

/-- Time fill (R150). -/
def timeFill (c : Fin 16) (s : State) : State := if s.fillDue c then takeFill c s else s

/-- TIME_FILL (R150). -/
def execTimeFill (c : Fin 16) (s : State) : Host.Outcome State Fault Refusal := .next (timeFill c s)

end Sys2Proof.Machine
end

