-- ==== Sys2Proof/Machine/Requests.lean ====
section
/-! DEFINITION. Desk requests: their form (R155), their judging and replies (R156, R157), and each
request (R158 to R162). -/

namespace Sys2Proof.Machine

/-! ## Form -/

/-- A well-formed request (R155). -/
inductive Request
  | statusNumber (n : Nat)
  | statusSlug (slug : List Office)
  | list
  | hold (n : Nat)
  | release (n : Nat)
  | kill (n : Nat)
  | priority (n : Nat) (p : Priority)
  | join (n : Nat)
  | leave (n : Nat)
  deriving DecidableEq, Repr

/-- A run of 1 to 4 digits (R155). -/
def isNumberArg (f : List Office) : Bool :=
  decide (1 ≤ f.length ∧ f.length ≤ 4) && f.all isDigit

/-- A story number argument: 1 to 4 digits, 1 to 9999 (R155). -/
def numberArg (f : List Office) : Option Nat :=
  if isNumberArg f ∧ digitsValue f ≠ 0 then some (digitsValue f) else none

/-- The argument of an S request: a number if it is 1 to 4 digits, a slug otherwise (R155). -/
def statusArg (f : List Office) : Option Request :=
  if isNumberArg f then (numberArg f).map .statusNumber
  else if 1 ≤ f.length ∧ f.length ≤ 20 then some (.statusSlug f) else none

/-- A request by its letter and its arguments (R155). -/
def requestOf (letter : Office) (args : List (List Office)) : Option Request :=
  match args with
  | [] => if letter = office 'L' then some .list else none
  | [a] =>
    if letter = office 'S' then statusArg a
    else if letter = office 'H' then (numberArg a).map .hold
    else if letter = office 'G' then (numberArg a).map .release
    else if letter = office 'K' then (numberArg a).map .kill
    else if letter = office 'J' then (numberArg a).map .join
    else if letter = office 'X' then (numberArg a).map .leave
    else none
  | [a, b] =>
    match numberArg a, b with
    | some n, [l] =>
      if letter = office 'P' then (priorityOfLetter l).map (.priority n) else none
    | _, _ => none
  | _ => none

/-- The arguments after the request letter: each preceded by exactly one space (R155). -/
def argumentsOf : List Office → Option (List (List Office))
  | [] => some []
  | sp :: rest =>
    let fs := fields rest
    if sp = space ∧ fs.all (fun f => f ≠ [] ∧ f.all isFieldChar) then some fs else none

/-- A request line judged for form: none is NO FORM (R155). -/
def parseRequest (p : Parser) : Option Request :=
  if p.overflow then none
  else
    match p.buffer with
    | _ :: letter :: rest => (argumentsOf rest).bind (requestOf letter)
    | _ => none

/-! ## Replies -/

/-- A refusal of a desk request (R155, R156). -/
inductive Refused
  | form
  | auth
  | story
  | source
  | state
  | route
  deriving DecidableEq, Repr

/-- A refusal's reply line (R155, R156). -/
def Refused.line : Refused → List Office
  | .form => text ['N', 'O', ' ', 'F', 'O', 'R', 'M']
  | .auth => text ['N', 'O', ' ', 'A', 'U', 'T', 'H']
  | .story => text ['N', 'O', ' ', 'S', 'T', 'O', 'R', 'Y']
  | .source => text ['N', 'O', ' ', 'S', 'O', 'U', 'R', 'C', 'E']
  | .state => text ['N', 'O', ' ', 'S', 'T', 'A', 'T', 'E']
  | .route => text ['N', 'O', ' ', 'R', 'O', 'U', 'T', 'E']

/-- "OK nnnn" (R156). -/
def okLine (n : Nat) : List Office := text ['O', 'K', ' '] ++ fourDigits n

/-- A story state's word in a STATUS reply (R158). -/
def StoryState.replyWord : StoryState → List Office
  | .free => text ['F', 'R', 'E', 'E']
  | .header => text ['H', 'E', 'A', 'D', 'E', 'R']
  | .running => text ['R', 'U', 'N', 'N', 'I', 'N', 'G']
  | .held => text ['H', 'E', 'L', 'D']
  | .closing => text ['C', 'L', 'O', 'S', 'I', 'N', 'G']
  | .closed => text ['C', 'L', 'O', 'S', 'E', 'D']

/-- A field of a reply, "-" where it is absent (R158). -/
def orDash (f : Option (List Office)) : List Office := f.getD [45#7]

/-- "STATUS nnnn p dd slug state taken lines" (R158). -/
def statusLine (st : Story) : List Office :=
  text ['S', 'T', 'A', 'T', 'U', 'S', ' '] ++ fourDigits st.number ++ [space]
    ++ orDash (st.priority.map (fun p => [p.letter])) ++ [space]
    ++ orDash (st.desk.map DeskCode.letters) ++ [space] ++ orDash st.slug ++ [space]
    ++ st.state.replyWord ++ [space] ++ decimal st.taken ++ [space] ++ decimal st.lines

/-- The numbers of the first 8 stories with a live entry on an outlet, in open order (R159). -/
def State.listed (s : State) (o : Fin 24) : List Nat :=
  ((s.openOrder.filter (fun k => (s.story k).liveOn o)).take 8).map (fun k => (s.story k).number)

/-- "LIST" with the numbers, or "LIST NONE" (R159). -/
def listLine : List Nat → List Office
  | [] => text ['L', 'I', 'S', 'T', ' ', 'N', 'O', 'N', 'E']
  | ns => text ['L', 'I', 'S', 'T'] ++ ns.flatMap (fun n => space :: fourDigits n)

/-! ## Judging -/

/-- An authority's rank: VIEW 0, CHIEF 2 (R44). -/
def Authority.rank : Authority → Nat
  | .view => 0
  | .desk => 1
  | .chief => 2

/-- A judgement: refused, or a reply line with the state it leaves and whether a record was changed. -/
abbrev Judgement := Except Refused (List Office × Bool × State)

/-- Check 1: the terminal's authority (R156). -/
def needs (least : Authority) (t : Fin 8) (s : State) (j : Judgement) : Judgement :=
  if least.rank ≤ (s.port t).config.authority.rank then j else .error .auth

/-- Check 2: the story named by number (R156, R96). -/
def onNumber (n : Nat) (s : State) (j : Fin 48 → Judgement) : Judgement :=
  match s.findNumber n with
  | some k => j k
  | none => .error .story

/-- A request that changed a record, answered OK (R156). -/
def accepted (k : Fin 48) (s before : State) : Judgement :=
  .ok (okLine (before.story k).number, true, s)

/-- The S request (R158). -/
def judgeStatus (found : Option (Fin 48)) (s : State) : Judgement :=
  match found with
  | some k => .ok (statusLine (s.story k), false, s)
  | none => .error .story

/-- The H request (R160). -/
def judgeHold (t : Fin 8) (k : Fin 48) (s : State) : Judgement :=
  if (s.story k).source ≠ .terminal t then .error .source
  else if (s.story k).state ≠ .running then .error .state
  else accepted k (holdStory k (.terminal t) s) s

/-- The G request (R160). -/
def judgeRelease (t : Fin 8) (k : Fin 48) (s : State) : Judgement :=
  if (s.story k).source ≠ .terminal t then .error .source
  else if (s.story k).state ≠ .held then .error .state
  else accepted k (releaseStory k s) s

/-- The K request (R161). -/
def judgeKill (t : Fin 8) (k : Fin 48) (s : State) : Judgement :=
  if (s.port t).config.authority ≠ .chief ∧ (s.story k).source ≠ .terminal t then .error .source
  else if (s.story k).state = .closed then .error .state
  else accepted k (killStory k (some t) s) s

/-- The P request; a priority equal to the one in force changes no record (R156, R161). -/
def judgePriority (k : Fin 48) (p : Priority) (s : State) : Judgement :=
  if (s.story k).state.hasPriority = false then .error .state
  else .ok (okLine (s.story k).number, decide ((s.story k).priority ≠ some p), setPriority k p s)

/-- The J request (R162). -/
def judgeJoin (t : Fin 8) (k : Fin 48) (s : State) : Judgement :=
  let o := terminalOutlet t
  if (s.story k).state.joinable = false then .error .state
  else if ((s.story k).entryOn o).isSome then .error .route
  else if s.available o = false then .error .route
  else accepted k (addOutlet k o s) s

/-- The X request (R162). -/
def judgeLeave (t : Fin 8) (k : Fin 48) (s : State) : Judgement :=
  let o := terminalOutlet t
  if (s.story k).state = .header ∨ (s.story k).state = .closed then .error .state
  else if ((s.story k).entryOn o).isNone then .error .route
  else if (s.story k).liveOn o = false then .error .state
  else accepted k (cutEntry k o .removed s) s

/-- A well-formed request judged (R156 to R162). -/
def judge (t : Fin 8) (r : Request) (s : State) : Judgement :=
  match r with
  | .statusNumber n => needs .view t s (judgeStatus (s.findNumber n) s)
  | .statusSlug cs => needs .view t s (judgeStatus (s.findSlug cs) s)
  | .list => needs .view t s (.ok (listLine (s.listed (terminalOutlet t)), false, s))
  | .hold n => needs .desk t s (onNumber n s (fun k => judgeHold t k s))
  | .release n => needs .desk t s (onNumber n s (fun k => judgeRelease t k s))
  | .kill n => needs .desk t s (onNumber n s (fun k => judgeKill t k s))
  | .priority n p => needs .chief t s (onNumber n s (fun k => judgePriority k p s))
  | .join n => needs .desk t s (onNumber n s (fun k => judgeJoin t k s))
  | .leave n => needs .view t s (onNumber n s (fun k => judgeLeave t k s))

/-- A judgement carried out: the reply offered to the terminal's slot, DESK_REQUEST raised when a record
was changed (R156). -/
def carryOut (t : Fin 8) (j : Judgement) (s : State) : State :=
  match j with
  | .error e => s.offerReply t e.line
  | .ok (line, changed, s1) => (s1.offerReply t line).raiseIf changed .deskRequest

/-- A request judged, its form first (R155, R156). -/
def judgeRequest (t : Fin 8) (s : State) : State :=
  match parseRequest (s.parser t) with
  | none => s.offerReply t Refused.form.line
  | some r => carryOut t (judge t r s) s

/-- A complete request: discarded unread while the reply slot is occupied, judged otherwise; the buffer
is emptied (R154, R157). -/
def completeRequest (t : Fin 8) (s : State) : State :=
  let s := if (s.port t).replySlot.isSome then
      s.modPortCounts t (fun n => { n with requestBusy := inc n.requestBusy })
    else judgeRequest t s
  s.modParser t (fun _ => {})

/-- A character stored in a request buffer (R154). -/
def Parser.store (p : Parser) (ch : Office) : Parser :=
  if p.buffer.length < 32 then { p with buffer := p.buffer ++ [ch] } else { p with overflow := true }

/-- The request lead begins a request (R50, R154). -/
def Parser.begin (p : Parser) : Parser := { p with buffer := [lead], overflow := false }

end Sys2Proof.Machine
end

