-- ==== Sys2Proof/Machine/TerminalEvents.lean ====
section
/-! DEFINITION. What happens at a terminal port: edges, characters and their sorting (R48 to R52), ready
in (R53, R117), the framer's taking (R57), the stall (R138), and the completion of each desk request. An
event that is not due in the state it meets changes nothing (log 1). -/

namespace Sys2Proof.Machine

/-! ## Edges -/

/-- A mark-to-space edge on a receive input: in HUNTING a character begins, and elsewhere the input alone
moves (R48). -/
def Port.startEdge (p : Port) : Port :=
  if p.rxMark then
    { p with
      rxMark := false
      rxPhase := if p.enabled ∧ p.rxPhase = .hunting then .inCharacter else p.rxPhase }
  else p

/-- TERMINAL_START_EDGE (R48). -/
def execTerminalStartEdge (t : Fin 8) (s : State) : Host.Outcome State Fault Refusal :=
  .next (s.modPort t (fun p => p.startEdge))

/-- A start sample that reads mark (R48). -/
def Port.falseStart (p : Port) : Port :=
  if p.enabled ∧ p.rxPhase = .inCharacter then { p with rxMark := true, rxPhase := .hunting } else p

/-- TERMINAL_FALSE_START (R48). -/
def execTerminalFalseStart (t : Fin 8) (s : State) : Host.Outcome State Fault Refusal :=
  .next (s.modPort t (fun p => p.falseStart))

/-- A space-to-mark edge: the input reads mark, and in WAIT_MARK the receiver hunts again (R48). Inside
a character the input alone moves (R46, R55). -/
def Port.markReturn (p : Port) : Port :=
  { p with
    rxMark := true
    rxPhase := if p.enabled ∧ p.rxPhase = .waitMark then .hunting else p.rxPhase }

/-- TERMINAL_MARK_RETURN (R48). -/
def execTerminalMarkReturn (t : Fin 8) (s : State) : Host.Outcome State Fault Refusal :=
  .next (s.modPort t (fun p => p.markReturn))

/-! ## Characters and their sorting -/

/-- A control the port drops: 0 to 31 and 127 but CR, LF, BEL and the request lead (R50). -/
def dropped (ch : Office) : Bool :=
  !isPrintable ch && !isLineEnd ch && decide (ch ≠ bel ∧ ch ≠ lead)

/-- A character offered to the input queue (R51). -/
def offerQueue (t : Fin 8) (ch : Office) (s : State) : State :=
  if (s.port t).queue.length < 16 then s.modPort t (fun p => p.withQueue (p.queue ++ [ch]))
  else
    (s.modPortCounts t (fun n => { n with overruns := inc n.overruns })).raise .terminalOverrun

/-- A character in request mode handed to the parser; CR ends the request (R50, R154). -/
def toParser (t : Fin 8) (ch : Office) (s : State) : State :=
  if ch = cr then
    completeRequest t (s.modPort t (fun p => { p with requestMode := false, afterRequest := true }))
  else s.modParser t (fun p => p.store ch)

/-- A request begun (R50). -/
def beginRequest (t : Fin 8) (s : State) : State :=
  (s.modPort t (fun p => { p with requestMode := true })).modParser t (fun p => p.begin)

/-- Steps 3 to 5 of sorting (R50). -/
def sortRest (t : Fin 8) (ch : Office) (s : State) : State :=
  if (s.port t).requestMode then toParser t ch s
  else if ch = lead then beginRequest t s
  else offerQueue t ch s

/-- A delivered character sorted (R50). -/
def sortChar (t : Fin 8) (ch : Office) (s : State) : State :=
  if dropped ch then s.modPortCounts t (fun n => { n with dropped := inc n.dropped })
  else if (s.port t).afterRequest then
    let s := s.modPort t (fun p => { p with afterRequest := false })
    if ch = lf then s else sortRest t ch s
  else sortRest t ch s

/-- A port's record at the stop sample (R48). -/
def Port.atStop (p : Port) (stop : Signal) : Port :=
  match stop with
  | .mark => { p with rxMark := true, rxPhase := .hunting }
  | .space => { p with rxMark := false, rxPhase := .waitMark }

/-- The counts of a character, by its stop sample and its parity (R48, R49). -/
def PortCounts.judged (n : PortCounts) (stop : Signal) (bad : Bool) : PortCounts :=
  match stop, bad with
  | .space, _ => { n with framingErrors := inc n.framingErrors }
  | .mark, true => { n with received := inc n.received, parityErrors := inc n.parityErrors }
  | .mark, false => { n with received := inc n.received }

/-- The character sorted: the one received, or the terminal substitute for a faulty one (R49). -/
def charDelivered (data : Office) (stop : Signal) (bad : Bool) : Office :=
  match stop, bad with
  | .mark, false => data
  | .mark, true | .space, _ => query

/-- A port is receiving a character. -/
def Port.inChar (p : Port) : Bool := p.enabled && decide (p.rxPhase = .inCharacter)

/-- The stop sample of a character on a terminal (R48 to R50). -/
def terminalStop (t : Fin 8) (data : Office) (bit : Bool) (stop : Signal) (s : State) : State :=
  if (s.port t).inChar then
    let bad := parityError (s.port t).config.parity data bit
    let s := (s.modPort t (fun p => p.atStop stop)).modPortCounts t (fun n => n.judged stop bad)
    settle (sortChar t (charDelivered data stop bad) s)
  else s

/-- TERMINAL_CHARACTER_RECEIVED (R48). -/
def execTerminalCharacterReceived (t : Fin 8) (data : Office) (bit : Bool) (stop : Signal)
    (s : State) : Host.Outcome State Fault Refusal :=
  .next (terminalStop t data bit stop s)

/-! ## Requests -/

/-- A good CR on a terminal, its parity bit as the parity asks. -/
def goodCR (t : Fin 8) (s : State) : State :=
  terminalStop t cr (parityError (s.port t).config.parity cr false) .mark s

/-- The request a good CR would complete now: absent when none is being collected, `some none` when it
is not well formed (R50, R155). -/
def State.completing (s : State) (t : Fin 8) : Option (Option Request) :=
  if (s.port t).inChar ∧ (s.port t).requestMode then some (parseRequest (s.parser t)) else none

/-- A good CR completes a request that satisfies a test, into an empty reply slot (log 7). -/
def completeIf (t : Fin 8) (test : Option Request → Bool) (s : State) : State :=
  if (s.completing t).any test ∧ (s.port t).replySlot = none then goodCR t s else s

/-- An S request. -/
def isStatus : Option Request → Bool
  | some (.statusNumber _) | some (.statusSlug _) => true
  | _ => false

/-- An L request. -/
def isList : Option Request → Bool
  | some .list => true
  | _ => false

/-- An H request. -/
def isHold : Option Request → Bool
  | some (.hold _) => true
  | _ => false

/-- A G request. -/
def isRelease : Option Request → Bool
  | some (.release _) => true
  | _ => false

/-- A K request. -/
def isKill : Option Request → Bool
  | some (.kill _) => true
  | _ => false

/-- A P request. -/
def isPriority : Option Request → Bool
  | some (.priority _ _) => true
  | _ => false

/-- A J request. -/
def isJoin : Option Request → Bool
  | some (.join _) => true
  | _ => false

/-- An X request. -/
def isLeave : Option Request → Bool
  | some (.leave _) => true
  | _ => false

/-- S_REQUEST (R158). -/
def execSRequest (t : Fin 8) (s : State) : Host.Outcome State Fault Refusal :=
  .next (completeIf t isStatus s)

/-- L_REQUEST (R159). -/
def execLRequest (t : Fin 8) (s : State) : Host.Outcome State Fault Refusal :=
  .next (completeIf t isList s)

/-- H_REQUEST (R160). -/
def execHRequest (t : Fin 8) (s : State) : Host.Outcome State Fault Refusal :=
  .next (completeIf t isHold s)

/-- G_REQUEST (R160). -/
def execGRequest (t : Fin 8) (s : State) : Host.Outcome State Fault Refusal :=
  .next (completeIf t isRelease s)

/-- K_REQUEST (R161). -/
def execKRequest (t : Fin 8) (s : State) : Host.Outcome State Fault Refusal :=
  .next (completeIf t isKill s)

/-- P_REQUEST (R161). -/
def execPRequest (t : Fin 8) (s : State) : Host.Outcome State Fault Refusal :=
  .next (completeIf t isPriority s)

/-- J_REQUEST (R162). -/
def execJRequest (t : Fin 8) (s : State) : Host.Outcome State Fault Refusal :=
  .next (completeIf t isJoin s)

/-- X_REQUEST (R162). -/
def execXRequest (t : Fin 8) (s : State) : Host.Outcome State Fault Refusal :=
  .next (completeIf t isLeave s)

/-- NO_FORM (R155). -/
def execNoForm (t : Fin 8) (s : State) : Host.Outcome State Fault Refusal :=
  .next (completeIf t Option.isNone s)

/-- A good CR meets an occupied reply slot (R157). -/
def requestBusy (t : Fin 8) (s : State) : State :=
  if (s.completing t).isSome ∧ (s.port t).replySlot ≠ none then goodCR t s else s

/-- REQUEST_BUSY (R157). -/
def execRequestBusy (t : Fin 8) (s : State) : Host.Outcome State Fault Refusal :=
  .next (requestBusy t s)

/-! ## Sending and ready in -/

/-- The port record at the end of a character sent (R53). -/
def Port.sentOne (p : Port) : Port :=
  { p with sending := none, counts := { p.counts with sent := inc p.counts.sent } }

/-- The stop bit of the character on the line completes (R53). -/
def terminalSent (t : Fin 8) (s : State) : State :=
  if (s.port t).sending.isSome then settle (s.modPort t (fun p => p.sentOne)) else s

/-- TERMINAL_CHARACTER_SENT (R53). -/
def execTerminalCharacterSent (t : Fin 8) (s : State) : Host.Outcome State Fault Refusal :=
  .next (terminalSent t s)

/-- The ready input moved: a DISABLED port does not read it (R43; log 9). -/
def Port.withReady (p : Port) (l : Level) : Port :=
  { p with readyPin := l, readyIn := if p.enabled then l else p.readyIn }

/-- A STALLED outlet whose ready input rises becomes IDLE (R117). -/
def Outlet.unstalled (x : Outlet) : Outlet :=
  if x.state = .stalled then { x with state := .idle } else x

/-- Ready in rises (R53, R117). -/
def readyRises (t : Fin 8) (s : State) : State :=
  let s := s.modPort t (fun p => p.withReady .high)
  if (s.port t).enabled then settle (s.modOutlet (terminalOutlet t) (fun x => x.unstalled)) else s

/-- READY_IN_RISES (R117). -/
def execReadyInRises (t : Fin 8) (s : State) : Host.Outcome State Fault Refusal :=
  .next (readyRises t s)

/-- An IDLE or SENDING outlet whose ready input falls becomes PAUSED (R117). -/
def Outlet.paused (x : Outlet) : Outlet :=
  if x.state = .idle ∨ x.state = .sending then { x with state := .paused } else x

/-- Ready in falls (R53, R117). -/
def readyFalls (t : Fin 8) (s : State) : State :=
  let s := s.modPort t (fun p => p.withReady .low)
  if (s.port t).enabled then settle (s.modOutlet (terminalOutlet t) (fun x => x.paused)) else s

/-- READY_IN_FALLS (R117). -/
def execReadyInFalls (t : Fin 8) (s : State) : Host.Outcome State Fault Refusal :=
  .next (readyFalls t s)

/-- The framer takes the head of the queue (R57). -/
def framerTake (t : Fin 8) (s : State) : State := settle (takeHead t s)

/-- FRAMER_TAKE (R57). -/
def execFramerTake (t : Fin 8) (s : State) : Host.Outcome State Fault Refusal :=
  .next (framerTake t s)

/-! ## The stall -/

/-- A terminal outlet's stall timer is due (R137). -/
def State.stallDue (s : State) (t : Fin 8) : Bool :=
  let x := s.outlet (terminalOutlet t)
  decide (x.state = .paused)
  && x.stallTimer.any (fun e => decide ((s.port t).config.stallTime ≤ e))

/-- An outlet record STALLED (R138). -/
def Outlet.toStalled (x : Outlet) : Outlet :=
  { x.toOff with state := .stalled, stalls := inc x.stalls }

/-- A port whose outlet stalls: the reply slot emptied, the character on the line abandoned by its unit
(R138; log 20). -/
def Port.stalled (p : Port) : Port :=
  { p with replySlot := none, sending := p.sending.map (fun x => { x with orphan := true }) }

/-- A terminal outlet stalls (R138). -/
def stallOutlet (t : Fin 8) (s : State) : State :=
  let o := terminalOutlet t
  let s := cutOutlet o .stall s
  ((s.modOutlet o (fun x => x.toStalled)).modPort t (fun p => p.stalled)).raise .destCut

/-- The stall timer expires (R138). -/
def stallExpires (t : Fin 8) (s : State) : State :=
  if s.stallDue t then settle (stallOutlet t s) else s

/-- STALL (R138). -/
def execStall (t : Fin 8) (s : State) : Host.Outcome State Fault Refusal := .next (stallExpires t s)

end Sys2Proof.Machine
end

