-- ==== Sys2Proof/Machine/TimeEvents.lean ====
section
/-! DEFINITION. What time brings: the second, the expiry of a story's timers, the character times of a
circuit (R86, R88, R141, R142, R146, R176; log 5, log 6). -/

namespace Sys2Proof.Machine

/-! ## The second -/

/-- A running timer one second on. -/
def tick (timer : Option Nat) : Option Nat := timer.map (· + 1)

/-- A survey's elapsed time one second on: up to the gate, or saturating with the open gate (R21). -/
def SurveyRecord.second (r : SurveyRecord) : SurveyRecord :=
  { r with elapsed := satInc (r.gate.seconds.getD Config.countMax) r.elapsed }

/-- A circuit's timers one second on. -/
def Circuit.second (c : Circuit) : Circuit :=
  { c with
    lossTimer := tick c.lossTimer
    restoreTimer := tick c.restoreTimer
    surveyRec := if c.survey then c.surveyRec.second else c.surveyRec }

/-- A story's timers one second on. -/
def Story.second (st : Story) : Story :=
  { st with idleTimer := tick st.idleTimer, blockTimer := tick st.blockTimer }

/-- The story clock one second on (R176). -/
def nextSecond (n : Nat) : Nat := if n < 86399 then n + 1 else 0

/-- A second of the timebase (R176; log 5). -/
def secondPasses (s : State) : State :=
  let s := s.modRegs (fun r => { r with clock := nextSecond r.clock })
  let s := forEach allCircuits (fun c t => t.modCircuit c Circuit.second) s
  let s := forEach allSlots (fun k t => t.setStory k (t.story k).second) s
  forEach allOutlets (fun o t => t.modOutlet o (fun x => { x with stallTimer := tick x.stallTimer })) s

/-- STORY_CLOCK_ADVANCE (R176). -/
def execStoryClockAdvance (s : State) : Host.Outcome State Fault Refusal := .next (secondPasses s)

/-! ## Story timers -/

/-- A story's idle timer is due (R88). -/
def State.idleDue (s : State) (k : Fin 48) : Bool :=
  expired (s.story k).idleTimer (s.idleLimit (s.story k).source)

/-- An idle timer expires (R69, R88). -/
def idleExpires (k : Fin 48) (s : State) : State :=
  if s.idleDue k then settle (expireIdle k s) else s

/-- IDLE_EXPIRY (R88). -/
def execIdleExpiry (k : Fin 48) (s : State) : Host.Outcome State Fault Refusal :=
  .next (idleExpires k s)

/-- A story's block timer is due (R86). -/
def State.blockDue (s : State) (k : Fin 48) : Bool :=
  expired (s.story k).blockTimer s.regs.blockLimit

/-- A block timer expires (R86). -/
def blockExpires (k : Fin 48) (s : State) : State :=
  if s.blockDue k then settle (expireBlock k s) else s

/-- BLOCK_LIMIT_EXPIRY (R86). -/
def execBlockLimitExpiry (k : Fin 48) (s : State) : Host.Outcome State Fault Refusal :=
  .next (blockExpires k s)

/-! ## Character times -/

/-- The outlet of a circuit is OFF. -/
def State.outletOffOf (s : State) (c : Fin 16) : Bool :=
  decide ((s.outlet (lineOutlet c)).state = .off)

/-- A character time of the motor sequencer (R141, R142). -/
def motorTime (c : Fin 16) (s : State) : State := s.modControl c (fun x => x.motorTick)

/-- A character time of the control counter (R146). -/
def counterTime (c : Fin 16) (s : State) : State :=
  let off := s.outletOffOf c
  s.modControl c (fun x => x.countTick off)

/-- Whose character time it is counts it (log 6). -/
def characterTime (c : Fin 16) (which : Counted) (s : State) : State :=
  settle (match which with
    | .motor => motorTime c s
    | .counter => counterTime c s
    | .both => counterTime c (motorTime c s))

/-- CHARACTER_TIME_COMPLETED (R141, R142, R146). -/
def execCharacterTimeCompleted (c : Fin 16) (which : Counted) (s : State) :
    Host.Outcome State Fault Refusal :=
  .next (characterTime c which s)

/-- The next character time of the sequencer completes its count in a state (R141, R142). -/
def Control.motorDue (x : Control) (m : MotorState) : Bool :=
  decide (x.motor = m) && decide (x.motorTarget ≤ x.motorCount + 1)

/-- A character time of the sequencer that completes its count in a state. -/
def motorCompletes (m : MotorState) (c : Fin 16) (s : State) : State :=
  if (s.control c).motorDue m then characterTime c .motor s else s

/-- MOTOR_LEAD_COMPLETE (R141). -/
def execMotorLeadComplete (c : Fin 16) (s : State) : Host.Outcome State Fault Refusal :=
  .next (motorCompletes .starting c s)

/-- RUN_ON_COMPLETE (R142). -/
def execRunOnComplete (c : Fin 16) (s : State) : Host.Outcome State Fault Refusal :=
  .next (motorCompletes .runOn c s)

/-- The next character time of the counter completes its delay (R146). -/
def Control.delayDue (x : Control) : Bool :=
  decide (x.phase = .delay) && decide (x.settings.delay ≤ x.value + 1)

/-- The next character time of the counter completes its count (R146). -/
def Control.countDue (x : Control) : Bool :=
  decide (x.phase = .counting) && decide (x.settings.max ≤ x.value + 1)

/-- The next character time of the counter reaches a toggle position in effect (R147). -/
def Control.toggleDue (x : Control) : Bool :=
  decide (x.phase = .counting) && decide (x.value + 1 ∈ x.settings.inEffect)

/-- A character time of the counter, when it is the event a row names. -/
def counterCompletes (due : Control → Bool) (c : Fin 16) (s : State) : State :=
  if due (s.control c) then characterTime c .counter s else s

/-- DELAY_COMPLETE (R146). -/
def execDelayComplete (c : Fin 16) (s : State) : Host.Outcome State Fault Refusal :=
  .next (counterCompletes Control.delayDue c s)

/-- COUNT_COMPLETE (R146). -/
def execCountComplete (c : Fin 16) (s : State) : Host.Outcome State Fault Refusal :=
  .next (counterCompletes Control.countDue c s)

/-- COUNTER_TOGGLE (R147). -/
def execCounterToggle (c : Fin 16) (s : State) : Host.Outcome State Fault Refusal :=
  .next (counterCompletes Control.toggleDue c s)

end Sys2Proof.Machine
end

