-- ==== Sys2Proof/Machine/Dispatch.lean ====
section
/-! DEFINITION. The meaning of each step of the part, one arm per constructor of Instr. -/

namespace Sys2Proof.Machine

def exec (i : Instr) (s : State) : Host.Outcome State Fault Refusal :=
  match i with
  | .powerOnReset => Sys2Proof.Machine.execPowerOnReset s
  | .storyFind => Sys2Proof.Machine.execStoryFind s
  | .storyKill => Sys2Proof.Machine.execStoryKill s
  | .storyHold => Sys2Proof.Machine.execStoryHold s
  | .storyRelease => Sys2Proof.Machine.execStoryRelease s
  | .storyPriority => Sys2Proof.Machine.execStoryPriority s
  | .storyAddOutlet => Sys2Proof.Machine.execStoryAddOutlet s
  | .storyDropOutlet => Sys2Proof.Machine.execStoryDropOutlet s
  | .retire => Sys2Proof.Machine.execRetire s
  | .retireClosed => Sys2Proof.Machine.execRetireClosed s
  | .nextChanged => Sys2Proof.Machine.execNextChanged s
  | .setNextNumber => Sys2Proof.Machine.execSetNextNumber s
  | .deskWrite => Sys2Proof.Machine.execDeskWrite s
  | .deskRemove => Sys2Proof.Machine.execDeskRemove s
  | .circuitSet => Sys2Proof.Machine.execCircuitSet s
  | .circuitSetSection1 => Sys2Proof.Machine.execCircuitSetSection1 s
  | .circuitSetSection2 => Sys2Proof.Machine.execCircuitSetSection2 s
  | .circuitOpen => Sys2Proof.Machine.execCircuitOpen s
  | .circuitClose => Sys2Proof.Machine.execCircuitClose s
  | .surveyStart => Sys2Proof.Machine.execSurveyStart s
  | .surveyStop => Sys2Proof.Machine.execSurveyStop s
  | .surveyCancel => Sys2Proof.Machine.execSurveyCancel s
  | .counterActionIdle => Sys2Proof.Machine.execCounterActionIdle s
  | .counterActionOnce => Sys2Proof.Machine.execCounterActionOnce s
  | .counterActionRepeat => Sys2Proof.Machine.execCounterActionRepeat s
  | .counterActionDelayedOnce => Sys2Proof.Machine.execCounterActionDelayedOnce s
  | .counterActionDelayedRepeat => Sys2Proof.Machine.execCounterActionDelayedRepeat s
  | .counterActionHold => Sys2Proof.Machine.execCounterActionHold s
  | .counterActionRelease => Sys2Proof.Machine.execCounterActionRelease s
  | .counterActionForceIdle => Sys2Proof.Machine.execCounterActionForceIdle s
  | .outputSet => Sys2Proof.Machine.execOutputSet s
  | .terminalSetEnable => Sys2Proof.Machine.execTerminalSetEnable s
  | .terminalSetReconfigure => Sys2Proof.Machine.execTerminalSetReconfigure s
  | .terminalSetDisable => Sys2Proof.Machine.execTerminalSetDisable s
  | .pageWrite => Sys2Proof.Machine.execPageWrite s
  | .clockSet => Sys2Proof.Machine.execClockSet s
  | .setBlockLimit => Sys2Proof.Machine.execSetBlockLimit s
  | .trafficReset => Sys2Proof.Machine.execTrafficReset s
  | .unknownCommand number => Sys2Proof.Machine.execUnknownCommand number s
  | .controlWrite value => Sys2Proof.Machine.execControlWrite value s
  | .noticeWrite value => Sys2Proof.Machine.execNoticeWrite value s
  | .noticeEnableWrite value => Sys2Proof.Machine.execNoticeEnableWrite value s
  | .selectWrite value => Sys2Proof.Machine.execSelectWrite value s
  | .clockHiRead => Sys2Proof.Machine.execClockHiRead s
  | .window0Read => Sys2Proof.Machine.execWindow0Read s
  | .registerWrite offset value => Sys2Proof.Machine.execRegisterWrite offset value s
  | .characterReceived c code stop => Sys2Proof.Machine.execCharacterReceived c code stop s
  | .allSpaceEnded c held => Sys2Proof.Machine.execAllSpaceEnded c held s
  | .farBreakBegins c => Sys2Proof.Machine.execFarBreakBegins c s
  | .farBreakEnds c held => Sys2Proof.Machine.execFarBreakEnds c held s
  | .lostSpaceEdge c held => Sys2Proof.Machine.execLostSpaceEdge c held s
  | .circuitLost c => Sys2Proof.Machine.execCircuitLost c s
  | .circuitRestored c => Sys2Proof.Machine.execCircuitRestored c s
  | .surveyEdge c level pulse held => Sys2Proof.Machine.execSurveyEdge c level pulse held s
  | .surveyGateExpiry c => Sys2Proof.Machine.execSurveyGateExpiry c s
  | .characterSent c => Sys2Proof.Machine.execCharacterSent c s
  | .timeFill c => Sys2Proof.Machine.execTimeFill c s
  | .terminalCharacterReceived t data parity stop => Sys2Proof.Machine.execTerminalCharacterReceived t data parity stop s
  | .terminalCharacterSent t => Sys2Proof.Machine.execTerminalCharacterSent t s
  | .readyInRises t => Sys2Proof.Machine.execReadyInRises t s
  | .readyInFalls t => Sys2Proof.Machine.execReadyInFalls t s
  | .framerTake t => Sys2Proof.Machine.execFramerTake t s
  | .idleExpiry slot => Sys2Proof.Machine.execIdleExpiry slot s
  | .blockLimitExpiry slot => Sys2Proof.Machine.execBlockLimitExpiry slot s
  | .stall t => Sys2Proof.Machine.execStall t s
  | .motorLeadComplete c => Sys2Proof.Machine.execMotorLeadComplete c s
  | .runOnComplete c => Sys2Proof.Machine.execRunOnComplete c s
  | .delayComplete c => Sys2Proof.Machine.execDelayComplete c s
  | .countComplete c => Sys2Proof.Machine.execCountComplete c s
  | .counterToggle c => Sys2Proof.Machine.execCounterToggle c s
  | .sRequest t => Sys2Proof.Machine.execSRequest t s
  | .lRequest t => Sys2Proof.Machine.execLRequest t s
  | .hRequest t => Sys2Proof.Machine.execHRequest t s
  | .gRequest t => Sys2Proof.Machine.execGRequest t s
  | .kRequest t => Sys2Proof.Machine.execKRequest t s
  | .pRequest t => Sys2Proof.Machine.execPRequest t s
  | .jRequest t => Sys2Proof.Machine.execJRequest t s
  | .xRequest t => Sys2Proof.Machine.execXRequest t s
  | .noForm t => Sys2Proof.Machine.execNoForm t s
  | .requestBusy t => Sys2Proof.Machine.execRequestBusy t s
  | .lineStartEdge c held => Sys2Proof.Machine.execLineStartEdge c held s
  | .lineFalseStart c => Sys2Proof.Machine.execLineFalseStart c s
  | .edgeInsideCharacter c level ticks held => Sys2Proof.Machine.execEdgeInsideCharacter c level ticks held s
  | .lostMarkEdge c held => Sys2Proof.Machine.execLostMarkEdge c held s
  | .terminalStartEdge t => Sys2Proof.Machine.execTerminalStartEdge t s
  | .terminalFalseStart t => Sys2Proof.Machine.execTerminalFalseStart t s
  | .terminalMarkReturn t => Sys2Proof.Machine.execTerminalMarkReturn t s
  | .storyClockAdvance => Sys2Proof.Machine.execStoryClockAdvance s
  | .characterTimeCompleted c which => Sys2Proof.Machine.execCharacterTimeCompleted c which s

end Sys2Proof.Machine
end

