-- ==== Sys2Proof/Safety.lean ====
section
/-! DEFINITION. What a well-kept state of the part satisfies: the invariants the statements of
Certificates/Slice0/Obligations.lean are about. -/

namespace Sys2Proof.Machine

/-! ## The story table and what hangs on it -/

/-- A destination entry of a story: its positions agree (R74, R122), a live entry's text still stands in
the window (R83 to R85), and a hold mark stands on a carried entry of a HELD story (R90, R91). -/
structure Entry.Ok (e : Entry) (st : Story) : Prop where
  startLe : e.start ≤ e.read
  readLe : e.read ≤ st.taken
  counted : e.start + e.delivered = e.read
  reach : e.state.live = true → st.taken ≤ e.read + Config.windowSize
  marked : e.holdMark = true → e.state = .carrying ∧ st.state = .held

/-- A story record: the window holds the last of the text (R83), the entries stand in order of outlet
(R74), and every field stands in the states R73 gives it. -/
structure Story.Ok (st : Story) : Prop where
  window : st.window.length = min st.taken Config.windowSize
  takenLe : st.taken ≤ Config.takenMax
  linesLe : st.lines ≤ st.taken
  sorted : st.entries.Pairwise (fun a b => a.outlet < b.outlet)
  entries : ∀ e ∈ st.entries, e.Ok st
  bare : st.state = .free ∨ st.state = .header → st.entries = [] ∧ st.taken = 0
  closed : st.state = .closed → st.anyLive = false
  number : st.state ≠ .free → 1 ≤ st.number ∧ st.number ≤ 9999
  holder : st.heldBy.isSome = true ↔ st.state = .held
  heldSource : st.state = .held → st.source.isTerminal = true
  idle : st.idleTimer.isSome = true ↔ st.state = .header ∨ st.state = .running
  blocked : st.blockTimer.isSome = st.blockedSince.isSome
  blocking : st.blockedSince.isSome = true → st.state = .running
  closedAt : st.closed.isSome = true ↔ st.state = .closed
  ended : st.reason.isSome = true ↔ st.state = .closing ∨ st.state = .closed

/-- An entry that stands on its outlet's waiting list (R74). -/
def EntryState.waits : EntryState → Bool
  | .waiting | .suspended _ => true
  | .carrying | .done | .cut _ => false

/-- A story has an entry on an outlet in states that satisfy a test. -/
def Story.has (st : Story) (o : Fin 24) (p : EntryState → Bool) : Bool :=
  st.entries.any (fun e => decide (e.outlet = o) && p e.state)

/-- An outlet's holder and waiting list are the entries the stories have on it (R74, R113), and its
owed items name records that are not FREE, each once (R98, R130). -/
structure State.OutletOk (s : State) (o : Fin 24) : Prop where
  once : (s.outlet o).waiting.Nodup
  waits : ∀ k, k ∈ (s.outlet o).waiting ↔ (s.story k).has o EntryState.waits = true
  holds : ∀ k, (s.outlet o).holder = some k ↔
    (s.story k).has o (fun x => decide (x = .carrying)) = true
  owes : ∀ i ∈ (s.outlet o).owed, (s.story i.slot).state ≠ .free
  owesOnce : ((s.outlet o).owed.map (·.slot)).Nodup

/-- The story table with the outlets: the open-order list is the records that are not FREE, each once
(R75), and no two of them carry one number (R76). -/
structure State.TableOk (s : State) : Prop where
  stories : ∀ k, (s.story k).Ok
  order : s.openOrder.Nodup
  ordered : ∀ k, k ∈ s.openOrder ↔ (s.story k).state ≠ .free
  numbers : ∀ j k, (s.story j).state ≠ .free → (s.story k).state ≠ .free →
    (s.story j).number = (s.story k).number → j = k
  next : 1 ≤ s.nextNumber ∧ s.nextNumber ≤ 9999
  outlets : ∀ o, s.OutletOk o

/-- The framer states and the story states that go together while the framer has the story (R61 to R69,
R90). -/
def fits : FramerState → StoryState → Bool
  | .header, .header => true
  | .inStory, .running | .inStory, .held | .closerMatch, .running | .closerMatch, .held => true
  | _, _ => false

/-- A framer's story slot names a live story of its own source, in a state that fits its own (R56,
R61). -/
def State.FramersOk (s : State) : Prop :=
  ∀ src k, (framerOf src s).slot = some k →
    (s.story k).source = src ∧ fits (framerOf src s).state (s.story k).state = true

/-- The traffic of the part is consistent. -/
structure State.Consistent (s : State) : Prop where
  table : s.TableOk
  framers : s.FramersOk

/-! ## The records that stand alone -/

/-- The clock, its capture and the block limit are in their ranges (R170, R176, 10.1). -/
def State.RegistersOk (s : State) : Prop :=
  s.regs.clock ≤ 86399 ∧ s.regs.capture ≤ 86399
    ∧ 5 ≤ s.regs.blockLimit ∧ s.regs.blockLimit ≤ 300

/-- The interrupt output is what the flags and the enables make it (R175). -/
def State.InterruptOk (s : State) : Prop :=
  s.notices.interrupt = interruptLevel s.notices.flags s.notices.enables

/-- Page 0 is the standard page (R28, R29). -/
def State.PageZeroOk (s : State) : Prop := s.page 0 = powerOnPages.get 0

/-- The configurations of a circuit are in their ranges (R7, R8). -/
def Circuit.ConfigOk (c : Circuit) : Prop :=
  c.config.valid = true ∧ ∀ p, c.pendingConfig = some p → p.valid = true

/-- A control unit at rest: count, target and value are 0 while their mechanism is OFF or IDLE, and the
wave is at the start level while the counter is IDLE or in DELAY (R153). -/
def Control.RestOk (c : Control) : Prop :=
  (c.motor = .off → c.motorCount = 0 ∧ c.motorTarget = 0)
    ∧ (c.phase = .idle → c.value = 0)
    ∧ (c.phase = .idle ∨ c.phase = .delay → c.wave = c.settings.startLevel)

/-- Every control unit is so. -/
def State.ControlsOk (s : State) : Prop := ∀ c, (s.control c).RestOk

/-- Every configuration and every counter setting is in its range (R7, R44, R144). -/
def State.ConfigsOk (s : State) : Prop :=
  (∀ c, (s.circuit c).ConfigOk) ∧ (∀ t, (s.port t).config.valid = true)
    ∧ ∀ c, (s.control c).settings.valid = true

/-- An input queue is within its bound, and ready out is low from 12 characters on and high up to 4 on an
ENABLED port (R51, R52). -/
def Port.QueueOk (p : Port) : Prop :=
  p.queue.length ≤ 16 ∧ (12 ≤ p.queue.length → p.readyOut = .low)
    ∧ (p.enabled = true → p.queue.length ≤ 4 → p.readyOut = .high)

/-- Every input queue is so. -/
def State.QueuesOk (s : State) : Prop := ∀ t, (s.port t).QueueOk

/-- The request buffers are within their bound (R154). -/
def State.ParsersOk (s : State) : Prop := ∀ t, (s.parser t).buffer.length ≤ 32

/-- The desk directory: no code twice, at most one default entry, no entry its own fallback (R101 to
R103). -/
structure State.DirectoryOk (s : State) : Prop where
  codes : ∀ i j d e, s.desk i = some d → s.desk j = some e → d.code = e.code → i = j
  oneDefault : ∀ i j d e, s.desk i = some d → s.desk j = some e → d.isDefault = true →
    e.isDefault = true → i = j
  fallback : ∀ i d, s.desk i = some d → d.fallback ≠ some d.code

/-- The control outputs are what their selectors give, low on a CLOSED circuit (R151). -/
def State.OutputsOk (s : State) : Prop :=
  ∀ c, (s.control c).motorOut = s.outputLevel c (s.control c).motorSel
    ∧ (s.control c).signalOut = s.outputLevel c (s.control c).signalSel

/-- A stall timer runs on a PAUSED terminal outlet alone (R113, R137). -/
def State.StallTimersOk (s : State) : Prop :=
  (∀ c, (s.outlet (lineOutlet c)).stallTimer = none)
    ∧ ∀ t, (s.outlet (terminalOutlet t)).stallTimer.isSome = true →
      (s.outlet (terminalOutlet t)).state = .paused

/-! ## The quiet point and what a configuration moves -/

/-- A circuit is at its quiet point: it is the source of no live story, and its outlet carries no live
entry (R9). -/
abbrev State.AtQuietPoint (s : State) (c : Fin 16) : Prop :=
  (∀ k, (s.story k).source = .circuit c → (s.story k).state.live = false)
    ∧ ∀ k, (s.story k).liveOn (lineOutlet c) = false

/-- A circuit record with a configuration in place of its own, none pending (R10): receiving, it hunts
afresh in letters; LOST, its restore timer runs if the input now reads mark and is clear otherwise; under a
survey or CLOSED nothing else moves, and the character on the line completes as it started. -/
def Circuit.configured (x : Circuit) (cfg : CircuitConfig) : Circuit :=
  let hears := x.state = .opened ∧ x.survey = false
  let marks := cfg.polarity.reads x.rxLine = .mark
  { x with
    config := cfg
    pendingConfig := none
    rxPhase := if hears then .hunting else if x.state = .lost ∧ marks then .idle else x.rxPhase
    rxPlane := if hears then .letters else x.rxPlane
    lossTimer := if hears then none else x.lossTimer
    restoreTimer := if x.state = .lost then (if marks then some 0 else none) else x.restoreTimer
    edges := if hears then [] else x.edges
    allSpace := if hears then false else x.allSpace
    afterStop := if hears then false else x.afterStop }

/-! ## Outlets with nothing left to do -/

/-- An outlet has nothing left to do (R114 to R117): IDLE it has no work; STARTING its motor lead runs;
SENDING its own character is on the line, or its unit, or on a line outlet a pause, waits for another
character to leave the line; PAUSED a cause holds and no unit is over. -/
def State.CalmOn (s : State) (o : Fin 24) : Prop :=
  match (s.outlet o).state with
  | .off | .stalled => True
  | .idle => s.hasWork o = false
  | .starting => ∃ c, o = lineOutlet c ∧ (s.control c).motor ≠ .running
  | .sending => s.ownBusy o = true
      ∨ (s.unitOver o = false ∧ s.lineBusy o = true
        ∧ (s.pauseCause o = true → ∃ c, o = lineOutlet c)
        ∧ (s.pauseCause o = false → (s.outlet o).unit ≠ none))
  | .paused => s.pauseCause o = true ∧ s.unitOver o = false

/-- No outlet has anything left to do, and no terminal outlet's unit holds codes (R113, R119). -/
structure State.OutletsCalm (s : State) : Prop where
  calm : ∀ o, s.CalmOn o
  codes : ∀ t u, (s.outlet (terminalOutlet t)).unit = some u → u.codes = []

/-! ## What the reactions of the outlets may do

After a step's own effect the outlets react to it (log 8). These say what such reactions can alter. -/

/-- What names a story and what its header gave it; nothing an outlet does alters these. -/
def Story.identity (st : Story) : Story :=
  { number := st.number, origin := st.origin, priority := st.priority, desk := st.desk,
    routedDesk := st.routedDesk, slug := st.slug, correctionOf := st.correctionOf,
    source := st.source, opened := st.opened, heldBy := st.heldBy }

/-- A story record apart from its entries and its changed mark. -/
def Story.record (st : Story) : Story := { st with entries := [], changed := false }

/-- An entry that is DONE or CUT stays as it is, and a live one stays live or becomes DONE (R82, R87). -/
structure Entry.Reacted (x y : Entry) : Prop where
  outlet : y.outlet = x.outlet
  start : y.start = x.start
  final : x.state.live = false → y = x
  goesOn : x.state.live = true → y.state.live = true ∨ y.state = .done
  grows : x.read ≤ y.read

/-- A story moves from RUNNING to CLOSING and from CLOSING to CLOSED alone, only terminal copy can have
been taken, and no entry comes or goes (R87, R89, R85). -/
structure Story.Reacted (x y : Story) : Prop where
  identity : y.identity = x.identity
  still : x.state ≠ .running → x.state ≠ .closing → y.record = x.record
  moved : y.state = x.state ∨ (x.state = .running ∧ (y.state = .closing ∨ y.state = .closed))
    ∨ (x.state = .closing ∧ y.state = .closed)
  text : x.source.isTerminal = false → y.taken = x.taken ∧ y.lines = x.lines ∧ y.window = x.window
  grows : x.taken ≤ y.taken
  entries : List.Forall₂ Entry.Reacted x.entries y.entries
  changed : x.changed = true → y.changed = true

/-- A circuit keeps its state and its receive side; its configuration moves only where one was pending,
and the character on the line stays (R9, R18). -/
structure Circuit.Reacted (x y : Circuit) : Prop where
  state : y.state = x.state
  survey : y.survey = x.survey
  record : y.surveyRec = x.surveyRec
  line : y.rxLine = x.rxLine
  slip : y.slipFlag = x.slipFlag
  counts : y.counts = x.counts
  calm : x.pendingConfig = none → { y with sending := none } = { x with sending := none }
  busy : x.sending.isSome = true → y.sending = x.sending

/-- A port apart from its queue, its reply slot, its send side and its loose copy. -/
def Port.setting (p : Port) : Port :=
  { p with queue := [], readyOut := .low, sending := none, replySlot := none,
           counts := { p.counts with looseCopy := 0 } }

/-- A port's queue may have been taken from, its reply slot emptied, its idle send side used (R51, R53,
R54). -/
structure Port.Reacted (x y : Port) : Prop where
  setting : y.setting = x.setting
  queue : y.queue <:+ x.queue
  reply : y.replySlot = x.replySlot ∨ y.replySlot = none
  busy : x.sending.isSome = true → y.sending = x.sending
  loose : x.counts.looseCopy ≤ y.counts.looseCopy

/-- A control unit apart from its motor sequencer, its owed fill and its outputs. -/
def Control.setting (c : Control) : Control :=
  { c with motor := .off, motorCount := 0, motorTarget := 0, fillOwed := false, motorOut := .low,
           signalOut := .low }

/-- An outlet's record apart from its stall timer and the pause causes it shows. -/
def Outlet.record (x : Outlet) : Outlet :=
  { x with counterBreak := false, farBreak := false, stallTimer := none }

/-- An OFF or STALLED outlet does nothing, and another does not become OFF or STALLED (R117, R118,
R138). -/
structure Outlet.Reacted (x y : Outlet) : Prop where
  inert : x.state.takesItems = false → y.record = x.record
  serves : x.state.takesItems = true → y.state.takesItems = true
  stalls : y.stalls = x.stalls
  substitutions : x.substitutions ≤ y.substitutions
  drops : x.drops ≤ y.drops

/-- Everything the reactions may do to the part: the only flag they raise is STORY_CLOSED, and that only
where some story was RUNNING or CLOSING. -/
structure State.Reacted (s t : State) : Prop where
  regs : t.regs = s.regs
  pages : t.pages = s.pages
  desks : t.desks = s.desks
  parsers : t.parsers = s.parsers
  openOrder : t.openOrder = s.openOrder
  nextNumber : t.nextNumber = s.nextNumber
  pending : t.pending = s.pending
  enables : t.notices.enables = s.notices.enables
  closedFlag : s.flagSet .storyClosed = true → t.flagSet .storyClosed = true
  otherFlags : ∀ f, f ≠ .storyClosed → t.flagSet f = s.flagSet f
  noticed : (∀ k, (s.story k).state ≠ .running ∧ (s.story k).state ≠ .closing) →
    t.notices = s.notices
  circuits : ∀ c, (s.circuit c).Reacted (t.circuit c)
  ports : ∀ p, (s.port p).Reacted (t.port p)
  stories : ∀ k, (s.story k).Reacted (t.story k)
  outlets : ∀ o, (s.outlet o).Reacted (t.outlet o)
  controls : ∀ c, (t.control c).setting = (s.control c).setting
    ∧ ((t.control c).fillOwed = true → (s.control c).fillOwed = true)
  framers : ∀ src, (framerOf src s).outstanding = none ∨ src.isTerminal = false →
    framerOf src t = framerOf src s

/-! ## Going out of service -/

/-- What a source and its own outlet leave behind when they go out of service (R3, R47, R93, R94, R118):
its live stories are closed SOURCE_LOST with their entries cut, its framer is as after a reset, every
live entry on its outlet is cut OUTLET_LOST, the outlet is OFF, and each circuit that this brings to its
quiet point takes its pending configuration (R9). `raised` are the flags raised besides
STORY_CLOSED. -/
structure State.LeftService (s u : State) (src : Source) (raised : List Flag) : Prop where
  framer : framerOf src u = {}
  own : ∀ k, (s.story k).source = src → (s.story k).state.live = true →
    u.story k = { s.story k with
      state := .closed, reason := some .sourceLost, closed := some s.regs.clock,
      idleTimer := none, heldBy := none, blockedSince := none, blockTimer := none, changed := true,
      entries := (u.story k).entries }
  cuts : ∀ k, (s.story k).source = src → (s.story k).state.live = true →
    (s.story k).entries.Pairwise (fun a b => a.outlet < b.outlet) →
    (u.story k).entries = (s.story k).entries.map (fun e =>
      if e.state.live then
        { e with
          state := .cut (if e.outlet = src.index then .outletLost else .killed)
          lost := (s.story k).taken - e.read, holdMark := false, owed := .none }
      else e)
  carried : ∀ k, ((s.story k).source = src → (s.story k).state.live = false) →
    ∀ e ∈ (s.story k).entries, e.outlet = src.index → e.state.live = true →
    ({ e with state := .cut .outletLost, lost := (s.story k).taken - e.read, holdMark := false,
              owed := .none } : Entry) ∈ (u.story k).entries
  others : ∀ k, ((s.story k).source = src → (s.story k).state.live = false) →
    (s.story k).liveOn src.index = false → u.story k = s.story k
  served : ∀ k, ((s.story k).source = src → (s.story k).state.live = false) →
    (s.story k).liveOn src.index = true →
    (∀ t, (s.story k).source = .terminal t → (framerOf (.terminal t) s).outstanding = none) →
    let y : Story := { s.story k with
      changed := true
      entries := (s.story k).entries.map (fun e => if e.outlet = src.index then
        { e with state := .cut .outletLost, lost := (s.story k).taken - e.read, holdMark := false,
                 owed := .none } else e) }
    u.story k = if y.state = .closing ∧ y.anyLive = false
      then { y with state := .closed, closed := some s.regs.clock } else y
  off : u.outlet src.index = { s.outlet src.index with
    state := .off, holder := none, waiting := [], owed := [], unit := none, answerbackOwed := false,
    counterBreak := false, farBreak := false, stallTimer := none }
  items : ∀ k o, (s.story k).source = src → (s.story k).state.live = true →
    (s.story k).liveOn o = true → o ≠ src.index →
    k ∉ (u.outlet o).waiting ∧ (u.outlet o).holder ≠ some k
      ∧ ((s.outlet o).state.takesItems = true → ⟨.kill, k⟩ ∈ (u.outlet o).owed)
  outlets : ∀ o, o ≠ src.index →
    u.outlet o = { s.outlet o with
      holder := (u.outlet o).holder, waiting := (u.outlet o).waiting, owed := (u.outlet o).owed }
  untouched : ∀ o, o ≠ src.index →
    (∀ k, (s.story k).source = src → (s.story k).state.live = true → (s.story k).liveOn o = false) →
    u.outlet o = s.outlet o
  framers : ∀ c, .circuit c ≠ src → framerOf (.circuit c) u = framerOf (.circuit c) s
  circuits : ∀ c, .circuit c ≠ src →
    let tested := ∃ k, (s.story k).source = src ∧ (s.story k).state.live = true
      ∧ (s.story k).liveOn (lineOutlet c) = true
    (tested → u.AtQuietPoint c → ∀ cfg, (s.circuit c).pendingConfig = some cfg →
      u.circuit c = (s.circuit c).configured cfg)
    ∧ (¬tested ∨ ¬u.AtQuietPoint c ∨ (s.circuit c).pendingConfig = none →
      u.circuit c = s.circuit c)
  ports : ∀ t, .terminal t ≠ src → (s.port t).Reacted (u.port t)
    ∧ (u.port t).sending = (s.port t).sending
    ∧ ((framerOf (.terminal t) s).outstanding = none →
      u.port t = s.port t ∧ framerOf (.terminal t) u = framerOf (.terminal t) s)
  controls : ∀ c, .circuit c ≠ src → u.control c = s.control c
  parsers : ∀ t, .terminal t ≠ src → u.parser t = s.parser t
  kept : u.regs = s.regs ∧ u.pages = s.pages ∧ u.desks = s.desks ∧ u.openOrder = s.openOrder
    ∧ u.nextNumber = s.nextNumber ∧ u.pending = s.pending ∧ u.notices.enables = s.notices.enables
  flags : ∀ f, f ≠ .storyClosed → u.flagSet f = (s.flagSet f || decide (f ∈ raised))
  closed : (∃ k, (s.story k).source = src ∧ (s.story k).state.live = true) ∨
    s.flagSet .storyClosed = true → u.flagSet .storyClosed = true

end Sys2Proof.Machine
end

