-- ==== Sys2Proof/Certificates/Slice0/Obligations.lean ====
section
/-! DEFINITION. The statements about the part. `settle u` is u after the reactions of the outlets
(Machine/Outlets.lean): a statement that says "exec answers next (settle u)" gives the command's own effect
as u, `OutletsReactToWorkPausesAndCompletions` says what settling does, and `StepLeavesNoOutletWithWork`
that it leaves no outlet anything to do. -/

section

open Sys2Proof Sys2Proof.Machine

/-! ## Steps, the queue, resets -/

/-- A step takes the command at the front of the queue and runs it on the state with the queue's rest. -/
def Obligations.StepRunsTheFrontCommand : Prop :=
  ∀ (c : Instr) (q : List Instr) (s : State),
    step { s with pending := c :: q } = exec c { s with pending := q }

/-- On an empty queue the part idles (DESIGN CHOICE, log 4). -/
def Obligations.EmptyQueueIdles : Prop := ∀ s : State, s.pending = [] → step s = .next s

/-- POWER_ON_RESET puts every block at its starting state; the pins keep their levels, the ready inputs
are read, and the commands waiting stay (log 9). -/
def Obligations.PowerOnResetStartsEveryBlockAfresh : Prop :=
  ∀ s : State, ∃ t, exec .powerOnReset s = .next t
    ∧ (∀ c, t.circuit c = { rxLine := (s.circuit c).rxLine })
    ∧ (∀ p, t.port p = { rxMark := (s.port p).rxMark, readyPin := (s.port p).readyPin,
                         readyIn := (s.port p).readyPin })
    ∧ (∀ p, t.parser p = {}) ∧ (∀ i, t.framer i = {}) ∧ (∀ k, t.story k = {})
    ∧ (∀ c, t.outlet (lineOutlet c) = {}) ∧ (∀ p, t.outlet (terminalOutlet p) = { shiftOwed := false })
    ∧ (∀ c, t.control c = {}) ∧ (∀ i, t.desk i = none) ∧ t.pages = powerOnPages
    ∧ t.openOrder = [] ∧ t.nextNumber = 1 ∧ t.notices = {} ∧ t.regs = {} ∧ t.pending = s.pending

/-- Right after power-on reset every field stands at the value that the records' tables (R1, R7, R21, R43,
R44, R56, R73, R101, R113, R140, R144, R154), the pages (R28, R29), the table's counter and order (R75,
R76), the block limit (R86) and the register window (10.1, R164, R174 to R177) state. The levels of the
input pins are the model's (DESIGN CHOICE, log 9). -/
def Obligations.ResetStateHoldsTheStatedValues : Prop :=
  let s := State.reset
  (s.regs.command = 0#16 ∧ s.regs.result = .ok ∧ (∀ k, s.arg k = 0#16)
    ∧ s.regs.rvals = { r0 := 0#16, r1 := 0#16, r2 := 0#16, r3 := 0#16 }
    ∧ s.regs.select = 0#15 ∧ s.regs.clock = 0 ∧ s.regs.capture = 0 ∧ s.regs.resetCause = .power
    ∧ s.regs.snapshot = [] ∧ s.regs.draft = none ∧ s.regs.blockLimit = 30)
  ∧ (s.notices.flags = 0#11 ∧ s.notices.enables = 0#11 ∧ s.notices.interrupt = .low)
  ∧ (∀ c, s.circuit c = {
      state := .closed, survey := false, pendingConfig := none
      config := {
        speedClass := 2, programmedN := 24576, stop := .oneAndHalf, polarity := .markHigh,
        filter := .eighth, page := 0, unshiftOnSpace := false, shiftGuard := true, width := 69,
        lossTime := 10, restoreTime := 5, idleLimit := 120, breakStopsSending := false,
        answerback := [], motorLead := 8, runOn := 30 }
      rxPlane := .letters, rxPhase := .idle, lossTimer := none, restoreTimer := none
      sending := none, slipFlag := false
      counts := {
        received := 0, sent := 0, framingErrors := 0, farBreaks := 0, losses := 0, earlySlips := 0,
        lateSlips := 0, refusedOpens := 0, looseCopy := 0 }
      surveyRec := {
        gate := .oneSecond, adopt := false, elapsed := 0, edges := 0, shortestMark := 65535,
        shortestSpace := 65535, result := none, adopted := false }
      rxLine := .high, edges := [], allSpace := false, afterStop := false })
  ∧ (∀ p, s.port p = {
      enabled := false
      config := {
        speed := .baud1200, parity := .even, width := 80, authority := .view, stallTime := 60,
        idleLimit := 300, enable := false }
      rxPhase := .idle, requestMode := false, afterRequest := false, queue := []
      readyOut := .low, readyIn := .low, sending := none, replySlot := none
      counts := {
        received := 0, sent := 0, framingErrors := 0, parityErrors := 0, overruns := 0,
        dropped := 0, requestBusy := 0, refusedOpens := 0, looseCopy := 0 }
      rxMark := true, readyPin := .low })
  ∧ (∀ p, s.parser p = { buffer := [], overflow := false })
  ∧ (∀ i, s.framer i = {
      state := .idle, origin := none, lineStart := true, lineEnd := false, tail := false,
      holdBack := [], header := [], slot := none, outstanding := none, withdrawn := false })
  ∧ (∀ k, (s.story k).state = .free) ∧ s.openOrder = [] ∧ s.nextNumber = 1
  ∧ (∀ i, s.desk i = none)
  ∧ (∀ o, s.outlet o = {
      state := .off, holder := none, waiting := [], owed := [], unit := none,
      answerbackOwed := false, counterBreak := false, farBreak := false, plane := .letters,
      shiftOwed := (s.outlet o).shiftOwed, column := 0, stallTimer := none, substitutions := 0,
      drops := 0, stalls := 0 })
  ∧ (∀ c, (s.outlet (lineOutlet c)).shiftOwed = true)
  ∧ (∀ c, s.control c = {
      motor := .off, motorCount := 0, motorTarget := 0, phase := .idle, value := 0,
      firstPass := false, fillOwed := false, wave := .low
      settings := {
        use := .wave, max := 1, delay := 0, skip := false, startLevel := .low, toggles := [] }
      action := (s.control c).action
      motorSel := {
        inputA := .motorWanted, inputB := .zero, ff := .low, ft := .low, tf := .high, tt := .high }
      signalSel := {
        inputA := .flashHeld, inputB := .farBreak, ff := .low, ft := .high, tf := .high,
        tt := .high }
      motorOut := .low, signalOut := .low })
  ∧ s.page 0 = standardPage
  ∧ ∀ p, p ≠ 0 →
      (∀ i, (s.page p).rxLetters.get i = .subst ∧ (s.page p).rxFigures.get i = .subst)
      ∧ (∀ i, (s.page p).send.get i = .subst) ∧ (s.page p).substitute = office '?'

/-- Every invariant stated below holds right after power-on reset. -/
def Obligations.ResetStateIsWellKept : Prop :=
  State.reset.Consistent ∧ State.reset.RegistersOk ∧ State.reset.InterruptOk ∧ State.reset.PageZeroOk
    ∧ State.reset.ConfigsOk ∧ State.reset.ControlsOk ∧ State.reset.QueuesOk ∧ State.reset.ParsersOk
    ∧ State.reset.DirectoryOk ∧ State.reset.OutputsOk ∧ State.reset.StallTimersOk
    ∧ State.reset.OutletsCalm

/-! ## Invariants of every step -/

/-- Every step keeps the story table, the outlets' holders and waiting lists and the framers' stories in
agreement (R73 to R76, R83 to R85, R90, R113). -/
def Obligations.StepKeepsTrafficConsistent : Prop :=
  ∀ s t : State, s.Consistent → step s = .next t → t.Consistent

/-- Every step keeps the clock, its capture and the block limit in range, and page 0 the standard page
(R28, R170, R176). -/
def Obligations.StepKeepsClockLimitAndStandardPage : Prop :=
  ∀ s t : State, s.RegistersOk ∧ s.PageZeroOk → step s = .next t → t.RegistersOk ∧ t.PageZeroOk

/-- After every step the interrupt output is high exactly while an enabled flag is set (R175). -/
def Obligations.StepKeepsInterruptOutputRight : Prop :=
  ∀ s t : State, s.InterruptOk → step s = .next t → t.InterruptOk

/-- Every step keeps every configuration, current or pending, and every counter setting in its range
(R7, R8, R44, R144), and count, target, value and wave at rest while their mechanism is (R153). -/
def Obligations.StepKeepsConfigurationsInRangeAndControlsAtRest : Prop :=
  ∀ s t : State, s.ConfigsOk ∧ s.ControlsOk → step s = .next t → t.ConfigsOk ∧ t.ControlsOk

/-- Every step keeps the input queues and request buffers within their bounds and ready out in step with
the queue (R51, R52, R154). -/
def Obligations.StepKeepsQueuesBoundedAndReadyOutRight : Prop :=
  ∀ s t : State, s.QueuesOk ∧ s.ParsersOk → step s = .next t → t.QueuesOk ∧ t.ParsersOk

/-- Every step keeps the desk directory without a repeated code, with at most one default, and no entry
its own fallback (R101 to R103). -/
def Obligations.StepKeepsDirectoryLawful : Prop :=
  ∀ s t : State, s.DirectoryOk → step s = .next t → t.DirectoryOk

/-- After every step the MOTOR and SIGNAL outputs are what their selectors give for the state as it then
stands (R151). -/
def Obligations.StepKeepsControlOutputsSelected : Prop :=
  ∀ s t : State, s.Consistent → s.OutputsOk → step s = .next t → t.OutputsOk

/-- Every step keeps each stall timer stopped unless it is a PAUSED terminal outlet's (R113, R137). -/
def Obligations.StepKeepsStallTimersOnPausedOutlets : Prop :=
  ∀ s t : State, s.StallTimersOk → step s = .next t → t.StallTimersOk

/-- After every step no outlet has anything left to do: an IDLE one has no work, a STARTING one waits
for its motor, a SENDING one for a character to leave the line, a PAUSED one for its cause to end (R114
to R117, R119); and settling makes it so from any consistent state. The outlets then react in the
model's order (DESIGN CHOICE, log 8). -/
def Obligations.StepLeavesNoOutletWithWork : Prop :=
  (∀ s t : State, s.Consistent → s.OutletsCalm → step s = .next t → t.OutletsCalm)
  ∧ ∀ s : State, s.Consistent →
    (∀ t u, (s.outlet (terminalOutlet t)).unit = some u → u.codes = []) → (settle s).OutletsCalm

/-! ## The command port -/

/-- A write of 1 to 26 to COMMAND takes one command whole: its number stands in COMMAND, the argument
words stay, and a refused command has changed nothing but COMMAND, RESULT and the result words, which are
0 (R165). -/
def Obligations.EveryCommandIsAnsweredAndRefusalsChangeNothing : Prop :=
  ∀ (s : State) (n : Word), 1 ≤ n.toNat → n.toNat ≤ 26 →
    ∃ t, exec (.registerWrite 1 n) s = .next t ∧ t.regs.command = n ∧ t.regs.args = s.regs.args
      ∧ (t.regs.result = .ok ∨ ∃ code, code ≠ .ok ∧ t.regs.result = code
          ∧ t = { s with regs := { s.regs with command := n, result := code, rvals := {} } })

/-- A number outside 1 to 26 gives UNKNOWN_COMMAND and changes nothing else; UNKNOWN_COMMAND with a
number of 1 to 26 is another row's (log 1). -/
def Obligations.UnknownNumbersChangeNothing : Prop :=
  ∀ (s : State) (n : Word),
    if 1 ≤ n.toNat ∧ n.toNat ≤ 26 then exec (.unknownCommand n) s = .next s
    else
      exec (.unknownCommand n) s =
          .next { s with regs := { s.regs with command := n, result := .unknownCommand, rvals := {} } }
        ∧ exec (.registerWrite 1 n) s = exec (.unknownCommand n) s

/-- The rows that name one command each are the write of its number to COMMAND; the rows that split
CIRCUIT_SET, COUNTER_ACTION and TERMINAL_SET are that write where ARG0, or the enable word, names their
section, action or case, and where it names none (R165, R166, R169, R145, R44). Readings of the model: that a
host command row is that write, and that a split command's row is it where the argument names no row's case
(log 1). -/
def Obligations.CommandRowsAreWritesOfTheirNumbers : Prop :=
  ∀ s : State,
    let written : Word → Instr → Prop := fun n i => exec i s = exec (.registerWrite 1 n) s
    (∀ p ∈ ([(.storyFind, 1), (.storyKill, 2), (.storyHold, 3), (.storyRelease, 4),
        (.storyPriority, 5), (.storyAddOutlet, 6), (.storyDropOutlet, 7), (.retire, 8),
        (.retireClosed, 9), (.nextChanged, 10), (.setNextNumber, 11), (.deskWrite, 12),
        (.deskRemove, 13), (.circuitOpen, 15), (.circuitClose, 16), (.surveyStart, 17),
        (.surveyStop, 18), (.surveyCancel, 19), (.outputSet, 21), (.pageWrite, 23), (.clockSet, 24),
        (.setBlockLimit, 25), (.trafficReset, 26)] : List (Instr × Word)),
      written p.2 p.1)
    ∧ (∀ p ∈ ([(.circuitSet, 0), (.circuitSetSection1, 1), (.circuitSetSection2, 2)] :
        List (Instr × Nat)),
      hiByte (s.arg 0) = p.2 ∨ 2 < hiByte (s.arg 0) → written 14 p.1)
    ∧ (∀ p ∈ ([(.counterActionIdle, 0), (.counterActionOnce, 1), (.counterActionRepeat, 2),
        (.counterActionDelayedOnce, 3), (.counterActionDelayedRepeat, 4), (.counterActionHold, 5),
        (.counterActionRelease, 6), (.counterActionForceIdle, 7)] : List (Instr × Nat)),
      loByte (s.arg 0) = p.2 ∨ 7 < loByte (s.arg 0) → written 20 p.1)
    ∧ (8 ≤ (s.arg 0).toNat ∨ portConfigOf s.regs.args = none →
      written 22 .terminalSetEnable ∧ written 22 .terminalSetReconfigure
        ∧ written 22 .terminalSetDisable)
    ∧ ∀ t : Fin 8, (s.arg 0).toNat = t.val →
      ((s.arg 7).toNat = 1 → (s.port t).enabled = false → written 22 .terminalSetEnable)
      ∧ ((s.arg 7).toNat = 1 → (s.port t).enabled = true → written 22 .terminalSetReconfigure)
      ∧ ((s.arg 7).toNat = 0 → written 22 .terminalSetDisable)

/-- What a write to each word of the window does: the words that act, ARG0 to ARG7, and the words that
ignore it; an offset of 100 or more is no word of the window (R164; log 3). -/
def Obligations.RegisterWritesActByOffset : Prop :=
  ∀ (s : State) (v : Word),
    (∀ k : Fin 8, exec (.registerWrite (3 + k.val) v) s
        = .next { s with regs := { s.regs with args := s.regs.args.set k v } })
    ∧ exec (.registerWrite 0x0F v) s = exec (.noticeWrite v) s
    ∧ exec (.registerWrite 0x10 v) s = exec (.noticeEnableWrite v) s
    ∧ exec (.registerWrite 0x11 v) s = exec (.selectWrite v) s
    ∧ exec (.registerWrite 0x14 v) s = exec (.controlWrite v) s
    ∧ (∀ n, n < 100 → (n = 0 ∨ n = 2 ∨ (0x0B ≤ n ∧ n ≤ 0x0E) ∨ n = 0x12 ∨ n = 0x13 ∨ 0x15 ≤ n) →
        exec (.registerWrite n v) s = .next s)
    ∧ ∀ n, 100 ≤ n → exec (.registerWrite n v) s = .fault (.outsideWindow n)

/-- A write to NOTICE clears the flags written as 1 and leaves the others; a write to NOTICE_ENABLE
replaces the enables; the interrupt output follows both at once (R174, R175). -/
def Obligations.NoticeWritesMoveFlagsEnablesAndInterrupt : Prop :=
  ∀ (s : State) (v : Word),
    (∃ t, exec (.noticeWrite v) s = .next t ∧ t = { s with notices := t.notices }
      ∧ t.notices.enables = s.notices.enables
      ∧ (∀ f, t.flagSet f = (s.flagSet f && !v.getLsbD f.bit))
      ∧ (t.notices.interrupt = .high ↔
          ∃ f : Flag, t.flagSet f = true ∧ s.notices.enables.getLsbD f.bit = true))
    ∧ ∃ t, exec (.noticeEnableWrite v) s = .next t ∧ t = { s with notices := t.notices }
      ∧ t.notices.flags = s.notices.flags
      ∧ (∀ f : Flag, t.notices.enables.getLsbD f.bit = v.getLsbD f.bit)
      ∧ (t.notices.interrupt = .high ↔
          ∃ f : Flag, s.flagSet f = true ∧ v.getLsbD f.bit = true)

/-- A write to SELECT that changes kind or index empties the snapshot; a read of WINDOW0 under section 0
takes the whole view, clears a story's changed mark and a circuit's slip flag and nothing else, and under
another section returns a word of the snapshot held; a selection of no record reads 0 (R171). What each
record's view holds, word by word, in the forms of R166 (R171 to R173), and what a read of each word of the
window returns (10.1, R164). Readings of the model: log 10 (readData), log 11 (a survey result's word), log
13 (a field an outlet does not keep), log 25 (a timer word shows the low 16 bits), log 28 (ready out, ready in
and the outputs show low as 0 and high as 1), log 29 (a toggle position not written, a string's odd last
byte), log 39 (a survey's adopted shows yes as 1). -/
def Obligations.SelectAndWindow0TakeSnapshots : Prop :=
  (∀ (s : State) (v : Word),
    let kept := s.regs.select.toNat / 4096 = v.toNat % 32768 / 4096
      ∧ s.regs.select.toNat % 256 = v.toNat % 256
    exec (.selectWrite v) s = .next { s with regs := { s.regs with
      select := v.setWidth 15
      snapshot := if kept then s.regs.snapshot else [] } })
  ∧ (∀ s : State,
    (selected s.regs.select = none →
      exec .window0Read s = .next { s with regs := { s.regs with readData := 0#16 } })
    ∧ ∀ x, selected s.regs.select = some x →
      (s.regs.select.toNat / 256 % 16 ≠ 0 → exec .window0Read s = .next { s with regs := { s.regs with
        readData := (s.regs.snapshot[s.regs.select.toNat / 256 % 16 * 64]?).getD 0#16 } })
      ∧ (s.regs.select.toNat / 256 % 16 = 0 → ∃ t, exec .window0Read s = .next t
        ∧ t.regs = { s.regs with snapshot := s.viewOf x, readData := (s.viewOf x).headD 0#16 }
        ∧ t = { s with regs := t.regs, stories := t.stories, circuits := t.circuits }
        ∧ (∀ k, t.story k =
            if x = .story k then { s.story k with changed := false } else s.story k)
        ∧ ∀ c, t.circuit c =
            if x = .circuit c then { s.circuit c with slipFlag := false } else s.circuit c))
  ∧ (∀ v : BitVec 15,
    let kind := v.toNat / 4096
    let section_ := v.toNat / 256 % 16
    let index := v.toNat % 256
    (∀ k : Fin 48, selected v = some (.story k) ↔ kind = 0 ∧ section_ ≤ 1 ∧ index = k.val)
    ∧ (∀ i : Fin 32, selected v = some (.desk i) ↔ kind = 1 ∧ section_ = 0 ∧ index = i.val)
    ∧ (∀ c : Fin 16, selected v = some (.circuit c) ↔ kind = 2 ∧ section_ ≤ 1 ∧ index = c.val)
    ∧ (∀ t : Fin 8, selected v = some (.terminal t) ↔ kind = 3 ∧ section_ = 0 ∧ index = t.val)
    ∧ (∀ o : Fin 24, selected v = some (.outlet o) ↔ kind = 4 ∧ section_ ≤ 1 ∧ index = o.val)
    ∧ (∀ p : Fin 4, selected v = some (.page p) ↔ kind = 5 ∧ section_ ≤ 3 ∧ index = p.val)
    ∧ (selected v = some .table ↔ kind = 6 ∧ section_ = 0 ∧ index = 0))
  ∧ (∀ (s : State) (n : Nat),
    let w := s.readWord n
    (n = 0x00 → w = 0x1608#16) ∧ (n = 0x01 → w = s.regs.command)
    ∧ (n = 0x02 → w = listWord [.ok, .badArgument, .badState, .noSuchStory, .notTerminalSource, .duplicate,
        .slowPath, .outletUnavailable, .tableFull, .pageFixed, .pageInUse, .circuitBusy,
        .numberInUse, .noticePending, .unknownCommand] s.regs.result)
    ∧ (∀ k : Fin 8, n = 0x03 + k.val → w = s.arg k)
    ∧ (n = 0x0B → w = s.regs.rvals.r0) ∧ (n = 0x0C → w = s.regs.rvals.r1)
    ∧ (n = 0x0D → w = s.regs.rvals.r2) ∧ (n = 0x0E → w = s.regs.rvals.r3)
    ∧ (n = 0x0F → w = s.notices.flags.setWidth 16) ∧ (n = 0x10 → w = s.notices.enables.setWidth 16)
    ∧ (n = 0x11 → w = s.regs.select.setWidth 16)
    ∧ (n = 0x12 → w = word (s.regs.clock / 65536)) ∧ (n = 0x13 → w = word (s.regs.capture % 65536))
    ∧ (n = 0x15 → w = listWord [.power, .traffic] s.regs.resetCause)
    ∧ (∀ j, j < 64 → n = 0x16 + j →
        (selected s.regs.select = none → w = 0#16)
        ∧ (selected s.regs.select ≠ none → w
            = (s.regs.snapshot[s.regs.select.toNat / 256 % 16 * 64 + j]?).getD 0#16))
    ∧ (n = 0x14 ∨ 0x56 ≤ n → w = 0#16))
  ∧ ∀ s : State,
    let num : Option Nat → Word := fun n => (n.map word).getD 0xFFFF#16
    let mark : Bool → Word := fun b => if b then 1#16 else 0#16
    let code : Option DeskCode → Word := fun d =>
      (d.map (fun x => word (256 * x.first.toNat + x.second.toNat))).getD 0#16
    let time : Option Nat → List Word := fun n =>
      (n.map (fun m => [word (m / 65536), word (m % 65536)])).getD [0xFFFF#16, 0xFFFF#16]
    let padded : List Word → List Word := fun l => l ++ List.replicate (64 - l.length) 0#16
    let priorities_ : List Priority := [.f, .b, .u, .r, .d]
    let symbol : Option Office → Nat := fun o => (o.map (fun x =>
      if isCapital x then x.toNat - 64 else if isDigit x then x.toNat - 21 else 37)).getD 0
    let slug : List Office → List Word := fun cs => (List.range 7).map (fun i =>
      word (1444 * symbol cs[3 * i]? + 38 * symbol cs[3 * i + 1]? + symbol cs[3 * i + 2]?))
    let states_ : List StoryState := [.free, .header, .running, .held, .closing, .closed]
    let entry : Entry → List Word := fun e =>
      let state := match e.state with
        | .waiting => 0
        | .carrying => 1
        | .suspended _ => 2
        | .done => 3
        | .cut _ => 4
      let cause := match e.state with
        | .suspended .preempted => 1
        | .suspended .held => 2
        | .waiting | .carrying | .done | .cut _ => 0
      let reason := match e.state with
        | .cut r => List.idxOf r [.lapped, .blockLimit, .stall, .removed, .killed, .outletLost] + 1
        | .waiting | .carrying | .suspended _ | .done => 0
      [word (2048 * e.outlet.val + 256 * state + 64 * cause + (if e.holdMark then 32 else 0)
          + 8 * List.idxOf e.owed [.none, .header, .resume, .joined] + reason),
        word e.start, word e.read, word e.lost]
    (∀ k, let st := s.story k
      (st.state = .free → s.viewOf (.story k) = List.replicate 128 0#16)
      ∧ (st.state ≠ .free → s.viewOf (.story k) =
        [word (List.idxOf st.state states_ + if st.changed then 32768 else 0), word st.number,
          num st.origin, optListWord priorities_ st.priority, code st.desk, code st.routedDesk]
        ++ slug (st.slug.getD [])
        ++ [num st.correctionOf, word (match st.source with
            | .circuit c => c.val
            | .terminal t => 16 + t.val)]
        ++ time (some st.opened) ++ time st.closed
        ++ [optListWord [.closer, .idleEnd, .tooLong, .killed, .sourceLost, .headerFault,
              .unknownDesk, .noRoute, .noOutlet] st.reason,
          word st.taken, word st.lines, match st.heldBy with
            | none => 0xFFFF#16
            | some .host => 24#16
            | some (.terminal t) => word (16 + t.val)]
        ++ time st.blockedSince ++ [word st.entries.length, num st.idleTimer]
        ++ List.replicate 5 0#16 ++ st.entries.flatMap entry
        ++ List.replicate (96 - 4 * st.entries.length) 0xFFFF#16))
    ∧ (∀ i, (s.desk i = none → s.viewOf (.desk i) = List.replicate 64 0#16)
      ∧ ∀ d, s.desk i = some d → s.viewOf (.desk i) = padded
        [1#16, code (some d.code), word d.outlets.toNat, word (d.outlets.toNat / 65536),
          listWord priorities_ d.floor, code d.fallback, mark d.isDefault, mark d.echo,
          word d.routed])
    ∧ (∀ c,
      let x := s.circuit c
      let cfg := x.config
      let n := x.counts
      let r := x.surveyRec
      let z := s.control c
      let byte : Nat → Nat := fun i => ((cfg.answerback[i]?).map BitVec.toNat).getD 0
      let selector : Selector → List Word := fun y =>
        let conditions_ : List Condition :=
          [.motorWanted, .counterWave, .flashHeld, .storyWaiting, .farBreak, .outletPaused, .zero]
        [listWord conditions_ y.inputA, listWord conditions_ y.inputB, listWord [.low, .high] y.ff,
          listWord [.low, .high] y.ft, listWord [.low, .high] y.tf, listWord [.low, .high] y.tt]
      s.viewOf (.circuit c) = padded
        ([listWord [.closed, .opened, .lost] x.state, mark x.survey, word cfg.speedClass,
          word cfg.programmedN, listWord [.one, .oneAndHalf, .two] cfg.stop,
          listWord [.markHigh, .markLow] cfg.polarity,
          listWord [.off, .sixteenth, .eighth, .quarter] cfg.filter, word cfg.page.val,
          mark cfg.unshiftOnSpace, mark cfg.shiftGuard, word cfg.width, word cfg.lossTime,
          word cfg.restoreTime, word cfg.idleLimit, mark cfg.breakStopsSending,
          word cfg.answerback.length]
        ++ (List.range 10).map (fun i => word (256 * byte (2 * i) + byte (2 * i + 1)))
        ++ [word cfg.motorLead, word cfg.runOn, mark x.pendingConfig.isSome,
          listWord [.letters, .figures] x.rxPlane,
          listWord [.hunting, .inCharacter, .farBreak, .idle] x.rxPhase, num x.lossTimer,
          num x.restoreTimer, mark x.sending.isSome, mark x.slipFlag, word n.received, word n.sent,
          word n.framingErrors, word n.farBreaks, word n.losses, word n.earlySlips,
          word n.lateSlips, word n.refusedOpens, word n.looseCopy,
          listWord [.oneSecond, .fourSeconds, .eightSeconds, .untimed] r.gate, mark r.adopt,
          word r.elapsed, word r.edges, word r.shortestMark, word r.shortestSpace,
          match r.result with
            | none => 0#16
            | some .noSignal => word 256
            | some .noMatch => word 512
            | some (.speedClass k) => word (768 + k)
            | some .cancelled => word 1024,
          mark r.adopted,
          listWord [.idle, .openerMatch, .header, .inStory, .closerMatch, .discard]
            (framerOf (.circuit c) s).state])
      ++ padded
        ([listWord [.off, .starting, .running, .runOn] z.motor, word z.motorCount,
          word z.motorTarget, listWord [.idle, .delay, .counting, .holding] z.phase, word z.value,
          mark z.firstPass, mark z.fillOwed, listWord [.low, .high] z.wave,
          listWord [.wave, .lineBreak, .fill] z.settings.use, word z.settings.max,
          word z.settings.delay, mark z.settings.skip, listWord [.low, .high] z.settings.startLevel,
          word z.settings.toggles.length]
        ++ (List.range 4).map (fun i => num z.settings.toggles[i]?)
        ++ [word (togglesInEffect z.settings.toggles).length] ++ selector z.motorSel
        ++ selector z.signalSel
        ++ [listWord [.low, .high] z.motorOut, listWord [.low, .high] z.signalOut]))
    ∧ (∀ t,
      let x := s.port t
      let cfg := x.config
      let n := x.counts
      s.viewOf (.terminal t) = padded
        [mark x.enabled,
          listWord [.baud300, .baud600, .baud1200, .baud2400, .baud4800, .baud9600] cfg.speed,
          listWord [.even, .odd, .off] cfg.parity, word cfg.width,
          listWord [.view, .desk, .chief] cfg.authority, word cfg.stallTime, word cfg.idleLimit,
          mark cfg.enable, listWord [.idle, .hunting, .inCharacter, .waitMark] x.rxPhase,
          mark x.requestMode, mark x.afterRequest, word x.queue.length,
          listWord [.low, .high] x.readyOut, listWord [.low, .high] x.readyIn,
          mark x.sending.isSome, mark x.replySlot.isSome, word n.received, word n.sent,
          word n.framingErrors, word n.parityErrors, word n.overruns, word n.dropped,
          word n.requestBusy, word n.refusedOpens, word n.looseCopy,
          word (s.parser t).buffer.length, mark (s.parser t).overflow,
          listWord [.idle, .openerMatch, .header, .inStory, .closerMatch, .discard]
            (framerOf (.terminal t) s).state])
    ∧ (∀ o,
      let x := s.outlet o
      let state := listWord [.off, .idle, .starting, .sending, .paused, .stalled] x.state
      let holder := num (x.holder.map (·.val))
      let unit := match x.unit.map (·.kind) with
        | none => 0#16
        | some .text => 1#16
        | some (.notice _) => 2#16
        | some .reply => 3#16
        | some .answerback => 4#16
      let lists : List Word := word x.waiting.length :: x.waiting.map (fun k => word k.val)
      let items := padded (word x.owed.length :: x.owed.map (fun i =>
        word (256 * List.idxOf i.kind [.breakIn, .held, .cut, .kill] + i.slot.val)))
      (o.val < 16 → ∃ timer stalls : Word, s.viewOf (.outlet o) = padded
        ([state, holder, unit, mark x.answerbackOwed, mark x.counterBreak, mark x.farBreak,
          listWord [.letters, .figures] x.plane, mark x.shiftOwed, word x.column, timer,
          word x.substitutions, word x.drops, stalls] ++ lists) ++ items)
      ∧ (16 ≤ o.val → ∃ owed counter far plane shift : Word, s.viewOf (.outlet o) = padded
        ([state, holder, unit, owed, counter, far, plane, shift, word x.column, num x.stallTimer,
          word x.substitutions, word x.drops, word x.stalls] ++ lists) ++ items))
    ∧ (∀ p,
      let x := s.page p
      let heard : RxEntry → Word := fun e => match e with
        | .char o => word o.toNat
        | .planeLetters => 128#16
        | .planeFigures => 129#16
        | .drop => 130#16
        | .bell => 131#16
        | .answerback => 132#16
        | .subst => 133#16
      let sent : SendEntry → Word := fun e => match e with
        | .code c .letters => word (c.toNat + 32)
        | .code c .figures => word (c.toNat + 64)
        | .code c .both => word (c.toNat + 96)
        | .subst => 128#16
        | .drop => 129#16
      s.viewOf (.page p) = x.rxLetters.toList.map heard ++ x.rxFigures.toList.map heard
        ++ x.send.toList.map sent ++ padded [word x.substitute.toNat,
          mark (decide (∃ c, (s.circuit c).config.page = p ∧ ¬s.AtQuietPoint c))])
    ∧ s.viewOf .table = padded
      ([word s.nextNumber, word s.regs.blockLimit,
        word ((List.finRange 48).filter (fun k => (s.story k).state = .free)).length,
        word s.openOrder.length] ++ s.openOrder.map (fun k => word k.val))

/-- CLOCK_SET takes a value of 0 to 86399 and nothing else; a read of CLOCK_HI captures the whole clock
and returns its upper part (R176). -/
def Obligations.ClockIsSetAndCapturedWhole : Prop :=
  ∀ s : State,
    let n := 65536 * (s.arg 0).toNat + (s.arg 1).toNat
    (86399 < n → exec .clockSet s = .next (s.refuse 24 .badArgument))
    ∧ (n ≤ 86399 →
        exec .clockSet s = .next (({ s with regs := { s.regs with clock := n } } : State).answer 24 .ok))
    ∧ exec .clockHiRead s = .next { s with regs := { s.regs with
        capture := s.regs.clock, readData := word (s.regs.clock / 65536) } }

/-- SET_BLOCK_LIMIT refuses a value outside 5 to 300 with the limit unchanged, and otherwise takes it:
every block timer judges against it from then on, and the table view shows it (R170). -/
def Obligations.BlockLimitIsSetWithinItsRange : Prop :=
  ∀ s : State,
    let n := (s.arg 0).toNat
    (n < 5 ∨ 300 < n → exec .setBlockLimit s = .next (s.refuse 25 .badArgument))
    ∧ (5 ≤ n → n ≤ 300 → ∃ t, exec .setBlockLimit s = .next t
      ∧ t = (({ s with regs := { s.regs with blockLimit := n } } : State).answer 25 .ok)
      ∧ (tableView t)[1]? = some (word n)
      ∧ ∀ u : State, u.regs.blockLimit = n → ∀ k : Fin 48,
          (u.blockDue k = true ↔ ∃ e, (u.story k).blockTimer = some e ∧ n ≤ e))

/-- NEXT_CHANGED gives OK and the lowest slot whose changed mark is set, or reports that there is none; it
clears no mark (R168). -/
def Obligations.NextChangedNamesTheLowestMarkedSlot : Prop :=
  ∀ s : State,
    ((∀ k, (s.story k).changed = false) →
      exec .nextChanged s = .next (s.answer 10 .ok { r0 := 0#16, r1 := 0xFFFF#16 }))
    ∧ ∀ k, (s.story k).changed = true → (∀ j, j < k → (s.story j).changed = false) →
      exec .nextChanged s = .next (s.answer 10 .ok { r0 := 1#16, r1 := word k.val })

/-- SET_NEXT_NUMBER refuses a number outside 1 to 9999 and one that a record which is not FREE carries,
and otherwise writes the counter (R77). -/
def Obligations.NextNumberIsSetUnlessInUse : Prop :=
  ∀ s : State,
    let n := (s.arg 0).toNat
    let used := ∃ k, (s.story k).state ≠ .free ∧ (s.story k).number = n
    (n < 1 ∨ 9999 < n → exec .setNextNumber s = .next (s.refuse 11 .badArgument))
    ∧ (1 ≤ n → n ≤ 9999 → used → exec .setNextNumber s = .next (s.refuse 11 .numberInUse))
    ∧ (1 ≤ n → n ≤ 9999 → ¬used →
        exec .setNextNumber s = .next (({ s with nextNumber := n } : State).answer 11 .ok))

/-- STORY_FIND by slot, by number and by slug: the record found, its slot, number and state, or the
refusal; it changes nothing (R96, R167). -/
def Obligations.StoryFindAnswersTheRecord : Prop :=
  ∀ s : State,
    let found : Fin 48 → Host.Outcome State Fault Refusal := fun k =>
      .next (s.answer 1 .ok
        { r0 := word k.val
          r1 := if (s.story k).state = .free then 0xFFFF#16 else word (s.story k).number
          r2 := word (position storyStates (s.story k).state) })
    let n := (s.arg 1).toNat
    ((s.arg 0).toNat = 0 → (47 < n → exec .storyFind s = .next (s.refuse 1 .badArgument))
      ∧ ∀ k : Fin 48, n = k.val → exec .storyFind s = found k)
    ∧ ((s.arg 0).toNat = 1 →
      (n < 1 ∨ 9999 < n → exec .storyFind s = .next (s.refuse 1 .badArgument))
      ∧ (1 ≤ n → n ≤ 9999 →
        ((∀ k, (s.story k).state ≠ .free → (s.story k).number ≠ n) →
          exec .storyFind s = .next (s.refuse 1 .noSuchStory))
        ∧ ((∃ k, (s.story k).state ≠ .free ∧ (s.story k).number = n) →
          ∃ k, (s.story k).state ≠ .free ∧ (s.story k).number = n ∧ exec .storyFind s = found k)))
    ∧ ((s.arg 0).toNat = 2 →
      (slugOfWords s.slugArgs = none → exec .storyFind s = .next (s.refuse 1 .badArgument))
      ∧ ∀ cs, slugOfWords s.slugArgs = some cs →
        ((∀ k ∈ s.openOrder, (s.story k).slug ≠ some cs) →
          exec .storyFind s = .next (s.refuse 1 .noSuchStory))
        ∧ ∀ l k r, s.openOrder = l ++ k :: r → (s.story k).slug = some cs →
          (∀ j ∈ r, (s.story j).slug ≠ some cs) → exec .storyFind s = found k)
    ∧ (2 < (s.arg 0).toNat → exec .storyFind s = .next (s.refuse 1 .badArgument))

/-- RETIRE makes a CLOSED record FREE unless an outlet owes an item naming it, and RETIRE_CLOSED does so
for every such record and counts them (R98). -/
def Obligations.RetiringFreesClosedRecords : Prop :=
  ∀ s : State,
    let owed : Fin 48 → Prop := fun k => ∃ o, ∃ i ∈ (s.outlet o).owed, i.slot = k
    (47 < (s.arg 0).toNat → exec .retire s = .next (s.refuse 8 .badArgument))
    ∧ (∀ k : Fin 48, (s.arg 0).toNat = k.val →
      ((s.story k).state ≠ .closed → exec .retire s = .next (s.refuse 8 .badState))
      ∧ ((s.story k).state = .closed → owed k → exec .retire s = .next (s.refuse 8 .noticePending))
      ∧ ((s.story k).state = .closed → ¬owed k → exec .retire s = .next
          (({ s with stories := s.stories.set k {},
                     openOrder := s.openOrder.filter (fun j => j ≠ k) } : State).answer 8 .ok)))
    ∧ ∃ (t : State) (n : Nat), exec .retireClosed s = .next (t.answer 9 .ok { r0 := word n })
      ∧ t = { s with stories := t.stories, openOrder := t.openOrder }
      ∧ (∀ k, (s.story k).state = .closed → ¬owed k → t.story k = {} ∧ k ∉ t.openOrder)
      ∧ (∀ k, ((s.story k).state ≠ .closed ∨ owed k) →
          t.story k = s.story k ∧ (k ∈ t.openOrder ↔ k ∈ s.openOrder))
      ∧ t.openOrder.Sublist s.openOrder
      ∧ ∃ ks : List (Fin 48), ks.Nodup ∧ ks.length = n
          ∧ ∀ k, k ∈ ks ↔ (s.story k).state = .closed ∧ ¬owed k

/-! ## The directory, the pages, configurations -/

/-- DESK_WRITE: its checks in order, the entry written in the place of the one that carries its code, the
routed count kept, or in the lowest empty position, and the default mark of every other entry cleared when
its own is set (R102, R103). -/
def Obligations.DeskWritePlacesTheEntry : Prop :=
  ∀ s : State,
    let bad := deskCodeOf (s.arg 0) = none ∨ 4 < (s.arg 3).toNat
      ∨ (s.arg 4 ≠ 0#16 ∧ (deskCodeOf (s.arg 4) = none ∨ deskCodeOf (s.arg 4) = deskCodeOf (s.arg 0)))
    (bad → exec .deskWrite s = .next (s.refuse 12 .badArgument))
    ∧ ∀ code, deskCodeOf (s.arg 0) = some code → ¬bad →
      ((∀ i, ∃ e, s.desk i = some e ∧ e.code ≠ code) →
        exec .deskWrite s = .next (s.refuse 12 .tableFull))
      ∧ ∀ i, (((∃ e, s.desk i = some e ∧ e.code = code)
              ∧ ∀ j, j < i → ∀ e, s.desk j = some e → e.code ≠ code)
            ∨ ((∀ j e, s.desk j = some e → e.code ≠ code) ∧ s.desk i = none
              ∧ ∀ j, j < i → s.desk j ≠ none)) →
        ∃ (t : State) (d : Desk), exec .deskWrite s = .next (t.answer 12 .ok)
          ∧ t = { s with desks := t.desks }
          ∧ t.desk i = some d ∧ d.code = code ∧ d.outlets = outletSetOf (s.arg 1) (s.arg 2)
          ∧ d.floor.rank = (s.arg 3).toNat
          ∧ d.fallback = (if s.arg 4 = 0#16 then none else deskCodeOf (s.arg 4))
          ∧ (hiByte (s.arg 5) ≤ 1 → (d.isDefault = true ↔ hiByte (s.arg 5) = 1))
          ∧ (loByte (s.arg 5) ≤ 1 → (d.echo = true ↔ loByte (s.arg 5) = 1))
          ∧ d.routed = ((s.desk i).map (·.routed)).getD 0
          ∧ ∀ j, j ≠ i → t.desk j =
              if d.isDefault then (s.desk j).map (fun e => { e with isDefault := false }) else s.desk j

/-- DESK_REMOVE: refused without a code of two capitals, refused where no entry carries the code, and
otherwise the entry's position is empty (R104). -/
def Obligations.DeskRemoveEmptiesThePosition : Prop :=
  ∀ s : State,
    (deskCodeOf (s.arg 0) = none → exec .deskRemove s = .next (s.refuse 13 .badArgument))
    ∧ ∀ code, deskCodeOf (s.arg 0) = some code →
      ((∀ i e, s.desk i = some e → e.code ≠ code) →
        exec .deskRemove s = .next (s.refuse 13 .badState))
      ∧ ∀ i e, s.desk i = some e → e.code = code →
        (∀ j, j < i → ∀ d, s.desk j = some d → d.code ≠ code) →
        exec .deskRemove s
          = .next (({ s with desks := s.desks.set i none } : State).answer 13 .ok)

/-- PAGE_WRITE: its checks in order, and on OK each entry from the first index on takes the next value
while every other entry and page stays (R40, R41). The outlets then react in the model's order (DESIGN
CHOICE, log 8). -/
def Obligations.PageWriteWritesItsEntries : Prop :=
  ∀ s : State,
    let part := (s.arg 1).toNat
    let first := (s.arg 2).toNat
    let count := (s.arg 3).toNat
    let words : List Word := [s.arg 4, s.arg 5, s.arg 6, s.arg 7]
    let value : Nat → Nat := fun i => (words[i]?.getD 0#16).toNat
    let size := if part = 2 then 128 else if part = 3 then 1 else 32
    let ranged := part ≤ 3 ∧ 1 ≤ count ∧ count ≤ 4 ∧ (part = 3 → count = 1) ∧ first + count ≤ size
    let allowed := ∀ i, i < count →
      (part ≤ 1 → rxEntryOf (value i) ≠ none) ∧ (part = 2 → sendEntryOf (value i) ≠ none)
        ∧ (part = 3 → substituteOf (value i) ≠ none)
    let written : Nat → Nat → Prop := fun p i => part = p ∧ first ≤ i ∧ i < first + count
    (3 < (s.arg 0).toNat → exec .pageWrite s = .next (s.refuse 23 .badArgument))
    ∧ ((s.arg 0).toNat = 0 → exec .pageWrite s = .next (s.refuse 23 .pageFixed))
    ∧ ∀ k : Fin 4, k ≠ 0 → (s.arg 0).toNat = k.val →
      let used := ∃ c, (s.circuit c).config.page = k
        ∧ ((∃ j, (s.story j).source = .circuit c ∧ (s.story j).state.live = true)
          ∨ ∃ j, (s.story j).liveOn (lineOutlet c) = true)
      (¬(ranged ∧ allowed) → exec .pageWrite s = .next (s.refuse 23 .badArgument))
      ∧ (ranged → allowed → used → exec .pageWrite s = .next (s.refuse 23 .pageInUse))
      ∧ (ranged → allowed → ¬used → ∃ t : State,
        exec .pageWrite s = .next ((settle t).answer 23 .ok)
        ∧ t = { s with pages := t.pages } ∧ (∀ q, q ≠ k → t.page q = s.page q)
        ∧ (∀ i : Fin 32, (written 0 i.val →
              some ((t.page k).rxLetters.get i) = rxEntryOf (value (i.val - first)))
            ∧ (¬written 0 i.val → (t.page k).rxLetters.get i = (s.page k).rxLetters.get i)
            ∧ (written 1 i.val →
              some ((t.page k).rxFigures.get i) = rxEntryOf (value (i.val - first)))
            ∧ (¬written 1 i.val → (t.page k).rxFigures.get i = (s.page k).rxFigures.get i))
        ∧ (∀ i : Fin 128, (written 2 i.val →
              some ((t.page k).send.get i) = sendEntryOf (value (i.val - first)))
            ∧ (¬written 2 i.val → (t.page k).send.get i = (s.page k).send.get i))
        ∧ (part = 3 → some (t.page k).substitute = substituteOf (value 0))
        ∧ (part ≠ 3 → (t.page k).substitute = (s.page k).substitute))

/-- CIRCUIT_SET sections 1 and 2 fill the draft: a section above 2, a circuit above 15, a length above
20 or a forbidden character inside the length is refused, and otherwise the section's values stand in
the draft of that circuit and nothing else moves (R169; log 15 for section 2's length). A row changes
nothing where ARG0 names another section (log 1). -/
def Obligations.CircuitSetSectionsFillTheDraft : Prop :=
  ∀ s : State,
    let section_ := hiByte (s.arg 0)
    let byte : List (Fin 8) → Nat → BitVec 8 := fun ks i => (s.argBytes ks)[i]?.getD 0#8
    (2 < section_ → exec .circuitSet s = .next (s.refuse 14 .badArgument)
      ∧ exec .circuitSetSection1 s = .next (s.refuse 14 .badArgument)
      ∧ exec .circuitSetSection2 s = .next (s.refuse 14 .badArgument))
    ∧ ((section_ = 0 ∨ section_ = 2) → exec .circuitSetSection1 s = .next s)
    ∧ ((section_ = 0 ∨ section_ = 1) → exec .circuitSetSection2 s = .next s)
    ∧ (section_ = 1 → (16 ≤ loByte (s.arg 0) →
          exec .circuitSetSection1 s = .next (s.refuse 14 .badArgument)))
    ∧ (section_ = 2 → (16 ≤ loByte (s.arg 0) →
          exec .circuitSetSection2 s = .next (s.refuse 14 .badArgument)))
    ∧ ∀ c : Fin 16, loByte (s.arg 0) = c.val → ∀ old : Draft,
      ((s.regs.draft = some old ∧ old.circuit = c)
        ∨ ((∀ d, s.regs.draft = some d → d.circuit ≠ c)
          ∧ old = { circuit := c, length := 0, chars := Vector.replicate 20 0#8, section2 := false })) →
      (section_ = 1 →
        let n := (s.arg 1).toNat
        let ok := n ≤ 20 ∧ ∀ i, i < 12 → i < n → answerbackByte (byte [2, 3, 4, 5, 6, 7] i) = true
        (¬ok → exec .circuitSetSection1 s = .next (s.refuse 14 .badArgument))
        ∧ (ok → ∃ d : Draft, exec .circuitSetSection1 s
            = .next (({ s with regs := { s.regs with draft := some d } } : State).answer 14 .ok)
          ∧ d.circuit = c ∧ d.length = n ∧ d.section2 = old.section2
          ∧ ∀ i : Fin 20, d.chars.get i =
              if i.val < 12 then byte [2, 3, 4, 5, 6, 7] i.val else old.chars.get i))
      ∧ (section_ = 2 →
        let ok := ∀ i, i < 8 → 12 + i < old.length → answerbackByte (byte [1, 2, 3, 4] i) = true
        (¬ok → exec .circuitSetSection2 s = .next (s.refuse 14 .badArgument))
        ∧ (ok → ∃ d : Draft, exec .circuitSetSection2 s
            = .next (({ s with regs := { s.regs with draft := some d } } : State).answer 14 .ok)
          ∧ d.circuit = c ∧ d.length = old.length ∧ d.section2 = true
          ∧ ∀ i : Fin 20, d.chars.get i =
              if i.val < 12 then old.chars.get i else byte [1, 2, 3, 4] (i.val - 12)))

/-- CIRCUIT_SET section 0 submits the configuration: refused where its fields or its draft fail their
checks, applied at once at the quiet point with RVAL0 1, made pending otherwise with RVAL0 2, the draft
emptied (R8 to R10, R169). The outlets then react in the model's order (DESIGN CHOICE, log 8), and the control
outputs follow a far break that the configuration ends (log 38). -/
def Obligations.CircuitSetSubmitsTheConfiguration : Prop :=
  ∀ s : State, hiByte (s.arg 0) = 0 →
    (16 ≤ loByte (s.arg 0) → exec .circuitSet s = .next (s.refuse 14 .badArgument))
    ∧ ∀ c : Fin 16, loByte (s.arg 0) = c.val → ∀ string : Option (List Office),
      ((∀ d, s.regs.draft = some d → d.circuit ≠ c) → string = some []) →
      (∀ d, s.regs.draft = some d → d.circuit = c →
        string = if (12 < d.length ∧ d.section2 = false)
            ∨ ∃ b ∈ d.chars.toList.take d.length, answerbackByte b = false then none
          else some ((d.chars.toList.take d.length).map (fun b => BitVec.ofNat 7 b.toNat))) →
      let cfg := string.bind (circuitConfigOf s.regs.args)
      let quiet := s.AtQuietPoint c
      let emptied : State := { s with regs := { s.regs with draft := none } }
      (cfg = none → exec .circuitSet s = .next (s.refuse 14 .badArgument))
      ∧ ∀ x, cfg = some x →
        x.valid = true
        ∧ (¬quiet → exec .circuitSet s = .next (({ emptied with
            circuits := s.circuits.set c { s.circuit c with pendingConfig := some x } } :
              State).answer 14 .ok { r0 := 2#16 }))
        ∧ (quiet → exec .circuitSet s = .next ((settle { emptied with
            circuits := s.circuits.set c ((s.circuit c).configured x) }).answer 14 .ok
              { r0 := 1#16 }))

/-- A traffic reset, by CONTROL with bit 0 set or by TRAFFIC_RESET: the story table, the framers, the
queues, the outlets' lists and the notice flags are cleared, circuits in service are OPEN and hunting, a
pending configuration is applied, and configuration, directory, pages, counts, next number and block
limit are kept; any other value written to CONTROL is ignored (R25, R55, R100, R139, R153, R177). The
outlets then react in the model's order (DESIGN CHOICE, log 8). -/
def Obligations.TrafficResetClearsTrafficAndKeepsConfiguration : Prop :=
  ∀ s : State,
    (∀ v : Word, v.getLsbD 0 = false → exec (.controlWrite v) s = .next s)
    ∧ ∃ u : State, (∀ v : Word, v.getLsbD 0 = true → exec (.controlWrite v) s = .next (settle u))
      ∧ exec .trafficReset s = .next ((settle u).answer 26 .ok)
      ∧ (settle u).notices = u.notices
      ∧ u = { s with
          circuits := u.circuits, ports := u.ports, outlets := u.outlets, controls := u.controls
          stories := Vector.replicate 48 {}, openOrder := [], framers := Vector.replicate 24 {}
          parsers := Vector.replicate 8 {}
          notices := { s.notices with flags := 0#11, interrupt := .low }
          regs := { s.regs with resetCause := .traffic, snapshot := [], draft := none } }
      ∧ (∀ c,
          let x := s.circuit c
          let y : Circuit := { x with
            survey := false, sending := none, pendingConfig := none
            config := x.pendingConfig.getD x.config
            surveyRec := if x.survey then { x.surveyRec with result := some .cancelled }
              else x.surveyRec }
          u.circuit c = if x.state = .closed then y else
            { y with
              state := .opened, rxPhase := .hunting, rxPlane := .letters, lossTimer := none,
              restoreTimer := none, edges := [], allSpace := false, afterStop := false })
      ∧ (∀ p, let x := s.port p
          u.port p = if x.enabled then
            { x with rxPhase := if x.rxMark then .hunting else .waitMark, requestMode := false,
                     afterRequest := false, queue := [], readyOut := .high, sending := none,
                     replySlot := none }
          else x)
      ∧ (∀ c,
          let x := s.outlet (lineOutlet c)
          let off := (s.circuit c).state = .closed
          u.outlet (lineOutlet c) = { x with
            state := if off then .off else .idle, holder := none, waiting := [], owed := [],
            unit := none, answerbackOwed := false, counterBreak := false, farBreak := false,
            plane := if off then x.plane else .letters, shiftOwed := if off then x.shiftOwed else true,
            column := 0, stallTimer := none })
      ∧ (∀ p,
          let x := s.outlet (terminalOutlet p)
          u.outlet (terminalOutlet p) = { x with
            state := if (s.port p).enabled then
                (if (s.port p).readyIn = .high then .idle else .paused) else .off
            holder := none, waiting := [], owed := [], unit := none, answerbackOwed := false,
            counterBreak := false, farBreak := false, column := 0, stallTimer := none })
      ∧ ∀ c, let x := s.control c
          u.control c = { x with
            motor := .off, motorCount := 0, motorTarget := 0, phase := .idle, value := 0,
            firstPass := false, fillOwed := false, wave := x.settings.startLevel }

/-! ## Claims on stories -/

/-- STORY_KILL: refused where no record carries the number or the story is CLOSED; otherwise the story
is CLOSED with KILLED, every live entry is cut KILLED and owes a KILL item, its framer is in DISCARD, a
terminal source is offered KILLED nnnn, and each circuit that this brings to its quiet point takes its
pending configuration (R9, R70, R82, R92). A kill by a K request differs in that the asker's own
terminal is offered no such line. The outlets then react in the model's order (DESIGN CHOICE, log 8). -/
def Obligations.StoryKillClosesTheStory : Prop :=
  ∀ s : State,
    (s.findNumber (s.arg 0).toNat = none → exec .storyKill s = .next (s.refuse 2 .noSuchStory))
    ∧ (∀ k, s.findNumber (s.arg 0).toNat = some k →
      ((s.story k).state = .closed → exec .storyKill s = .next (s.refuse 2 .badState))
      ∧ ((s.story k).state ≠ .closed →
        exec .storyKill s = .next ((settle (killStory k none s)).answer 2 .ok)))
    ∧ ∀ (k : Fin 48) (asker : Option (Fin 8)),
      let x := s.story k
      let f := framerOf x.source s
      let loose := if f.slot = some k then f.holdBack.length + f.header.length else 0
      let u := killStory k asker s
      u = { s with circuits := u.circuits, ports := u.ports, framers := u.framers,
                   stories := u.stories, outlets := u.outlets,
                   notices := (s.raise .storyClosed).notices }
      ∧ u.story k = { x with state := .closed, reason := some .killed,
                             closed := some s.regs.clock, idleTimer := none, heldBy := none,
                             blockedSince := none, blockTimer := none, changed := true,
                             entries := (u.story k).entries }
      ∧ (x.entries.Pairwise (fun a b => a.outlet < b.outlet) →
          (u.story k).entries = x.entries.map (fun e =>
            if e.state.live then
              { e with state := .cut .killed, lost := x.taken - e.read, holdMark := false,
                       owed := .none }
            else e))
      ∧ (∀ j, j ≠ k → u.story j = s.story j)
      ∧ (∀ o, let y := s.outlet o
          u.outlet o = if x.liveOn o then
            { y with waiting := y.waiting.filter (fun j => j ≠ k),
                     holder := if y.holder = some k then none else y.holder,
                     owed := if y.state.takesItems then addItem ⟨.kill, k⟩ y.owed else y.owed }
          else y)
      ∧ (∀ src, framerOf src u = if src = x.source ∧ f.slot = some k then
          { f with state := .discard, origin := none, slot := none, holdBack := [], header := [],
                   outstanding := none, withdrawn := false, lineEnd := false }
          else framerOf src s)
      ∧ (∀ c, let y := s.circuit c
          let z : Circuit := if x.source = .circuit c then
            { y with counts := { y.counts with looseCopy := incBy loose y.counts.looseCopy } }
          else y
          let tested := x.source = .circuit c ∨ x.liveOn (lineOutlet c) = true
          (tested → u.AtQuietPoint c → ∀ cfg, y.pendingConfig = some cfg →
            u.circuit c = z.configured cfg)
          ∧ (¬tested ∨ ¬u.AtQuietPoint c ∨ y.pendingConfig = none → u.circuit c = z))
      ∧ ∀ p, let y := s.port p
          u.port p = if x.source = .terminal p then
            { y with
              counts := { y.counts with looseCopy := incBy loose y.counts.looseCopy }
              replySlot := if y.enabled ∧ y.replySlot = none ∧ asker ≠ some p then
                  some (text ['K', 'I', 'L', 'L', 'E', 'D', ' '] ++ fourDigits x.number)
                else y.replySlot }
          else y

/-- STORY_HOLD and STORY_RELEASE: the host's checks in order; a hold makes the story HELD, marks its
carried entries, suspends the others and withdraws an outstanding write; a release makes it RUNNING,
clears the marks, makes its HELD entries WAITING with the notice R91 gives, and the framer claims a
withdrawn write again (R67, R90, R91). That the write is claimed in the release's own taking is the
model's (DESIGN CHOICE, log 16), and the mark that remembers it too (log 27). The outlets then react in
the model's order (DESIGN CHOICE, log 8). -/
def Obligations.StoryHoldAndReleaseMoveATerminalStory : Prop :=
  ∀ s : State,
    let found := s.findNumber (s.arg 0).toNat
    (found = none → exec .storyHold s = .next (s.refuse 3 .noSuchStory)
      ∧ exec .storyRelease s = .next (s.refuse 4 .noSuchStory))
    ∧ (∀ k, found = some k →
      (∀ c, (s.story k).source = .circuit c →
        exec .storyHold s = .next (s.refuse 3 .notTerminalSource))
      ∧ (∀ p, (s.story k).source = .terminal p →
        ((s.story k).state ≠ .running → exec .storyHold s = .next (s.refuse 3 .badState))
        ∧ ((s.story k).state = .running →
          exec .storyHold s = .next ((settle (holdStory k .host s)).answer 3 .ok)))
      ∧ ((s.story k).state ≠ .held → exec .storyRelease s = .next (s.refuse 4 .badState))
      ∧ ((s.story k).state = .held →
        exec .storyRelease s = .next ((settle (releaseStory k s)).answer 4 .ok)))
    ∧ ∀ k : Fin 48,
      let x := s.story k
      let f := framerOf x.source s
      (∀ by_ : Holder, holdStory k by_ s = { s with
        stories := s.stories.set k { x with
          state := .held, heldBy := some by_, idleTimer := none, blockedSince := none,
          blockTimer := none, changed := true,
          entries := x.entries.map (fun e =>
            match e.state with
            | .carrying => { e with holdMark := true }
            | .waiting | .suspended _ => { e with state := .suspended .held }
            | .done | .cut _ => e) }
        framers := s.framers.set x.source.index { f with
          outstanding := none, withdrawn := f.withdrawn || f.outstanding.isSome } })
      ∧ ∀ u : State, u = { s with stories := s.stories.set k { x with
            state := .running, heldBy := none, idleTimer := some 0, changed := true,
            entries := x.entries.map (fun e =>
              if e.state = .carrying then { e with holdMark := false }
              else if e.state = .suspended .held then
                { e with
                  state := .waiting
                  owed := if e.owed = .none ∨ e.owed = .resume then .resume else e.owed }
              else e) } } →
        (∀ p, x.source = .terminal p → f.withdrawn = true → releaseStory k s = takeHead p
          { u with framers := u.framers.set x.source.index { f with withdrawn := false } })
        ∧ ((∀ p, x.source = .terminal p → f.withdrawn = false) → releaseStory k s = u)

/-- STORY_PRIORITY: its checks in order; in RUNNING, HELD and CLOSING the priority is replaced, and one
equal to it changes nothing (R95). The outlets then react in the model's order (DESIGN CHOICE, log 8).
-/
def Obligations.StoryPriorityReplacesThePriority : Prop :=
  ∀ s : State,
    (4 < (s.arg 1).toNat → exec .storyPriority s = .next (s.refuse 5 .badArgument))
    ∧ ∀ p : Priority, p.rank = (s.arg 1).toNat →
      (s.findNumber (s.arg 0).toNat = none → exec .storyPriority s = .next (s.refuse 5 .noSuchStory))
      ∧ ∀ k, s.findNumber (s.arg 0).toNat = some k →
        let x := s.story k
        let open_ := x.state = .running ∨ x.state = .held ∨ x.state = .closing
        (¬open_ → exec .storyPriority s = .next (s.refuse 5 .badState))
        ∧ (open_ → exec .storyPriority s = .next ((settle (if x.priority = some p then s
            else { s with
              stories := s.stories.set k { x with priority := some p, changed := true } })).answer 5
                .ok))

/-- STORY_ADD_OUTLET and STORY_DROP_OUTLET: their checks in order; an add places one entry among the
story's in order of outlet, at the taken count with JOINED owed, SUSPENDED in a HELD story and WAITING
otherwise, and its slot joins the waiting list; a drop cuts the entry REMOVED, owes a CUT item, and
raises no flag of its own, and the table then makes its tests (R82, R107, R109 to R111). The outlets
then react in the model's order (DESIGN CHOICE, log 8). -/
def Obligations.StoryAddAndDropOutletMoveOneEntry : Prop :=
  ∀ s : State,
    (23 < (s.arg 1).toNat → exec .storyAddOutlet s = .next (s.refuse 6 .badArgument)
      ∧ exec .storyDropOutlet s = .next (s.refuse 7 .badArgument))
    ∧ (∀ o : Fin 24, o.val = (s.arg 1).toNat →
      (s.findNumber (s.arg 0).toNat = none → exec .storyAddOutlet s = .next (s.refuse 6 .noSuchStory)
        ∧ exec .storyDropOutlet s = .next (s.refuse 7 .noSuchStory))
      ∧ ∀ k, s.findNumber (s.arg 0).toNat = some k →
        let x := s.story k
        let open_ := x.state = .running ∨ x.state = .held ∨ x.state = .closing
        let present := ∃ e ∈ x.entries, e.outlet = o
        let available := (s.outlet o).state ≠ .off ∧ (s.outlet o).state ≠ .stalled
          ∧ (∀ c, o = lineOutlet c → (s.circuit c).state = .opened)
          ∧ ∀ p, o = terminalOutlet p → (s.port p).enabled = true
        let slow := ∃ c d, x.source = .circuit c ∧ o = lineOutlet d
          ∧ (s.circuit c).config.n < (s.circuit d).config.n
        (¬open_ → exec .storyAddOutlet s = .next (s.refuse 6 .badState))
        ∧ (open_ → present → exec .storyAddOutlet s = .next (s.refuse 6 .duplicate))
        ∧ (open_ → ¬present → ¬available →
            exec .storyAddOutlet s = .next (s.refuse 6 .outletUnavailable))
        ∧ (open_ → ¬present → available → slow →
            exec .storyAddOutlet s = .next (s.refuse 6 .slowPath))
        ∧ (open_ → ¬present → available → ¬slow →
            exec .storyAddOutlet s = .next ((settle (addOutlet k o s)).answer 6 .ok))
        ∧ (x.liveOn o = false → exec .storyDropOutlet s = .next (s.refuse 7 .badState))
        ∧ (x.liveOn o = true →
            exec .storyDropOutlet s = .next ((settle (cutEntry k o .removed s)).answer 7 .ok)))
    ∧ ∀ (k : Fin 48) (o : Fin 24),
      let x := s.story k
      let y := s.outlet o
      addOutlet k o s = { s with
        stories := s.stories.set k { x with
          changed := true
          entries := x.entries.filter (fun e => e.outlet.val < o.val)
            ++ [{ outlet := o
                  state := if x.state = .held then .suspended .held else .waiting
                  start := x.taken, read := x.taken, owed := .joined }]
            ++ x.entries.filter (fun e => o.val < e.outlet.val) }
        outlets := s.outlets.set o { y with waiting := y.waiting ++ [k] } }
      ∧ (x.liveOn o = false → cutEntry k o .removed s = s)
      ∧ (x.liveOn o = true → cutEntry k o .removed s = afterCut k o { s with
        stories := s.stories.set k { x with
          changed := true
          entries := x.entries.map (fun e => if e.outlet = o then
            { e with state := .cut .removed, lost := x.taken - e.read, holdMark := false,
                     owed := .none } else e) }
        outlets := s.outlets.set o { y with
          waiting := y.waiting.filter (fun j => j ≠ k)
          holder := if y.holder = some k then none else y.holder
          owed := if y.state.takesItems then addItem ⟨.cut, k⟩ y.owed else y.owed } })

/-! ## Circuits in and out of service -/

/-- CIRCUIT_OPEN: its checks in order; an opening puts the circuit OPEN and hunting in letters with its
counts at 0, and its outlet IDLE with a shift owed (R2, R35, R115). The outlets then react in the
model's order (DESIGN CHOICE, log 8). -/
def Obligations.CircuitOpenPutsTheCircuitInService : Prop :=
  ∀ s : State,
    (16 ≤ (s.arg 0).toNat → exec .circuitOpen s = .next (s.refuse 15 .badArgument))
    ∧ ∀ c : Fin 16, (s.arg 0).toNat = c.val →
      let x := s.circuit c
      (x.config.valid = false → exec .circuitOpen s = .next (s.refuse 15 .badArgument))
      ∧ (x.config.valid = true → x.state ≠ .closed ∨ x.survey = true →
          exec .circuitOpen s = .next (s.refuse 15 .badState))
      ∧ (x.config.valid = true → x.state = .closed → x.survey = false →
        exec .circuitOpen s = .next ((settle { s with
          circuits := s.circuits.set c { x with
            state := .opened, rxPhase := .hunting, rxPlane := .letters, lossTimer := none,
            restoreTimer := none, edges := [], allSpace := false, afterStop := false,
            sending := none, slipFlag := false, counts := {} }
          outlets := s.outlets.set (lineOutlet c) { s.outlet (lineOutlet c) with
            state := .idle, plane := .letters, shiftOwed := true, column := 0,
            substitutions := 0, drops := 0 } }).answer 15 .ok))

/-- CIRCUIT_CLOSE: always taken on a circuit; a survey ends CANCELLED, a CLOSED circuit stays as it is,
and another leaves service to CLOSED with its counter forced to IDLE (R3, R4, R24, R153). The receive
plane of an OPEN circuit closed under a survey is the model's (DEDUCED, log 32). The outlets then react
in the model's order (DESIGN CHOICE, log 8). -/
def Obligations.CircuitCloseTakesTheCircuitOut : Prop :=
  ∀ s : State,
    (16 ≤ (s.arg 0).toNat → exec .circuitClose s = .next (s.refuse 16 .badArgument))
    ∧ ∀ c : Fin 16, (s.arg 0).toNat = c.val →
      let x := s.circuit c
      let record := if x.survey then { x.surveyRec with result := some .cancelled } else x.surveyRec
      (x.state = .closed → x.survey = false →
        exec .circuitClose s = .next ((settle s).answer 16 .ok))
      ∧ (x.state = .closed → x.survey = true → exec .circuitClose s = .next ((settle { s with
          circuits := s.circuits.set c { x with survey := false, surveyRec := record }
          notices := (s.raise .surveyDone).notices }).answer 16 .ok))
      ∧ (x.state ≠ .closed → ∃ u : State, exec .circuitClose s = .next ((settle u).answer 16 .ok)
        ∧ s.LeftService u (.circuit c) (if x.survey then [.surveyDone] else [])
        ∧ u.circuit c = { x with
            state := .closed, survey := false, surveyRec := record, rxPhase := .idle,
            rxPlane := if x.survey = true ∧ x.state = .opened then .letters else x.rxPlane,
            lossTimer := none, restoreTimer := none, edges := [], allSpace := false,
            afterStop := false, sending := none, config := x.pendingConfig.getD x.config,
            pendingConfig := none }
        ∧ u.control c = { s.control c with
            motor := .off, motorCount := 0, motorTarget := 0, phase := .idle, value := 0,
            firstPass := false, fillOwed := false, wave := (s.control c).settings.startLevel })

/-- FAR_BREAK_BEGINS, CIRCUIT_LOST and CIRCUIT_RESTORED, each when it is due and no other way: a far
break starts the loss timer, the loss takes the circuit out of service with its character in progress
going on, the restore returns it to OPEN (R3, R5, R6, R16, R115). Readings of the model: a row that is
not due changes nothing (log 1), an expiry is a row of its own, due once the elapsed time has reached
its limit (log 5), a far break's row stands for its 16 units (log 21), the mark on a character whose
unit is abandoned (log 20), the loss timer stopped at its expiry (log 37). The outlets then react
in the model's order (DESIGN CHOICE, log 8). -/
def Obligations.FarBreakLossAndRestoreMoveTheCircuit : Prop :=
  ∀ (s : State) (c : Fin 16),
    let x := s.circuit c
    let breakDue := x.state = .opened ∧ x.survey = false ∧ x.rxPhase = .hunting
      ∧ x.config.polarity.reads x.rxLine = .space
    let lossDue := x.state = .opened ∧ ∃ e, x.lossTimer = some e ∧ x.config.lossTime ≤ e
    let restoreDue := x.state = .lost ∧ ∃ e, x.restoreTimer = some e ∧ x.config.restoreTime ≤ e
    let lost : Circuit := { x with
      state := .lost, lossTimer := none, restoreTimer := none
      sending := x.sending.map (fun y =>
        { y with owner := if y.owner = .unit then .orphan else y.owner })
      counts := { x.counts with losses := inc x.counts.losses } }
    (breakDue → exec (.farBreakBegins c) s = .next (settle
      { s with circuits := s.circuits.set c { x with
          rxPhase := .farBreak, lossTimer := some 0, allSpace := false, afterStop := false,
          counts := { x.counts with farBreaks := inc x.counts.farBreaks } } }))
    ∧ (¬breakDue → exec (.farBreakBegins c) s = .next s)
    ∧ (lossDue → ∃ u : State, exec (.circuitLost c) s = .next (settle u)
      ∧ s.LeftService u (.circuit c) [.circuitLost]
      ∧ (x.pendingConfig = none → u.circuit c = lost)
      ∧ (∀ cfg, x.pendingConfig = some cfg → u.circuit c = lost.configured cfg)
      ∧ u.control c = { s.control c with
          motor := .off, motorCount := 0, motorTarget := 0, fillOwed := false })
    ∧ (¬lossDue → exec (.circuitLost c) s = .next s)
    ∧ (restoreDue → exec (.circuitRestored c) s = .next (settle
      { s with
        circuits := s.circuits.set c { x with
          state := .opened, rxPhase := .hunting, rxPlane := .letters, lossTimer := none,
          restoreTimer := none, edges := [], allSpace := false, afterStop := false }
        outlets := s.outlets.set (lineOutlet c) { s.outlet (lineOutlet c) with
          state := .idle, plane := .letters, shiftOwed := true, column := 0 }
        notices := (s.raise .circuitRestored).notices }))
    ∧ (¬restoreDue → exec (.circuitRestored c) s = .next s)

/-! ## Surveys -/

/-- SURVEY_START, SURVEY_STOP, SURVEY_CANCEL and the gate's expiry: the checks in order, the record as a
survey begins, the judgement by the edge count and the shorter pulse against the unit interval of every
class, the adoption of the class found, SURVEY_DONE (R11, R20 to R24). Readings of the model: an adopt
option that is neither 0 nor 1 (log 12), the gate's expiry as a row of its own, due once the elapsed
time has reached the gate (log 5), which changes nothing otherwise (log 1), class 7 adopted into a
pending configuration (log 33). The outlets then react in the model's order (DESIGN CHOICE, log 8). -/
def Obligations.SurveysBeginAndEndWithAResult : Prop :=
  ∀ s : State,
    let n := (s.arg 0).toNat
    (16 ≤ n ∨ 4 ≤ (s.arg 1).toNat → exec .surveyStart s = .next (s.refuse 17 .badArgument))
    ∧ (16 ≤ n → exec .surveyStop s = .next (s.refuse 18 .badArgument)
        ∧ exec .surveyCancel s = .next (s.refuse 19 .badArgument))
    ∧ ∀ c : Fin 16,
      let x := s.circuit c
      let r := x.surveyRec
      let live := ∃ k, (s.story k).source = .circuit c ∧ (s.story k).state.live = true
      let p := min r.shortestMark r.shortestSpace
      let unit : Nat → Nat := fun k => if k = 7 then x.config.programmedN
        else ([27036, 24576, 21596, 16561, 16384, 12288] : List Nat).getD (k - 1) 0
      let off : Nat → Nat := fun k => (p - unit k) + (unit k - p)
      let fits : Nat → Prop := fun k => 1 ≤ k ∧ k ≤ 7 ∧ 100 * off k ≤ 6 * unit k
      let beats : Nat → Nat → Prop := fun k j =>
        off k * unit j < off j * unit k ∨ (off k * unit j = off j * unit k ∧ k ≤ j)
      let judged : SurveyResult → Prop := fun y =>
        (r.edges < 8 → y = .noSignal)
        ∧ (8 ≤ r.edges → (∀ k, ¬fits k) → y = .noMatch)
        ∧ (8 ≤ r.edges → ∀ k, fits k → (∀ j, fits j → beats k j) → y = .speedClass k)
      let back : SurveyRecord → Circuit := fun r' =>
        let opened := x.state = .opened
        { x with
          survey := false, surveyRec := r'
          rxPhase := if opened then .hunting else x.rxPhase
          rxPlane := if opened then .letters else x.rxPlane
          lossTimer := if opened then none else x.lossTimer
          edges := if opened then [] else x.edges
          allSpace := if opened then false else x.allSpace
          afterStop := if opened then false else x.afterStop }
      let end_ : Circuit → State := fun y =>
        { s with circuits := s.circuits.set c y, notices := (s.raise .surveyDone).notices }
      let ended : State → Prop := fun u => ∃ y : SurveyResult, judged y
        ∧ ((r.adopt = false ∨ ∀ k, y ≠ .speedClass k) →
            u = end_ (back { r with result := some y }))
        ∧ ∀ k, y = .speedClass k → r.adopt = true →
          let z := back { r with result := some y, adopted := true }
          (∀ q, x.pendingConfig = some q →
            u = end_ { z with pendingConfig := some { q with speedClass := k } })
          ∧ (x.pendingConfig = none → s.AtQuietPoint c →
            u = end_ (z.configured { x.config with speedClass := k }))
          ∧ (x.pendingConfig = none → ¬s.AtQuietPoint c →
            u = end_ { z with pendingConfig := some { x.config with speedClass := k } })
      let gateDue := x.survey = true ∧ ∃ g, r.gate.seconds = some g ∧ g ≤ r.elapsed
      (1 ≤ x.config.speedClass → x.config.speedClass ≤ 7 → x.config.n = unit x.config.speedClass)
      ∧ (n = c.val → ∀ g, gates[(s.arg 1).toNat]? = some g →
        (x.state = .lost ∨ x.survey = true → exec .surveyStart s = .next (s.refuse 17 .badState))
        ∧ (x.state ≠ .lost → x.survey = false → live →
            exec .surveyStart s = .next (s.refuse 17 .circuitBusy))
        ∧ (x.state ≠ .lost → x.survey = false → ¬live → ∃ adopt : Bool,
          ((s.arg 2).toNat = 0 → adopt = false) ∧ ((s.arg 2).toNat = 1 → adopt = true)
          ∧ exec .surveyStart s = .next ((settle
            { s with
              circuits := s.circuits.set c { x with
                survey := true
                surveyRec := { gate := g, adopt := adopt, elapsed := 0, edges := 0,
                               shortestMark := 65535, shortestSpace := 65535, result := none,
                               adopted := false }
                rxPhase := if x.state = .opened then .idle else x.rxPhase
                lossTimer := if x.state = .opened then none else x.lossTimer
                edges := if x.state = .opened then [] else x.edges
                allSpace := if x.state = .opened then false else x.allSpace
                afterStop := if x.state = .opened then false else x.afterStop }
              framers := s.framers.set (Source.circuit c).index {} }).answer 17 .ok)))
      ∧ (n = c.val → x.survey = false → exec .surveyStop s = .next (s.refuse 18 .badState)
          ∧ exec .surveyCancel s = .next (s.refuse 19 .badState))
      ∧ (n = c.val → x.survey = true →
        (∃ u : State, exec .surveyStop s = .next ((settle u).answer 18 .ok) ∧ ended u)
        ∧ exec .surveyCancel s = .next ((settle
            (end_ (back { r with result := some .cancelled }))).answer 19 .ok))
      ∧ (gateDue → ∃ u : State, exec (.surveyGateExpiry c) s = .next (settle u) ∧ ended u)
      ∧ (¬gateDue → exec (.surveyGateExpiry c) s = .next s)

/-! ## What a circuit receives and sends -/

/-- The edges of a receive input outside a character, the false start, the edges inside a character with
their slips, and the edges a survey times: what each moves when it is accepted, and nothing otherwise;
the filter's widths, and the level a sample reads, which is the one accepted last by its moment, an edge
being accepted a filter width after it (R6, R13 to R17, R21). Readings of the model: an edge's row
carries what the filter judges by, and edges belong to one state of the receiver (logs 1, 2); the edges
of a character are kept for its samples, and one accepted after the stop sample is still judged and acts
as an edge outside a character (log 31); the mark of an all-space character (log 27). The outlets then
react in the model's order (DESIGN CHOICE, log 8). -/
def Obligations.LineEdgesMoveTheReceiver : Prop :=
  ∀ (s : State) (c : Fin 16) (held : Nat),
    let x := s.circuit c
    let n := x.config.n
    let w := x.config.filterWidth
    let now := x.config.polarity.reads x.rxLine
    let hears := x.state = .opened ∧ x.survey = false
    let receiving := hears ∧ x.rxPhase = .inCharacter
    let hunts := hears ∧ x.rxPhase = .hunting
    let free := x.survey = false ∧ x.rxPhase ≠ .inCharacter ∧ w ≤ held
    let reads : Nat → Signal := fun moment =>
      (((x.edges.filter (fun e => decide (e.ticks + w ≤ moment))).getLast?).map (·.level)).getD .space
    let set : Circuit → State := fun y => { s with circuits := s.circuits.set c y }
    let fallen : Circuit := { x with
      rxLine := x.config.polarity.drives .space
      afterStop := false
      rxPhase := if hunts then .inCharacter else x.rxPhase
      edges := if hunts then [] else x.edges
      allSpace := if hunts then false else x.allSpace
      restoreTimer := if x.state = .lost ∧ x.rxPhase = .idle then none else x.restoreTimer }
    let risen : Circuit := { x with
      rxLine := x.config.polarity.drives .mark
      afterStop := false
      rxPhase := if x.rxPhase ≠ .farBreak then x.rxPhase
        else if x.state = .lost then .idle else .hunting
      restoreTimer := if x.state = .lost ∧ (x.rxPhase = .farBreak ∨ x.rxPhase = .idle)
        then some 0 else x.restoreTimer
      lossTimer := if x.state ≠ .lost ∧ x.rxPhase = .farBreak then none else x.lossTimer
      allSpace := if x.rxPhase = .hunting then false else x.allSpace
      counts := if x.rxPhase = .hunting ∧ x.allSpace = true
        then { x.counts with framingErrors := inc x.counts.framingErrors } else x.counts }
    (w = match x.config.filter with
      | .off => 0
      | .sixteenth => n / 16
      | .eighth => n / 8
      | .quarter => n / 4)
    ∧ (∀ i ∈ ([.lineStartEdge c held, .lostSpaceEdge c held] : List Instr),
      (free ∧ now = .mark → exec i s = .next (set fallen))
      ∧ (¬(free ∧ now = .mark) → exec i s = .next s))
    ∧ (∀ i ∈ ([.allSpaceEnded c held, .farBreakEnds c held, .lostMarkEdge c held] : List Instr),
      (free ∧ now = .space → exec i s = .next (settle (set risen)))
      ∧ (¬(free ∧ now = .space) → exec i s = .next s))
    ∧ (receiving → reads (n / 2) = .mark →
        exec (.lineFalseStart c) s = .next (set { x with rxPhase := .hunting, edges := [] }))
    ∧ (¬receiving ∨ reads (n / 2) = .space → exec (.lineFalseStart c) s = .next s)
    ∧ (∀ (level : Signal) (ticks : Nat),
      let stop := 13 * n / 2
      let accepted := w ≤ held ∧ now ≠ level ∧ ticks ≤ stop
      let inside := receiving ∧ accepted ∧ (∀ e ∈ x.edges, e.ticks < ticks) ∧ ticks + w ≤ stop
      let overdue := hunts ∧ accepted ∧ x.afterStop = true ∧ stop < ticks + w
      let moved : Circuit := if x.rxPhase = .inCharacter then
          { x with
            rxLine := x.config.polarity.drives level
            edges := x.edges ++ [{ level := level, ticks := ticks }] }
        else match level with
          | .space => fallen
          | .mark => risen
      let late : Nat → Prop := fun b => n / 2 < ticks ∧ b + 3 * n / 10 < ticks
      let early : Nat → Prop := fun b => n / 2 < ticks ∧ ticks + 3 * n / 10 < b
      let slipped : CircuitCounts → State := fun y =>
        { set { moved with slipFlag := true, counts := y } with
          notices := if x.slipFlag then s.notices else (s.raise .slip).notices }
      let away : Nat → Nat := fun k => (ticks - k * n) + (k * n - ticks)
      (¬inside → ¬overdue → exec (.edgeInsideCharacter c level ticks held) s = .next s)
      ∧ (inside ∨ overdue → ∀ k, 1 ≤ k → k ≤ 6 → (∀ j, 1 ≤ j → j ≤ 6 → away k ≤ away j) →
        (∀ j, 1 ≤ j → j < k → away k < away j) →
        (early (k * n) → exec (.edgeInsideCharacter c level ticks held) s = .next (slipped
          { moved.counts with earlySlips := satInc 255 moved.counts.earlySlips }))
        ∧ (late (k * n) → exec (.edgeInsideCharacter c level ticks held) s = .next (slipped
          { moved.counts with lateSlips := satInc 255 moved.counts.lateSlips }))
        ∧ (¬early (k * n) → ¬late (k * n) →
          exec (.edgeInsideCharacter c level ticks held) s = .next (set moved))))
    ∧ ∀ (level : Signal) (pulse : Nat),
      let r := x.surveyRec
      let due := x.survey = true ∧ w ≤ held ∧ now ≠ level ∧ 0 < pulse
      (¬due → exec (.surveyEdge c level pulse held) s = .next s)
      ∧ (due → exec (.surveyEdge c level pulse held) s = .next (set { x with
          rxLine := x.config.polarity.drives level
          surveyRec := { r with
            edges := inc r.edges
            shortestMark := if r.edges = 0 ∨ level = .mark then r.shortestMark
              else min r.shortestMark (min pulse 65535)
            shortestSpace := if r.edges = 0 ∨ level = .space then r.shortestSpace
              else min r.shortestSpace (min pulse 65535) } }))

/-- The stop sample of a character on a circuit, its code read from the samples at 1.5 to 5.5 units and
its stop at 6.5: a good one is counted, looked up in the plane it stands in and handed to the framer,
the answerback requested, the plane moved after; one that reads space is a framing error that hands on
the substitute, or with code 0 the beginning of a possible far break (R13 to R15, R30 to R32, R135). A
row whose code and stop are not what the samples read is not due and changes nothing (logs 1, 2). The
outlets then react in the model's order (DESIGN CHOICE, log 8). -/
def Obligations.LineCharactersAreLookedUpAndHandedOn : Prop :=
  ∀ (s : State) (c : Fin 16) (code : Code) (stop : Signal),
    let x := s.circuit c
    let n := x.config.n
    let pg := s.page x.config.page
    let reads : Nat → Signal := fun moment =>
      (((x.edges.filter (fun e => decide (e.ticks + x.config.filterWidth ≤ moment))).getLast?).map
        (·.level)).getD .space
    let worth : Nat → Nat := fun i => if reads ((2 * i + 1) * n / 2) = .mark then 2 ^ (i - 1) else 0
    let due := x.state = .opened ∧ x.survey = false ∧ x.rxPhase = .inCharacter
      ∧ reads (n / 2) = .space ∧ code.toNat = worth 1 + worth 2 + worth 3 + worth 4 + worth 5
      ∧ stop = reads (13 * n / 2)
    let over_ : Circuit := { x with rxPhase := .hunting, edges := [], afterStop := true }
    (¬due → exec (.characterReceived c code stop) s = .next s)
    ∧ (due → stop = .mark → ∀ e : RxEntry,
      (x.rxPlane = .letters → e = pg.rxLetters.get code.toFin) →
      (x.rxPlane = .figures → e = pg.rxFigures.get code.toFin) →
      let heard : State := { s with circuits := s.circuits.set c { over_ with
        counts := { x.counts with received := inc x.counts.received } } }
      let framed : State := match e with
        | .char o => takeChar (.circuit c) o heard
        | .bell => takeChar (.circuit c) bel heard
        | .subst => takeChar (.circuit c) pg.substitute heard
        | .planeLetters | .planeFigures | .drop | .answerback => heard
      let asked : State := if e = .answerback then
          { framed with
            outlets := framed.outlets.set (lineOutlet c)
              { framed.outlet (lineOutlet c) with answerbackOwed := true } }
        else framed
      let y := asked.circuit c
      let plane := match e with
        | .planeLetters => .letters
        | .planeFigures => .figures
        | .char o => if x.config.unshiftOnSpace = true ∧ o = space then .letters else y.rxPlane
        | .drop | .bell | .answerback | .subst => y.rxPlane
      exec (.characterReceived c code stop) s = .next (settle
        { asked with circuits := asked.circuits.set c { y with rxPlane := plane } }))
    ∧ (due → stop = .space →
      (code = 0#5 → exec (.characterReceived c code stop) s = .next (settle
        { s with circuits := s.circuits.set c { over_ with allSpace := true } }))
      ∧ (code ≠ 0#5 → exec (.characterReceived c code stop) s = .next (settle
        (takeChar (.circuit c) pg.substitute
          { s with circuits := s.circuits.set c { over_ with
            counts := { x.counts with framingErrors := inc x.counts.framingErrors } } }))))

/-- The end of a character on a send side counts it and frees the send side; an owed fill is taken by an
idle send side of an OPEN circuit whose outlet is IDLE, and sets the outlet's shift-owed mark; a row
that is not due changes nothing (log 1). What the send outputs then drive: a circuit's start, units 1 to
5 and stop at the unit interval, stop length and polarity the character started at, and between
characters mark, or space while the counter's break holds it, mark always when CLOSED; a terminal's
start, data bits with the least significant first, parity and stop at the speed and parity it started
at, and mark between (R2 to R5, R10, R12, R18, R19, R35, R44, R46, R48, R53, R148, R150). The outputs
are read from the records that drive them, and a stop of one and a half units of an odd N loses half a
tick (DEDUCED, log 30). The outlets then react in the model's order (DESIGN CHOICE, log 8). -/
def Obligations.SentCharactersAndFillsUseTheSendSide : Prop :=
  ∀ s : State,
    let signal : Bool → Signal := fun b => if b then .mark else .space
    let level : Polarity → Signal → Level := fun p y => match p, y with
      | .markHigh, .mark | .markLow, .space => .high
      | .markHigh, .space | .markLow, .mark => .low
    (∀ c : Fin 16,
      let x := s.circuit c
      let cfg := x.config
      let z := s.control c
      let o := s.outlet (lineOutlet c)
      let breaking := z.settings.use = .lineBreak ∧ (z.phase = .counting ∨ z.phase = .holding)
      let due := x.state = .opened ∧ z.fillOwed = true ∧ o.state = .idle ∧ x.sending = none
        ∧ ¬breaking
      let started : Code → SendOwner → LineChar := fun code owner =>
        { code := code, owner := owner, n := cfg.n, stop := cfg.stop, polarity := cfg.polarity }
      (x.sending = none → exec (.characterSent c) s = .next s)
      ∧ (x.sending ≠ none → exec (.characterSent c) s = .next (settle
        { s with circuits := s.circuits.set c { x with
          sending := none, counts := { x.counts with sent := inc x.counts.sent } } }))
      ∧ (¬due → exec (.timeFill c) s = .next s)
      ∧ (due → exec (.timeFill c) s = .next { s with
          circuits := s.circuits.set c { x with sending := some (started 31#5 .fill) }
          controls := s.controls.set c { z with fillOwed := false }
          outlets := s.outlets.set (lineOutlet c) { o with shiftOwed := true } })
      ∧ (∀ code owner, x.startChar code owner = started code owner)
      ∧ (x.sending = none → s.lineDrive c = .steady (level cfg.polarity
          (if x.state ≠ .closed ∧ breaking then .space else .mark)))
      ∧ ∀ y, x.sending = some y →
        let bit : Nat → Signal := fun i => signal (y.code.getLsbD (i - 1))
        let stop := match y.stop with
          | .one => y.n
          | .oneAndHalf => 3 * y.n / 2
          | .two => 2 * y.n
        s.lineDrive c = .elements
          [(level y.polarity .space, y.n), (level y.polarity (bit 1), y.n),
            (level y.polarity (bit 2), y.n), (level y.polarity (bit 3), y.n),
            (level y.polarity (bit 4), y.n), (level y.polarity (bit 5), y.n),
            (level y.polarity .mark, stop)])
    ∧ ∀ p : Fin 8,
      let x := s.port p
      (x.sending = none → exec (.terminalCharacterSent p) s = .next s)
      ∧ (x.sending ≠ none → exec (.terminalCharacterSent p) s = .next (settle
        { s with ports := s.ports.set p { x with
          sending := none, counts := { x.counts with sent := inc x.counts.sent } } }))
      ∧ (∀ ch, x.startChar ch
          = { char := ch, orphan := false, speed := x.config.speed, parity := x.config.parity })
      ∧ (x.sending = none → s.terminalDrive p = .steady .mark)
      ∧ ∀ y, x.sending = some y →
        let bit : Nat → Signal := fun i => signal (y.char.getLsbD (i - 1))
        let data := [bit 1, bit 2, bit 3, bit 4, bit 5, bit 6, bit 7]
        let baud := match y.speed with
          | .baud300 => 300
          | .baud600 => 600
          | .baud1200 => 1200
          | .baud2400 => 2400
          | .baud4800 => 4800
          | .baud9600 => 9600
        ∃ ticks, ticks * baud = 1228800
          ∧ (y.parity = .off → s.terminalDrive p
              = .elements ((Signal.space :: data ++ [Signal.mark]).map (fun e => (e, ticks))))
          ∧ (y.parity ≠ .off → ∃ check : Signal,
              ((data ++ [check]).count .mark % 2 = if y.parity = .even then 0 else 1)
              ∧ s.terminalDrive p
                = .elements ((Signal.space :: data ++ [check, .mark]).map (fun e => (e, ticks))))

/-! ## Control units -/

/-- COUNTER_ACTION in its eight actions and OUTPUT_SET: the checks in order, the settings written, the
phase, value and wave the action enters with; a selector written whole (R145 to R147, R152). Readings of
the model: a row changes nothing where ARG0 names another action (log 1), the order of the checks where
an argument is out of range (log 14), a fill owed cleared by FORCE_IDLE on an IDLE counter too (log 36).
The outlets then react in the model's order (DESIGN CHOICE, log 8). -/
def Obligations.CounterActionsAndSelectorsAreTaken : Prop :=
  ∀ s : State,
    (∀ p ∈ ([(.counterActionIdle, .idle), (.counterActionOnce, .once),
        (.counterActionRepeat, .repeated), (.counterActionDelayedOnce, .delayedOnce),
        (.counterActionDelayedRepeat, .delayedRepeat), (.counterActionHold, .hold),
        (.counterActionRelease, .release), (.counterActionForceIdle, .forceIdle)] :
        List (Instr × CounterAction)),
      let i := p.1
      let a := p.2
      (8 ≤ loByte (s.arg 0) → exec i s = .next (s.refuse 20 .badArgument))
      ∧ (loByte (s.arg 0) < 8 → actions[loByte (s.arg 0)]? ≠ some a → exec i s = .next s)
      ∧ (actions[loByte (s.arg 0)]? = some a → 16 ≤ hiByte (s.arg 0) →
          exec i s = .next (s.refuse 20 .badArgument))
      ∧ (actions[loByte (s.arg 0)]? = some a → ∀ c : Fin 16, hiByte (s.arg 0) = c.val →
        let y := s.control c
        let done : Control → Prop := fun z => exec i s = .next
          ((settle { s with controls := s.controls.set c z }).answer 20 .ok)
        let idle : Control := { y with
          phase := .idle, value := 0, wave := y.settings.startLevel }
        (a = .release → y.phase ≠ .holding → exec i s = .next (s.refuse 20 .badState))
        ∧ (a = .release → y.phase = .holding → done idle)
        ∧ (a = .forceIdle → done { idle with firstPass := false, fillOwed := false })
        ∧ (a ≠ .release → a ≠ .forceIdle →
          (counterSettingsOf s.regs.args = none → exec i s = .next (s.refuse 20 .badArgument))
          ∧ ∀ x, counterSettingsOf s.regs.args = some x →
            let begun : Control := { y with settings := x, action := a, wave := x.startLevel }
            let counting : Control := { begun with
              phase := .counting, value := 0,
              wave := if 0 ∈ x.inEffect then x.startLevel.flip else x.startLevel }
            let delayed : Control := if x.delay = 0 then counting
              else { begun with phase := .delay, value := 0 }
            x.valid = true
            ∧ (y.phase ≠ .idle → exec i s = .next (s.refuse 20 .badState))
            ∧ (y.phase = .idle → a ≠ .idle → (s.circuit c).state = .closed →
                exec i s = .next (s.refuse 20 .badState))
            ∧ (y.phase = .idle → a = .idle → done begun)
            ∧ (y.phase = .idle → (s.circuit c).state ≠ .closed →
              (a = .once ∨ a = .repeated → done counting)
              ∧ (a = .delayedOnce → done delayed)
              ∧ (a = .delayedRepeat → done { delayed with firstPass := true })
              ∧ (a = .hold → done { begun with
                  phase := .holding, value := 0,
                  wave := if x.inEffect.length % 2 = 0 then x.startLevel
                    else x.startLevel.flip })))))
    ∧ (16 ≤ (s.arg 0).toNat ∨ 2 ≤ (s.arg 1).toNat ∨ selectorOf s.regs.args = none →
        exec .outputSet s = .next (s.refuse 21 .badArgument))
    ∧ ∀ (c : Fin 16) (x : Selector), (s.arg 0).toNat = c.val → selectorOf s.regs.args = some x →
      ((s.arg 1).toNat = 0 → exec .outputSet s = .next ((settle
        { s with controls := s.controls.set c { s.control c with motorSel := x } }).answer 21 .ok))
      ∧ ((s.arg 1).toNat = 1 → exec .outputSet s = .next ((settle
        { s with controls := s.controls.set c { s.control c with signalSel := x } }).answer 21 .ok))

/-- A character time moves the motor sequencer and the control counter it belongs to; the rows that name
one completion are that character time where it makes the completion, and nothing elsewhere (log 1); the
toggle positions in effect are the strictly rising start of the list (R141, R142, R146, R147, R150).
Whose character time it is is the row's operand (log 6), no fill is owed on an outlet that is OFF (log
18), and the motor's count and target stand while it is RUNNING (log 19). The outlets then react in the
model's order (DESIGN CHOICE, log 8). -/
def Obligations.CharacterTimesDriveMotorAndCounter : Prop :=
  (∀ (l : List Nat) (n : Nat), n ∈ togglesInEffect l ↔
    ∃ a b, l = a ++ n :: b ∧ (a ++ [n]).Pairwise (· < ·))
  ∧ ∀ (s : State) (c : Fin 16),
    let x := s.control c
    let toggled : Control → Level → Level := fun y w =>
      if y.value ∈ y.settings.inEffect then w.flip else w
    let begin_ : Control → Control := fun y => { y with
      phase := .counting, value := 0,
      wave := if 0 ∈ y.settings.inEffect then y.settings.startLevel.flip
        else y.settings.startLevel }
    let motored : Control → Control := fun y => match y.motor with
      | .off | .running => y
      | .starting => { y with
          motorCount := y.motorCount + 1
          motor := if y.motorTarget ≤ y.motorCount + 1 then .running else .starting }
      | .runOn => if y.motorTarget ≤ y.motorCount + 1
          then { y with motor := .off, motorCount := 0, motorTarget := 0 }
          else { y with motorCount := y.motorCount + 1 }
    let onward : Control → Control := fun y => match y.action with
      | .repeated => begin_ y
      | .delayedRepeat => if y.settings.skip = true ∨ y.settings.delay = 0 then begin_ y
          else { y with phase := .delay, value := 0, wave := y.settings.startLevel }
      | .idle | .once | .delayedOnce | .hold | .release | .forceIdle =>
          { y with phase := .idle, value := 0, wave := y.settings.startLevel }
    let counted : Control → Control := fun y => match y.phase with
      | .idle | .holding => y
      | .delay => if y.settings.delay ≤ y.value + 1 then begin_ y
          else { y with value := y.value + 1 }
      | .counting =>
          let up : Control := { y with value := y.value + 1 }
          let z : Control := { up with wave := toggled up y.wave }
          if y.settings.max ≤ y.value + 1 then
            onward { z with
              firstPass := false
              fillOwed := if y.settings.use = .fill ∧ (s.outlet (lineOutlet c)).state ≠ .off
                then true else y.fillOwed }
          else z
    let after : Instr → Control → Prop := fun i y =>
      exec i s = .next (settle { s with controls := s.controls.set c y })
    after (.characterTimeCompleted c .motor) (motored x)
    ∧ after (.characterTimeCompleted c .counter) (counted x)
    ∧ after (.characterTimeCompleted c .both) (counted (motored x))
    ∧ ∀ p ∈ ([
        (.motorLeadComplete c, x.motor = .starting ∧ x.motorTarget ≤ x.motorCount + 1, motored x),
        (.runOnComplete c, x.motor = .runOn ∧ x.motorTarget ≤ x.motorCount + 1, motored x),
        (.delayComplete c, x.phase = .delay ∧ x.settings.delay ≤ x.value + 1, counted x),
        (.countComplete c, x.phase = .counting ∧ x.settings.max ≤ x.value + 1, counted x),
        (.counterToggle c, x.phase = .counting ∧ x.value + 1 ∈ x.settings.inEffect, counted x)] :
        List (Instr × Prop × Control)),
      (p.2.1 → after p.1 p.2.2) ∧ (¬p.2.1 → exec p.1 s = .next s)

/-! ## Terminals -/

/-- TERMINAL_SET in its three cases: refused where an argument is outside its range; enabling begins the
port and its outlet afresh, reconfiguring keeps its traffic, disabling takes it out of service (R44 to
R47, R117, R118). A row whose case is not the one the enable word and the port make changes nothing (log
1). The outlets then react in the model's order (DESIGN CHOICE, log 8). -/
def Obligations.TerminalSetEnablesReconfiguresAndDisables : Prop :=
  ∀ s : State,
    (8 ≤ (s.arg 0).toNat ∨ portConfigOf s.regs.args = none →
      ∀ i ∈ ([.terminalSetEnable, .terminalSetReconfigure, .terminalSetDisable] : List Instr),
        exec i s = .next (s.refuse 22 .badArgument))
    ∧ ∀ (t : Fin 8) (cfg : PortConfig), (s.arg 0).toNat = t.val →
      portConfigOf s.regs.args = some cfg →
      let x := s.port t
      let o := terminalOutlet t
      let fresh := if x.rxMark then PortPhase.hunting else PortPhase.waitMark
      cfg.valid = true
      ∧ (cfg.enable = true → x.enabled = false →
        exec .terminalSetReconfigure s = .next s ∧ exec .terminalSetDisable s = .next s
        ∧ exec .terminalSetEnable s = .next ((settle { s with
            ports := s.ports.set t { x with
              enabled := true, config := cfg, rxPhase := fresh, requestMode := false,
              afterRequest := false, queue := [], readyOut := .high, readyIn := x.readyPin,
              sending := none, replySlot := none, counts := {} }
            outlets := s.outlets.set o { s.outlet o with
              state := if x.readyPin = .high then .idle else .paused, column := 0,
              stalls := 0 } }).answer 22 .ok))
      ∧ (cfg.enable = true → x.enabled = true →
        exec .terminalSetEnable s = .next s ∧ exec .terminalSetDisable s = .next s
        ∧ exec .terminalSetReconfigure s = .next ((settle { s with
            ports := s.ports.set t { x with config := cfg, rxPhase := fresh } }).answer 22 .ok))
      ∧ (cfg.enable = false →
        exec .terminalSetEnable s = .next s ∧ exec .terminalSetReconfigure s = .next s
        ∧ (x.enabled = false → exec .terminalSetDisable s = .next ((settle
            { s with ports := s.ports.set t { x with config := cfg } }).answer 22 .ok))
        ∧ (x.enabled = true → ∃ u : State,
          exec .terminalSetDisable s = .next ((settle u).answer 22 .ok)
          ∧ s.LeftService u (.terminal t) [] ∧ u.parser t = {}
          ∧ u.port t = { x with
              enabled := false, config := cfg, rxPhase := .idle, requestMode := false,
              afterRequest := false, queue := [], readyOut := .low, sending := none,
              replySlot := none }))

/-- The edges of a terminal's receive input, and the stop sample of a character: counted by its stop bit
and its parity, replaced by "?" where it fails, and sorted by the first step that claims it: dropped,
the LF after a request, the request being collected, the request lead, the input queue (R48 to R52,
R154). A row that is not due changes nothing (log 1), and the level of the input moves in every state of
the port (log 2). The outlets then react in the model's order (DESIGN CHOICE, log 8). -/
def Obligations.TerminalCharactersAreFramedCheckedAndSorted : Prop :=
  ∀ (s : State) (t : Fin 8),
    let x := s.port t
    let hears := x.enabled = true ∧ x.rxPhase = .inCharacter
    (exec (.terminalStartEdge t) s = .next (if x.rxMark then
        { s with ports := s.ports.set t { x with
          rxMark := false
          rxPhase := if x.enabled = true ∧ x.rxPhase = .hunting then .inCharacter
            else x.rxPhase } }
      else s))
    ∧ (hears → exec (.terminalFalseStart t) s = .next
        { s with ports := s.ports.set t { x with rxMark := true, rxPhase := .hunting } })
    ∧ (¬hears → exec (.terminalFalseStart t) s = .next s)
    ∧ exec (.terminalMarkReturn t) s = .next
        { s with ports := s.ports.set t { x with
          rxMark := true
          rxPhase := if x.enabled = true ∧ x.rxPhase = .waitMark then .hunting
            else x.rxPhase } }
    ∧ ∀ (data : Office) (bit : Bool) (stop : Signal),
      let marks := ((List.range 7).filter (fun i => data.getLsbD i)).length + bit.toNat
      let bad := (x.config.parity = .even ∧ marks % 2 = 1)
        ∨ (x.config.parity = .odd ∧ marks % 2 = 0)
      let n := x.counts
      let heard : Port := { x with
        rxMark := decide (stop = .mark)
        rxPhase := if stop = .mark then .hunting else .waitMark
        counts := if stop = .space then { n with framingErrors := inc n.framingErrors }
          else if bad then
            { n with received := inc n.received, parityErrors := inc n.parityErrors }
          else { n with received := inc n.received } }
      let ch := if stop = .mark ∧ ¬bad then data else query
      let i := Instr.terminalCharacterReceived t data bit stop
      let after : State → Prop := fun u => exec i s = .next (settle u)
      let with_ : Port → State := fun y => { s with ports := s.ports.set t y }
      let dropped := (ch.toNat < 32 ∨ ch.toNat = 127) ∧ ch ≠ cr ∧ ch ≠ lf ∧ ch ≠ bel ∧ ch ≠ lead
      let y : Port := { heard with afterRequest := false }
      (¬hears → exec i s = .next s)
      ∧ (hears → dropped → after (with_ { heard with
          counts := { heard.counts with dropped := inc heard.counts.dropped } }))
      ∧ (hears → ¬dropped → x.afterRequest = true → ch = lf → after (with_ y))
      ∧ (hears → ¬dropped → ¬(x.afterRequest = true ∧ ch = lf) →
        (x.requestMode = true → ch = cr → after (completeRequest t
          (with_ { y with requestMode := false, afterRequest := true })))
        ∧ (x.requestMode = true → ch ≠ cr → after { with_ y with
            parsers := s.parsers.set t (if (s.parser t).buffer.length < 32
              then { s.parser t with buffer := (s.parser t).buffer ++ [ch] }
              else { s.parser t with overflow := true }) })
        ∧ (x.requestMode = false → ch = lead → after { with_ { y with requestMode := true } with
            parsers := s.parsers.set t { buffer := [lead], overflow := false } })
        ∧ (x.requestMode = false → ch ≠ lead → x.queue.length < 16 → after (with_ { y with
            queue := x.queue ++ [ch]
            readyOut := if 11 ≤ x.queue.length then .low
              else if x.queue.length ≤ 3 then .high else x.readyOut }))
        ∧ (x.requestMode = false → ch ≠ lead → 16 ≤ x.queue.length →
          after { with_ { y with
              counts := { heard.counts with overruns := inc heard.counts.overruns } } with
            notices := (s.raise .terminalOverrun).notices }))

/-- A terminal's framer takes the head of its queue only while its port is ENABLED, its story, if it has
one, is in HEADER or RUNNING and no write is outstanding; a character whose write finds no room stays at
the head, the write is outstanding and blocked-since is set (R51, R52, R57, R65 to R67, R85). A framer
matching a closer in DISCARD, which has no story, takes at once (DEDUCED, log 16). The outlets then
react in the model's order (DESIGN CHOICE, log 8). -/
def Obligations.FramersTakeQueuedCharactersOrAreRefused : Prop :=
  ∀ (s : State) (t : Fin 8),
    let x := s.port t
    let f := framerOf (.terminal t) s
    let free := x.enabled = true ∧ f.outstanding = none
      ∧ ∀ k, f.slot = some k → (s.story k).state = .header ∨ (s.story k).state = .running
    exec (.framerTake t) s = .next (settle (takeHead t s))
    ∧ (x.queue = [] ∨ ¬free → takeHead t s = s)
    ∧ ∀ ch rest, x.queue = ch :: rest → free →
      let write : Option (List Office) := match f.state with
        | .inStory => if (f.lineEnd = true ∧ ch = lf) ∨ (ch = office 'E' ∧ f.lineStart = true)
            then none else some [ch]
        | .closerMatch => if closer[f.holdBack.length]? = some ch then none
            else some (f.holdBack ++ [ch])
        | .idle | .openerMatch | .header | .discard => none
      let taken := takeChar (.terminal t) ch { s with ports := s.ports.set t { x with
        queue := rest
        readyOut := if 12 ≤ rest.length then .low else if rest.length ≤ 4 then .high
          else x.readyOut } }
      (f.slot = none ∨ write = none → takeHead t s = taken)
      ∧ ∀ k chs, f.slot = some k → write = some chs →
        let st := s.story k
        let room := ∀ e ∈ st.entries, e.state.live = true →
          st.taken + min chs.length (65535 - st.taken) ≤ e.read + 128
        (room → takeHead t s = taken)
        ∧ (¬room → takeHead t s = { s with
            framers := s.framers.set (Source.terminal t).index { f with outstanding := some chs }
            stories := if st.blockedSince = none then s.stories.set k { st with
                blockedSince := some s.regs.clock, blockTimer := some 0, changed := true }
              else s.stories })

/-- The ready input of a terminal moves its outlet between PAUSED, STALLED and going on, and the stall
timer, when it is due, cuts every live entry of the outlet, empties it and the reply slot, and raises
DEST_CUT once (R43, R53, R117, R137, R138). A stall that is not due changes nothing (log 1), its expiry
is a row of its own, due once the elapsed time has reached the limit (log 5), and the character on the
line goes on as one whose unit is gone (log 20). The outlets then react in the model's order (DESIGN
CHOICE, log 8). -/
def Obligations.ReadyInAndStallsMoveTheTerminalOutlet : Prop :=
  ∀ (s : State) (t : Fin 8),
    let x := s.port t
    let o := terminalOutlet t
    let y := s.outlet o
    let due := y.state = .paused ∧ ∃ e, y.stallTimer = some e ∧ x.config.stallTime ≤ e
    let free := ∀ j, (framerOf (.terminal j) s).outstanding = none
    (x.enabled = false →
      exec (.readyInRises t) s = .next { s with ports := s.ports.set t { x with readyPin := .high } }
      ∧ exec (.readyInFalls t) s
        = .next { s with ports := s.ports.set t { x with readyPin := .low } })
    ∧ (x.enabled = true →
      exec (.readyInRises t) s = .next (settle { s with
        ports := s.ports.set t { x with readyPin := .high, readyIn := .high }
        outlets := s.outlets.set o { y with
          state := if y.state = .stalled then .idle else y.state } })
      ∧ exec (.readyInFalls t) s = .next (settle { s with
        ports := s.ports.set t { x with readyPin := .low, readyIn := .low }
        outlets := s.outlets.set o { y with
          state := if y.state = .idle ∨ y.state = .sending then .paused else y.state } }))
    ∧ (¬due → exec (.stall t) s = .next s)
    ∧ (due → ∃ u : State, exec (.stall t) s = .next (settle u)
      ∧ (∀ k, ∀ e ∈ (s.story k).entries, e.outlet = o → e.state.live = true →
        ({ e with state := .cut .stall, lost := (s.story k).taken - e.read, holdMark := false,
                  owed := .none } : Entry) ∈ (u.story k).entries)
      ∧ (∀ k, (u.story k).liveOn o = false)
      ∧ (∀ k, (s.story k).liveOn o = false → u.story k = s.story k)
      ∧ (free → ∀ k, (s.story k).liveOn o = true →
        let z : Story := { s.story k with
          changed := true
          entries := (s.story k).entries.map (fun e => if e.outlet = o then
            { e with state := .cut .stall, lost := (s.story k).taken - e.read, holdMark := false,
                     owed := .none } else e) }
        u.story k = if z.state = .closing ∧ z.anyLive = false
          then { z with state := .closed, closed := some s.regs.clock } else z)
      ∧ u.outlet o = { y with
          state := .stalled, holder := none, waiting := [], owed := [], unit := none,
          answerbackOwed := false, counterBreak := false, farBreak := false, stallTimer := none,
          stalls := inc y.stalls }
      ∧ (∀ j, j ≠ o → u.outlet j = s.outlet j)
      ∧ (u.port t).replySlot = none ∧ (u.port t).setting = x.setting
      ∧ (u.port t).sending = x.sending.map (fun z => { z with orphan := true })
      ∧ (free → u.port t = { x with
          replySlot := none, sending := x.sending.map (fun z => { z with orphan := true }) })
      ∧ (∀ j, j ≠ t → (s.port j).Reacted (u.port j)
        ∧ (u.port j).sending = (s.port j).sending
        ∧ ((framerOf (.terminal j) s).outstanding = none →
          u.port j = s.port j ∧ framerOf (.terminal j) u = framerOf (.terminal j) s))
      ∧ u.flagSet .destCut = true
      ∧ (∀ f, f ≠ .destCut → f ≠ .storyClosed → u.flagSet f = s.flagSet f)
      ∧ u = { s with circuits := u.circuits, ports := u.ports, framers := u.framers,
                     stories := u.stories, outlets := u.outlets, notices := u.notices }
      ∧ ∀ c, u.circuit c = s.circuit c ∧ framerOf (.circuit c) u = framerOf (.circuit c) s)

/-! ## Desk requests -/

/-- A request line is judged for form: it reads as one of the nine requests exactly where it is written
so, an overflow is never well formed, and a CR that ends a line of no form answers NO FORM, or, where
the reply slot holds a line, counts the request as busy and discards it (R154, R155, R157). The rows are
the stop sample of a good CR, and change nothing where it is another row's or not due (DEDUCED, logs 1
and 7). The outlets then react in the model's order (DESIGN CHOICE, log 8). -/
def Obligations.RequestLinesAreReadOrRefused : Prop :=
  (∀ (p : Parser) (r : Request), parseRequest p = some r ↔ p.overflow = false ∧ ∃ z : Office,
    let number : List Office → Nat → Prop := fun ds n => 1 ≤ ds.length ∧ ds.length ≤ 4
      ∧ (∀ d ∈ ds, isDigit d = true) ∧ ds.foldl (fun v d => 10 * v + (d.toNat - 48)) 0 = n ∧ n ≠ 0
    let reads : Char → Nat → List Office → Prop := fun l n more =>
      ∃ ds, number ds n ∧ p.buffer = z :: office l :: space :: ds ++ more
    match r with
    | .statusNumber n => reads 'S' n []
    | .statusSlug cs => p.buffer = z :: office 'S' :: space :: cs ∧ 1 ≤ cs.length ∧ cs.length ≤ 20
        ∧ (∀ c ∈ cs, isCapital c = true ∨ isDigit c = true ∨ c = office '-')
        ∧ (4 < cs.length ∨ ∃ c ∈ cs, isDigit c = false)
    | .list => p.buffer = [z, office 'L']
    | .hold n => reads 'H' n []
    | .release n => reads 'G' n []
    | .kill n => reads 'K' n []
    | .join n => reads 'J' n []
    | .leave n => reads 'X' n []
    | .priority n q => reads 'P' n [space, q.letter])
  ∧ ∀ (s : State) (t : Fin 8),
    let x := s.port t
    let ends := x.enabled = true ∧ x.rxPhase = .inCharacter ∧ x.requestMode = true
    let heard : Port := { x with
      rxMark := true, rxPhase := .hunting, requestMode := false, afterRequest := true,
      counts := { x.counts with received := inc x.counts.received } }
    let noForm := ends ∧ x.replySlot = none ∧ parseRequest (s.parser t) = none
    let busy := ends ∧ x.replySlot ≠ none
    (noForm → exec (.noForm t) s = .next (settle
      { s with
        ports := s.ports.set t { heard with
          replySlot := some (text ['N', 'O', ' ', 'F', 'O', 'R', 'M']) }
        parsers := s.parsers.set t {} }))
    ∧ (¬noForm → exec (.noForm t) s = .next s)
    ∧ (busy → exec (.requestBusy t) s = .next (settle
      { s with
        ports := s.ports.set t { heard with
          counts := { heard.counts with requestBusy := inc heard.counts.requestBusy } }
        parsers := s.parsers.set t {} }))
    ∧ (¬busy → exec (.requestBusy t) s = .next s)

/-- The CR that completes a well-formed request into an empty reply slot: the checks of R156 in order
and each request's own, the reply line, the claim made on the story, DESK_REQUEST where a record changed
(R156, R158 to R163). What holding, releasing, killing, adding and cutting do is said of the host
commands' own statements. A row whose request is not the one completed changes nothing, and the CR is a
good one (DEDUCED, logs 1 and 7). The outlets then react in the model's order (DESIGN CHOICE, log 8). -/
def Obligations.DeskRequestsAreJudgedAndAnswered : Prop :=
  (∀ n, n ≤ 65535 →
    (∀ d ∈ fourDigits n ++ decimal n, isDigit d = true) ∧ (fourDigits n).length = 4
    ∧ (n ≤ 9999 → digitsValue (fourDigits n) = n) ∧ digitsValue (decimal n) = n
    ∧ (n < 10 → (decimal n).length = 1) ∧ (10 ≤ n → (decimal n).head? ≠ some (office '0')))
  ∧ ∀ (s : State) (t : Fin 8),
    let x := s.port t
    let o := terminalOutlet t
    let rank := x.config.authority.rank
    let ready := x.enabled = true ∧ x.rxPhase = .inCharacter ∧ x.requestMode = true
      ∧ x.replySlot = none
    let r := parseRequest (s.parser t)
    let heard : State := { s with ports := s.ports.set t { x with
      rxMark := true, rxPhase := .hunting, requestMode := false, afterRequest := true,
      counts := { x.counts with received := inc x.counts.received } } }
    let answer : Instr → State → List Office → Bool → Prop := fun i w line changed =>
      exec i s = .next (settle { w with
        ports := w.ports.set t { w.port t with replySlot := some line }
        parsers := w.parsers.set t {}
        notices := if changed then (w.raise .deskRequest).notices else w.notices })
    let no : Instr → List Char → Prop := fun i why =>
      answer i heard (text (['N', 'O', ' '] ++ why)) false
    let named : Instr → Nat → Nat → (Fin 48 → Prop) → Prop := fun i least n j =>
      (rank < least → no i ['A', 'U', 'T', 'H'])
      ∧ (least ≤ rank → (s.findNumber n = none → no i ['S', 'T', 'O', 'R', 'Y'])
        ∧ ∀ k, s.findNumber n = some k → j k)
    let source : List Char := ['S', 'O', 'U', 'R', 'C', 'E']
    let state_ : List Char := ['S', 'T', 'A', 'T', 'E']
    let route : List Char := ['R', 'O', 'U', 'T', 'E']
    let own : Fin 48 → Prop := fun k => (s.story k).source = .terminal t
    let ok : Fin 48 → List Office := fun k => text ['O', 'K', ' '] ++ fourDigits (s.story k).number
    let open_ : Fin 48 → Prop := fun k =>
      (s.story k).state = .running ∨ (s.story k).state = .held ∨ (s.story k).state = .closing
    let up := (s.outlet o).state ≠ .off ∧ (s.outlet o).state ≠ .stalled
    let shown : Option (List Office) → List Office := fun f => f.getD [office '-']
    let stateName : StoryState → List Char := fun y => match y with
      | .free => ['F', 'R', 'E', 'E']
      | .header => ['H', 'E', 'A', 'D', 'E', 'R']
      | .running => ['R', 'U', 'N', 'N', 'I', 'N', 'G']
      | .held => ['H', 'E', 'L', 'D']
      | .closing => ['C', 'L', 'O', 'S', 'I', 'N', 'G']
      | .closed => ['C', 'L', 'O', 'S', 'E', 'D']
    let status : Fin 48 → List Office := fun k =>
      let st := s.story k
      text ['S', 'T', 'A', 'T', 'U', 'S', ' '] ++ fourDigits st.number ++ [space]
        ++ shown (st.priority.map (fun q => [q.letter])) ++ [space]
        ++ shown (st.desk.map (fun d => [d.first, d.second])) ++ [space] ++ shown st.slug ++ [space]
        ++ text (stateName st.state) ++ [space] ++ decimal st.taken ++ [space] ++ decimal st.lines
    let mine := (s.openOrder.filter (fun k => (s.story k).liveOn o)).take 8
    (∀ p ∈ ([(.sRequest t, isStatus r), (.lRequest t, isList r), (.hRequest t, isHold r),
        (.gRequest t, isRelease r), (.kRequest t, isKill r), (.pRequest t, isPriority r),
        (.jRequest t, isJoin r), (.xRequest t, isLeave r)] : List (Instr × Bool)),
      ¬ready ∨ p.2 = false → exec p.1 s = .next s)
    ∧ (ready →
      (∀ n, r = some (.statusNumber n) →
        (s.findNumber n = none → no (.sRequest t) ['S', 'T', 'O', 'R', 'Y'])
        ∧ ∀ k, s.findNumber n = some k → answer (.sRequest t) heard (status k) false)
      ∧ (∀ cs, r = some (.statusSlug cs) →
        ((∀ k ∈ s.openOrder, (s.story k).slug ≠ some cs) →
          no (.sRequest t) ['S', 'T', 'O', 'R', 'Y'])
        ∧ ∀ a k b, s.openOrder = a ++ k :: b → (s.story k).slug = some cs →
          (∀ j ∈ b, (s.story j).slug ≠ some cs) → answer (.sRequest t) heard (status k) false)
      ∧ (r = some .list → answer (.lRequest t) heard
          (text ['L', 'I', 'S', 'T'] ++ if mine = [] then text [' ', 'N', 'O', 'N', 'E']
            else mine.flatMap (fun k => space :: fourDigits (s.story k).number)) false)
      ∧ (∀ n, r = some (.hold n) → named (.hRequest t) 1 n (fun k =>
        (¬own k → no (.hRequest t) source)
        ∧ (own k → (s.story k).state ≠ .running → no (.hRequest t) state_)
        ∧ (own k → (s.story k).state = .running →
          answer (.hRequest t) (holdStory k (.terminal t) heard) (ok k) true)))
      ∧ (∀ n, r = some (.release n) → named (.gRequest t) 1 n (fun k =>
        (¬own k → no (.gRequest t) source)
        ∧ (own k → (s.story k).state ≠ .held → no (.gRequest t) state_)
        ∧ (own k → (s.story k).state = .held →
          answer (.gRequest t) (releaseStory k heard) (ok k) true)))
      ∧ (∀ n, r = some (.kill n) → named (.kRequest t) 1 n (fun k =>
        (¬own k → rank < 2 → no (.kRequest t) source)
        ∧ (own k ∨ rank = 2 → (s.story k).state = .closed → no (.kRequest t) state_)
        ∧ (own k ∨ rank = 2 → (s.story k).state ≠ .closed →
          answer (.kRequest t) (killStory k (some t) heard) (ok k) true)))
      ∧ (∀ n q, r = some (.priority n q) → named (.pRequest t) 2 n (fun k =>
        (¬open_ k → no (.pRequest t) state_)
        ∧ (open_ k → (s.story k).priority = some q → answer (.pRequest t) heard (ok k) false)
        ∧ (open_ k → (s.story k).priority ≠ some q → answer (.pRequest t)
          { heard with stories := s.stories.set k { s.story k with
              priority := some q, changed := true } } (ok k) true)))
      ∧ (∀ n, r = some (.join n) → named (.jRequest t) 1 n (fun k =>
        let present := ∃ e ∈ (s.story k).entries, e.outlet = o
        (¬open_ k → no (.jRequest t) state_)
        ∧ (open_ k → present ∨ ¬up → no (.jRequest t) route)
        ∧ (open_ k → ¬present → up →
          answer (.jRequest t) (addOutlet k o heard) (ok k) true)))
      ∧ (∀ n, r = some (.leave n) → named (.xRequest t) 0 n (fun k =>
        let present := ∃ e ∈ (s.story k).entries, e.outlet = o
        let past := (s.story k).state = .header ∨ (s.story k).state = .closed
        (past → no (.xRequest t) state_)
        ∧ (¬past → ¬present → no (.xRequest t) route)
        ∧ (¬past → present → (s.story k).liveOn o = false → no (.xRequest t) state_)
        ∧ (¬past → (s.story k).liveOn o = true →
          answer (.xRequest t) (cutEntry k o .removed heard) (ok k) true))))

/-! ## Stories in time -/

/-- IDLE_EXPIRY and BLOCK_LIMIT_EXPIRY, each when it is due: a header ended by silence is closed
HEADER_FAULT, a RUNNING story has the characters its framer held back written, or counted as loose copy
where a terminal's window lacks the room, and goes to CLOSING, and the entries that hold back a write
are cut BLOCK_LIMIT and the write taken (R9, R67, R69, R79, R82, R85, R86, R88, R89). What a completed
write does is said of `completeWrite` with the text. A row that is not due changes nothing (log 1), an
expiry is a row of its own, due once the elapsed time has reached its limit (log 5), and the framer's
line-end mark stays (log 24). The outlets then react in the model's order (DESIGN CHOICE, log 8). -/
def Obligations.StoryTimersEndHeadersStoriesAndBlocks : Prop :=
  ∀ (s : State) (k : Fin 48),
    let x := s.story k
    let src := x.source
    let f := framerOf src s
    let limit := match src with
      | .circuit c => (s.circuit c).config.idleLimit
      | .terminal t => (s.port t).config.idleLimit
    let idleDue := ∃ e, x.idleTimer = some e ∧ limit ≤ e
    let blockDue := ∃ e, x.blockTimer = some e ∧ s.regs.blockLimit ≤ e
    let room : Nat → Prop := fun n => ∀ e ∈ x.entries, e.state.live = true →
      x.taken + min n (65535 - x.taken) ≤ e.read + 128
    let quietened : State → State → Fin 16 → Prop → Prop := fun a u c tested =>
      (tested → u.AtQuietPoint c → ∀ cfg, (a.circuit c).pendingConfig = some cfg →
        u.circuit c = (a.circuit c).configured cfg)
      ∧ (¬tested ∨ ¬u.AtQuietPoint c ∨ (a.circuit c).pendingConfig = none →
        u.circuit c = a.circuit c)
    let ended : State → State → Prop := fun w u =>
      let z := w.story k
      u = { w with
        circuits := u.circuits
        framers := w.framers.set src.index { framerOf src w with
          state := .idle, origin := none, slot := none, holdBack := [], outstanding := none,
          withdrawn := false, lineStart := true, tail := false }
        stories := w.stories.set k { z with
          state := if z.anyLive then .closing else .closed, reason := some .idleEnd
          closed := if z.anyLive then z.closed else some s.regs.clock, idleTimer := none
          blockedSince := none, blockTimer := none, changed := true }
        notices := if z.anyLive then w.notices else (w.raise .storyClosed).notices }
      ∧ ∀ c, quietened w u c (src = .circuit c)
    let withdrawn : State := { s with
      framers := s.framers.set src.index { f with outstanding := none, withdrawn := false } }
    let loose : State := { withdrawn with
      ports := match src with
        | .circuit _ => s.ports
        | .terminal t => s.ports.set t { s.port t with counts := { (s.port t).counts with
            looseCopy := incBy f.holdBack.length (s.port t).counts.looseCopy } } }
    let lags : Nat → Entry → Prop := fun n e => e.state.live = true ∧ e.read + 128 < x.taken + n
    (¬idleDue → exec (.idleExpiry k) s = .next s)
    ∧ (idleDue → x.state ≠ .header → x.state ≠ .running →
      exec (.idleExpiry k) s = .next (settle s))
    ∧ (idleDue → x.state = .header → ∃ u : State, exec (.idleExpiry k) s = .next (settle u)
      ∧ u = { s with
          circuits := u.circuits, ports := u.ports, notices := (s.raise .storyRejected).notices
          framers := s.framers.set src.index { f with
            state := .discard, slot := none, header := [] }
          stories := s.stories.set k { x with
            state := .closed, reason := some .headerFault, closed := some s.regs.clock,
            idleTimer := none, changed := true } }
      ∧ (∀ c, quietened s u c (src = .circuit c))
      ∧ ∀ p, u.port p = if src = .terminal p ∧ (s.port p).enabled = true
            ∧ (s.port p).replySlot = none then
          { s.port p with replySlot := some (text ['N', 'O', ' ', 'H', 'E', 'A', 'D', 'E', 'R',
              '-', 'F', 'A', 'U', 'L', 'T']) }
        else s.port p)
    ∧ (idleDue → x.state = .running →
      let holding := f.slot = some k ∧ f.holdBack ≠ []
      let written := completeWrite src k f.holdBack withdrawn
      (¬holding → ∃ u : State, exec (.idleExpiry k) s = .next (settle u) ∧ ended withdrawn u)
      ∧ (holding → src.isTerminal = true → ¬room f.holdBack.length →
        ∃ u : State, exec (.idleExpiry k) s = .next (settle u) ∧ ended loose u)
      ∧ (holding → src.isTerminal = false ∨ room f.holdBack.length →
        ((written.story k).state ≠ .running → exec (.idleExpiry k) s = .next (settle written))
        ∧ ((written.story k).state = .running →
          ∃ u : State, exec (.idleExpiry k) s = .next (settle u) ∧ ended written u)))
    ∧ (¬blockDue → exec (.blockLimitExpiry k) s = .next s)
    ∧ (blockDue → f.outstanding = none → exec (.blockLimitExpiry k) s = .next (settle s))
    ∧ (blockDue → ∀ chs, f.outstanding = some chs →
      let n := min chs.length (65535 - x.taken)
      let on : Fin 24 → Prop := fun o => ∃ e ∈ x.entries, e.outlet = o ∧ lags n e
      ∃ v : State,
      v = { s with circuits := v.circuits, stories := v.stories, outlets := v.outlets
                   notices := v.notices }
      ∧ (x.entries.Pairwise (fun a b => a.outlet < b.outlet) →
        (∃ e ∈ x.entries, lags n e) → v.story k = { x with
          changed := true
          entries := x.entries.map (fun e =>
            if e.state.live ∧ e.read + 128 < x.taken + n then
              { e with state := .cut .blockLimit, lost := x.taken - e.read, holdMark := false,
                       owed := .none }
            else e) })
      ∧ ((∀ e ∈ x.entries, ¬lags n e) → v = s)
      ∧ ((∃ e ∈ x.entries, lags n e) → v.notices = (s.raise .destCut).notices)
      ∧ (∀ j, j ≠ k → v.story j = s.story j)
      ∧ (∀ o, let y := s.outlet o
          (¬on o → v.outlet o = y)
          ∧ (on o → v.outlet o = { y with
              waiting := y.waiting.filter (fun j => j ≠ k)
              holder := if y.holder = some k then none else y.holder
              owed := if y.state.takesItems then addItem ⟨.cut, k⟩ y.owed else y.owed }))
      ∧ (∀ c, quietened s v c (on (lineOutlet c)))
      ∧ (∀ t, src = .terminal t → f.slot = some k → x.state = .running →
        exec (.blockLimitExpiry k) s = .next (settle (completeWrite (.terminal t) k chs { v with
          stories := v.stories.set k { v.story k with
            idleTimer := (v.story k).idleTimer.map (fun _ => 0) }
          ports := s.ports.set t { s.port t with
            queue := (s.port t).queue.tail
            readyOut := if 12 ≤ (s.port t).queue.tail.length then .low
              else if (s.port t).queue.tail.length ≤ 4 then .high else (s.port t).readyOut } })))
      ∧ (src.isTerminal = false ∨ f.slot ≠ some k ∨ x.state ≠ .running →
        exec (.blockLimitExpiry k) s = .next (settle v)))

/-- A second of the timebase: the clock goes from 86399 to 0, every running timer is a second older, and a
survey's elapsed time rises to its gate (R21, R176; log 5). -/
def Obligations.SecondsAdvanceTheClockAndTheTimers : Prop :=
  ∀ s : State,
    let older : Option Nat → Option Nat := fun e => e.map (· + 1)
    ∃ t, exec .storyClockAdvance s = .next t
      ∧ t = { s with
          regs := { s.regs with
            clock := if s.regs.clock < 86399 then s.regs.clock + 1 else 0 }
          circuits := t.circuits, stories := t.stories, outlets := t.outlets }
      ∧ (∀ c, let x := s.circuit c
          t.circuit c = { x with
            lossTimer := older x.lossTimer, restoreTimer := older x.restoreTimer,
            surveyRec := if x.survey = true
                ∧ x.surveyRec.elapsed < x.surveyRec.gate.seconds.getD 65535
              then { x.surveyRec with elapsed := x.surveyRec.elapsed + 1 } else x.surveyRec })
      ∧ (∀ k, let x := s.story k
          t.story k = { x with
            idleTimer := older x.idleTimer, blockTimer := older x.blockTimer })
      ∧ ∀ o, t.outlet o = { s.outlet o with stallTimer := older (s.outlet o).stallTimer }

/-! ## Opening, routing, writing -/

/-- A framer with no story: each character is loose copy, ignored in a closer line's tail, swallowed as the LF
of a line end, or begins, extends or fails a match of an opener or, in DISCARD, a closer, which ends
discarding; the marks of lines after each (R58 to R60, R66, R68). The fourth letter of an opener claims an
open: the lowest FREE record, else the CLOSED record that stands first in the open order among those no
outlet owes an item for, is put in HEADER with a number no other record carries; with neither the open is
refused, counted, and TABLE_FULL raised (R61, R75, R76, R78). -/
def Obligations.OpenersClaimTheLowestFreeOrOldestClosedRecord : Prop :=
  ∀ (s : State) (src : Source),
    let f := framerOf src s
    f.slot = none →
    let become : Framer → State := fun g => { s with framers := s.framers.set src.index g }
    let loose : Nat → Framer → State := fun n g =>
      { become g with
        circuits := match src with
          | .circuit c => s.circuits.set c { s.circuit c with counts := { (s.circuit c).counts with
              looseCopy := incBy n (s.circuit c).counts.looseCopy } }
          | .terminal _ => s.circuits
        ports := match src with
          | .circuit _ => s.ports
          | .terminal p => s.ports.set p { s.port p with counts := { (s.port p).counts with
              looseCopy := incBy n (s.port p).counts.looseCopy } } }
    (∀ ch : Office,
      let marked : Framer := { f with lineStart := decide (ch = cr ∨ ch = lf), lineEnd := false }
      let swallowed := f.lineEnd = true ∧ ch = lf
      let held := f.holdBack.length
      let failed : Framer := { f with
        state := if f.origin = some .discard then .discard else .idle
        origin := none, holdBack := [], lineStart := false }
      let u := takeChar src ch s
      (f.state = .idle →
        (swallowed → u = become marked)
        ∧ (¬swallowed → ch = office 'N' ∧ f.lineStart = true →
          u = become { marked with state := .openerMatch, origin := some .idle, holdBack := [ch] })
        ∧ (¬swallowed → f.lineStart = false → f.tail = true → u = become { marked with
            tail := !decide (ch = cr ∨ ch = lf), lineEnd := decide (ch = cr) })
        ∧ (¬swallowed → ¬(ch = office 'N' ∧ f.lineStart = true) → f.lineStart = true ∨ f.tail = false →
          u = loose 1 marked))
      ∧ (f.state = .discard →
        (swallowed → u = become marked)
        ∧ (¬swallowed → ch = office 'N' ∧ f.lineStart = true →
          u = become { marked with state := .openerMatch, origin := some .discard, holdBack := [ch] })
        ∧ (¬swallowed → ch = office 'E' ∧ f.lineStart = true →
          u = become { marked with state := .closerMatch, origin := some .discard, holdBack := [ch] })
        ∧ (¬swallowed → ¬((ch = office 'N' ∨ ch = office 'E') ∧ f.lineStart = true) →
          u = loose 1 marked))
      ∧ (f.state = .openerMatch →
        let next := (text ['N', 'R', 'N', 'R'])[held]? = some ch
        (next → held ≠ 3 → u = become { marked with holdBack := f.holdBack ++ [ch] })
        ∧ (¬next → u = takeChar src ch (loose held failed)))
      ∧ (f.state = .closerMatch →
        let next := (text ['E', 'N', 'E', 'N'])[held]? = some ch
        (next → held ≠ 3 → u = become { marked with holdBack := f.holdBack ++ [ch] })
        ∧ (next → held = 3 → u = loose 4 { f with
            state := .idle, origin := none, holdBack := [], tail := true, lineStart := false,
            lineEnd := false })
        ∧ (¬next → u = takeChar src ch (loose held failed))))
    ∧ (s.TableOk → f.state = .openerMatch → f.holdBack = text ['N', 'R', 'N'] →
      let u := takeChar src (office 'R') s
      let owed : Fin 48 → Prop := fun k => ∃ o, ∃ i ∈ (s.outlet o).owed, i.slot = k
      let free : Fin 48 → Prop := fun k => (s.story k).state = .free
        ∧ ∀ j, j < k → (s.story j).state ≠ .free
      let oldest : Fin 48 → Prop := fun k => (∀ j, (s.story j).state ≠ .free)
        ∧ ∃ l r, s.openOrder = l ++ k :: r ∧ (s.story k).state = .closed ∧ ¬owed k
          ∧ ∀ j ∈ l, (s.story j).state = .closed → owed j
      (∀ k, free k ∨ oldest k → ∃ n, 1 ≤ n ∧ n ≤ 9999
        ∧ (∀ j, j ≠ k → (s.story j).state ≠ .free → (s.story j).number ≠ n)
        ∧ ((∀ j, j ≠ k → (s.story j).state ≠ .free → (s.story j).number ≠ s.nextNumber) →
            n = s.nextNumber)
        ∧ (∃ d, n = (s.nextNumber + d - 1) % 9999 + 1 ∧ ∀ e, e < d →
            ∃ j, j ≠ k ∧ (s.story j).state ≠ .free
              ∧ (s.story j).number = (s.nextNumber + e - 1) % 9999 + 1)
        ∧ u = { s with
            framers := s.framers.set src.index { f with
              state := .header, origin := none, lineStart := false, lineEnd := false, holdBack := []
              header := text ['N', 'R', 'N', 'R'], slot := some k }
            stories := s.stories.set k { state := .header, number := n, source := src
                                         opened := s.regs.clock, idleTimer := some 0, changed := true }
            openOrder := s.openOrder.filter (fun j => j ≠ k) ++ [k]
            nextNumber := if n < 9999 then n + 1 else 1 })
      ∧ ((∀ k, ¬free k ∧ ¬oldest k) →
        let v := loose 4 { f with
            state := .discard, origin := none, lineStart := false, lineEnd := false, holdBack := [] }
        u = { v with
          notices := (s.raise .tableFull).notices
          circuits := match src with
            | .circuit c => v.circuits.set c { v.circuit c with counts := { (v.circuit c).counts with
                refusedOpens := inc (s.circuit c).counts.refusedOpens } }
            | .terminal _ => v.circuits
          ports := match src with
            | .circuit _ => v.ports
            | .terminal p => v.ports.set p { v.port p with counts := { (v.port p).counts with
                refusedOpens := inc (s.port p).counts.refusedOpens } } }))

/-- A character that a framer in HEADER takes. Short of a line end it is collected, the 41st being a fault.
The CR or LF judges the line by its form: a fault or a failed route closes the story, and a route by its desk,
its floor and its fallback, or inherited from the story it corrects, creates one WAITING entry per outlet left
in the set and makes the story RUNNING (R9, R62 to R64, R80, R81, R105 to R108). -/
def Obligations.HeadersAreJudgedAndRouted : Prop :=
  (∀ (line : List Office) (h : HeaderFields), parseHeader line = some h ↔
    let number : Nat → List Office → Prop := fun n ds => ds.length = 4
      ∧ (∀ d ∈ ds, isDigit d = true) ∧ digitsValue ds = n ∧ n ≠ 0
    ∃ lead first last : List Office, lead.length = 4
      ∧ line = lead ++ [space] ++ first ++ [h.priority.letter, space, h.desk.first, h.desk.second, space]
          ++ h.slug ++ last
      ∧ isCapital h.desk.first = true ∧ isCapital h.desk.second = true
      ∧ 1 ≤ h.slug.length ∧ h.slug.length ≤ 20
      ∧ (∀ c ∈ h.slug, isCapital c = true ∨ isDigit c = true ∨ c = office '-')
      ∧ (match h.origin with
        | none => first = []
        | some n => ∃ ds, number n ds ∧ first = ds ++ [space])
      ∧ match h.correction with
        | none => last = []
        | some n => ∃ ds, number n ds ∧ last = [space, office 'C', space] ++ ds)
  ∧ (∀ (s : State) (src : Source) (echo : Bool) (o : Fin 24), s.passes src echo o = true ↔
    (o ≠ src.index ∨ echo = true) ∧ (s.outlet o).state ≠ .off ∧ (s.outlet o).state ≠ .stalled
    ∧ (∀ c, o = lineOutlet c → (s.circuit c).state = .opened)
    ∧ (∀ p, o = terminalOutlet p → (s.port p).enabled = true)
    ∧ ∀ c d, src = .circuit c → o = lineOutlet d → (s.circuit d).config.n ≤ (s.circuit c).config.n)
  ∧ ∀ (s : State) (src : Source) (k : Fin 48) (ch : Office), s.Consistent →
    let f := framerOf src s
    let x := s.story k
    f.slot = some k → f.state = .header →
    let u := takeChar src ch s
    let ends := ch = cr ∨ ch = lf
    let closedWith : CloseReason → List Char → Story → Framer → Nat → Prop :=
      fun why words x' g loose =>
        u = { s with
          circuits := u.circuits, ports := u.ports, notices := (s.raise .storyRejected).notices
          framers := s.framers.set src.index { g with state := .discard, slot := none, header := [] }
          stories := s.stories.set k { x' with
            state := .closed, reason := some why, closed := some s.regs.clock, idleTimer := none
            changed := true } }
        ∧ (∀ c, let y := s.circuit c
            let z : Circuit := if src = .circuit c then { y with counts := { y.counts with
                looseCopy := incBy loose y.counts.looseCopy } } else y
            (src = .circuit c → u.AtQuietPoint c → ∀ cfg, y.pendingConfig = some cfg →
              u.circuit c = z.configured cfg)
            ∧ (src ≠ .circuit c ∨ ¬u.AtQuietPoint c ∨ y.pendingConfig = none → u.circuit c = z))
        ∧ ∀ p, let y := s.port p
            u.port p = if src = .terminal p then
              { y with
                counts := { y.counts with looseCopy := incBy loose y.counts.looseCopy }
                replySlot := if y.enabled = true ∧ y.replySlot = none
                  then some (text (['N', 'O', ' '] ++ words)) else y.replySlot }
            else y
    let fault : Framer → Nat → Prop := closedWith .headerFault
      ['H', 'E', 'A', 'D', 'E', 'R', '-', 'F', 'A', 'U', 'L', 'T'] x
    let ended : Framer := { f with header := [], lineStart := true, lineEnd := decide (ch = cr) }
    (¬ends → f.header.length < 40 → u = { s with
      framers := s.framers.set src.index { f with
        header := f.header ++ [ch], lineStart := false, lineEnd := false }
      stories := s.stories.set k { x with idleTimer := some 0 } })
    ∧ (¬ends → 40 ≤ f.header.length → fault { f with lineStart := false, lineEnd := false } 1)
    ∧ (ends → parseHeader f.header = none → fault ended 0)
    ∧ ∀ h, ends → parseHeader f.header = some h →
      let x' : Story := { x with
        origin := h.origin, priority := some h.priority, desk := some h.desk, slug := some h.slug
        correctionOf := h.correction }
      let rejected : CloseReason → List Char → Prop := fun why words => closedWith why words x' ended 0
      let original : Fin 48 → Prop := fun j => j ≠ k ∧ (s.story j).state ≠ .free
        ∧ h.correction = some (s.story j).number ∧ (s.story j).entries ≠ []
      let named : Fin 32 → DeskCode → Prop := fun i d => (∃ e, s.desk i = some e ∧ e.code = d)
        ∧ ∀ j, j < i → ∀ e, s.desk j = some e → e.code ≠ d
      let fallen : Fin 32 → Prop := fun i => (∀ j e, s.desk j = some e → e.code ≠ h.desk)
        ∧ (∃ e, s.desk i = some e ∧ e.isDefault = true)
        ∧ ∀ j, j < i → ∀ e, s.desk j = some e → e.isDefault = false
      let through : List (Fin 24) → Option DeskCode → Vector (Option Desk) 32 → Prop :=
        fun kept routedDesk desks =>
          (kept = [] → rejected .noOutlet ['N', 'O', '-', 'O', 'U', 'T', 'L', 'E', 'T'])
          ∧ (kept ≠ [] → u = { s with
            desks := desks, outlets := u.outlets, notices := (s.raise .storyOpened).notices
            framers := s.framers.set src.index { ended with state := .inStory }
            stories := s.stories.set k { x' with
              idleTimer := some 0, state := .running, routedDesk := routedDesk, changed := true
              entries := kept.map (fun o =>
                { outlet := o, state := .waiting, start := 0, read := 0, owed := .header }) } }
            ∧ ∀ o, u.outlet o = if o ∈ kept
              then { s.outlet o with waiting := (s.outlet o).waiting ++ [k] } else s.outlet o)
      let routedTo : Fin 32 → Desk → Prop := fun i e => through
        ((List.finRange 24).filter (fun o => e.outlets.getLsbD o.val && s.passes src e.echo o))
        (some e.code) (s.desks.set i (some { e with routed := inc e.routed }))
      (∀ j, original j → ∀ echo : Bool,
        (echo = true ↔ ∃ i e, s.desk i = some e ∧ e.echo = true ∧ named i e.code
          ∧ (s.story j).routedDesk = some e.code) →
        through (((s.story j).entries.map (·.outlet)).filter (fun o => s.passes src echo o))
          (s.story j).routedDesk s.desks)
      ∧ ((∀ j, ¬original j) →
        ((∀ j e, s.desk j = some e → e.code ≠ h.desk ∧ e.isDefault = false) →
            rejected .unknownDesk ['U', 'N', 'K', 'N', 'O', 'W', 'N', '-', 'D', 'E', 'S', 'K'])
        ∧ ∀ i e, named i h.desk ∨ fallen i → s.desk i = some e →
          (h.priority.rank ≤ e.floor.rank → routedTo i e)
          ∧ (e.floor.rank < h.priority.rank →
            ((∀ j d, s.desk j = some d → e.fallback ≠ some d.code) →
              rejected .noRoute ['N', 'O', '-', 'R', 'O', 'U', 'T', 'E'])
            ∧ ∀ j d, s.desk j = some d → e.fallback = some d.code → named j d.code → routedTo j d))

/-- A character that a framer in IN_STORY or CLOSER_MATCH takes while its story is RUNNING: the LF of a
header's line end is swallowed, an "E" at a line start is held back, a letter that extends the closer
joins it, the fourth sends the story to CLOSING with the tail mark set, and any other writes what was
held back and itself (R57, R58, R65, R66, R89). A completed write moves the counts and the window, cuts
on a circuit the entries it laps, ends a refusal, and at 65535 ends the story TOO_LONG, the framer then
taking what is left of the write in IDLE (R9, R69, R82 to R85). At 65535 the framer's line-end mark
stays (DEDUCED, log 24). -/
def Obligations.TextIsWrittenAndLapsTheSlowest : Prop :=
  ∀ (s : State) (src : Source) (k : Fin 48), s.Consistent →
    let f := framerOf src s
    let x := s.story k
    let quietened : State → Fin 16 → Prop → Prop := fun v c tested =>
      (tested → v.AtQuietPoint c → ∀ cfg, (s.circuit c).pendingConfig = some cfg →
        v.circuit c = (s.circuit c).configured cfg)
      ∧ (¬tested ∨ ¬v.AtQuietPoint c ∨ (s.circuit c).pendingConfig = none →
        v.circuit c = s.circuit c)
    f.slot = some k → x.state = .running →
    (∀ ch : Office,
      let u := takeChar src ch s
      let restarted : State := { s with stories := s.stories.set k { x with idleTimer := some 0 } }
      let become : Framer → Prop := fun g =>
        u = { restarted with framers := s.framers.set src.index g }
      let marked : Framer := { f with lineStart := decide (ch = cr ∨ ch = lf), lineEnd := false }
      let swallowed := f.lineEnd = true ∧ ch = lf
      let begins := ch = office 'E' ∧ f.lineStart = true
      let next := (text ['E', 'N', 'E', 'N'])[f.holdBack.length]? = some ch
      (f.state = .inStory →
        (swallowed → become marked)
        ∧ (¬swallowed → begins → become { marked with
            state := .closerMatch, origin := some .inStory, holdBack := [ch] })
        ∧ (¬swallowed → ¬begins → u = completeWrite src k [ch] restarted))
      ∧ (f.state = .closerMatch →
        (next → f.holdBack.length ≠ 3 → become { marked with holdBack := f.holdBack ++ [ch] })
        ∧ (next → f.holdBack.length = 3 →
          u = { s with
            circuits := u.circuits
            framers := s.framers.set src.index { f with
              state := .idle, origin := none, holdBack := [], slot := none, tail := true
              lineStart := false, lineEnd := false }
            stories := s.stories.set k { x with
              state := if x.anyLive then .closing else .closed, reason := some .closer
              closed := if x.anyLive then x.closed else some s.regs.clock, idleTimer := none
              blockedSince := none, blockTimer := none, changed := true }
            notices := if x.anyLive then s.notices else (s.raise .storyClosed).notices }
          ∧ ∀ c, quietened u c (src = .circuit c))
        ∧ (¬next → u = completeWrite src k (f.holdBack ++ [ch]) restarted)))
    ∧ ∀ chs : List Office, chs ≠ [] →
      let n := min chs.length (65535 - x.taken)
      chs.length ≤ n + 3 →
      let lapped : Entry → Prop := fun e => src.isTerminal = false ∧ e.state.live = true
        ∧ e.read + 128 < x.taken + n
      let on : Fin 24 → Prop := fun o => ∃ e ∈ x.entries, e.outlet = o ∧ lapped e
      let full := x.taken + n = 65535
      ∃ v : State, let y := v.story k
      v = { s with circuits := v.circuits, framers := v.framers, stories := v.stories
                   outlets := v.outlets, notices := v.notices }
      ∧ (∀ j, j ≠ k → v.story j = s.story j)
      ∧ y = { x with
          taken := x.taken + n
          lines := x.lines + ((chs.take n).filter (fun ch => ch = cr)).length
          window := (x.window ++ chs.take n).drop (x.window.length + n - 128)
          entries := y.entries, blockedSince := none, blockTimer := none, changed := true
          state := if full then (if y.anyLive then .closing else .closed) else .running
          reason := if full then some .tooLong else x.reason
          closed := if full ∧ y.anyLive = false then some s.regs.clock else x.closed
          idleTimer := if full then none else x.idleTimer }
      ∧ y.entries = x.entries.map (fun e =>
          if src.isTerminal = false ∧ e.state.live = true ∧ e.read + 128 < x.taken + n then
            { e with state := .cut .lapped, lost := 128, holdMark := false, owed := .none }
          else e)
      ∧ (∀ o, let z := s.outlet o
          (¬on o → v.outlet o = z)
          ∧ (on o → v.outlet o = { z with
              waiting := z.waiting.filter (fun j => j ≠ k)
              holder := if z.holder = some k then none else z.holder
              owed := if z.state.takesItems then addItem ⟨.cut, k⟩ z.owed else z.owed }))
      ∧ (∀ g, v.flagSet g = (s.flagSet g || decide (g = .destCut ∧ ∃ e ∈ x.entries,
            src.isTerminal = false ∧ e.state.live = true ∧ e.read + 128 < x.taken + n)
          || decide (g = .storyClosed ∧ full ∧ y.anyLive = false)))
      ∧ v.notices.enables = s.notices.enables
      ∧ (∀ c, quietened v c (on (lineOutlet c) ∨ (full ∧ src = .circuit c)))
      ∧ (¬full → completeWrite src k chs s = v
        ∧ framerOf src v = { f with
            state := .inStory, origin := none, holdBack := [], outstanding := none
            withdrawn := false, lineEnd := false
            lineStart := decide (chs.getLast? = some cr ∨ chs.getLast? = some lf) })
      ∧ (full → completeWrite src k chs s
          = (chs.drop n).foldl (fun a ch => takeChar src ch a) v
        ∧ framerOf src v = { f with
            state := .idle, origin := none, slot := none, holdBack := [], outstanding := none
            withdrawn := false, lineStart := true, tail := false })
      ∧ ∀ src', src' ≠ src → framerOf src' v = framerOf src' s

/-! ## Outlets -/

/-- Arbitration: eligible entries stand by priority, SUSPENDED before WAITING, then open order; with no
holder the first is granted, and a holder gives way only to an F or B strictly above it, becoming
SUSPENDED with a RESUME and a BREAK_IN owed where it had been shown (R90, R125 to R127). -/
def Obligations.ArbitrationGrantsAndPreemptsByPriority : Prop :=
  ∀ (s : State) (o : Fin 24), s.TableOk →
    let y := s.outlet o
    let suspended : Fin 48 → Prop := fun k => ∃ e ∈ (s.story k).entries, e.outlet = o
      ∧ e.state = .suspended .preempted
    let eligible : Fin 48 → Prop := fun k => (s.story k).state ≠ .held
      ∧ (suspended k ∨ ∃ e ∈ (s.story k).entries, e.outlet = o ∧ e.state = .waiting)
    let before : Fin 48 → Fin 48 → Prop := fun j k => (s.story j).rank < (s.story k).rank
      ∨ ((s.story j).rank = (s.story k).rank ∧
        ((suspended j ∧ ¬suspended k) ∨ ((suspended j ↔ suspended k)
          ∧ s.openOrder.idxOf j < s.openOrder.idxOf k)))
    let best : Fin 48 → Prop := fun w => eligible w ∧ ∀ j, j ≠ w → eligible j → before w j
    let overdue : Fin 48 → Fin 48 → Prop := fun w h =>
      (s.story w).rank ≤ 1 ∧ (s.story w).rank < (s.story h).rank
    let carrying : Fin 48 → Story := fun w => { s.story w with
      changed := true
      entries := (s.story w).entries.map (fun e =>
        if e.outlet = o then { e with state := .carrying } else e) }
    ((∀ k, ¬eligible k) → arbitrate o s = s)
    ∧ ((∃ k, eligible k) → ∃ w, best w)
    ∧ (∀ w, best w → y.holder = none → arbitrate o s = { s with
        stories := s.stories.set w (carrying w)
        outlets := s.outlets.set o { y with
          waiting := y.waiting.filter (fun j => j ≠ w), holder := some w } })
    ∧ ∀ w h, best w → y.holder = some h →
      (¬overdue w h → arbitrate o s = s)
      ∧ (overdue w h → ∀ e ∈ (s.story h).entries, e.outlet = o →
        let u := arbitrate o s
        let shown := e.owed = .none
        u = { s with stories := u.stories, outlets := u.outlets }
        ∧ u.story w = carrying w
        ∧ u.story h = { s.story h with
            changed := true
            entries := (s.story h).entries.map (fun d => if d.outlet = o then
              { d with
                state := .suspended (if d.holdMark then .held else .preempted), holdMark := false,
                owed := if d.owed = .none then .resume else d.owed } else d) }
        ∧ (∀ j, j ≠ w → j ≠ h → u.story j = s.story j)
        ∧ (∀ j, j ≠ o → u.outlet j = s.outlet j)
        ∧ u.outlet o = { y with
            holder := some w
            waiting := y.waiting.filter (fun j => j ≠ w) ++ [h]
            owed := if shown ∧ y.state.takesItems = true then addItem ⟨.breakIn, h⟩ y.owed
              else y.owed })

/-- What a unit boundary begins: a hold-marked holder that has caught up is suspended, and then the
first of the answerback, the oldest owed item, the reply, and after arbitration the item a preemption
owed, the holder's notice, its next character with the new line it needs, its closer, or nothing (R38,
R72, R119, R121 to R124, R131, R132, R134). Whether a new line goes before a character is judged once,
as its unit begins (DEDUCED, log 35). -/
def Obligations.UnitBoundaryFollowsTheServiceOrder : Prop :=
  ∀ (s : State) (o : Fin 24), s.TableOk →
    let y := s.outlet o
    let caughtUp : Fin 48 → Prop := fun h => y.holder = some h ∧ ∃ e ∈ (s.story h).entries,
      e.outlet = o ∧ e.holdMark = true ∧ e.read = (s.story h).taken
    let v := suspendCaughtUp o s
    let z := v.outlet o
    let w := arbitrate o v
    let line : List Office → List Office := fun l => [cr, lf] ++ l ++ [cr, lf]
    let begun : State → UnitKind → List Office → State := fun a kind chars =>
      { a with
        outlets := a.outlets.set o
          { a.outlet o with unit := some { kind := kind, codes := [], chars := chars } } }
    let number : State → Fin 48 → List Office := fun a k => fourDigits (a.story k).number
    let slug : State → Fin 48 → List Office := fun a k => space :: (a.story k).slug.getD []
    let itemLine : State → OwedItem → List Office := fun a i => match i.kind with
      | .breakIn => text ['B', 'R', 'E', 'A', 'K', ' ', 'I', 'N', ' '] ++ number a i.slot
      | .held => text ['H', 'E', 'L', 'D', ' '] ++ number a i.slot
      | .cut => text ['C', 'U', 'T', ' '] ++ number a i.slot
      | .kill => text ['K', 'I', 'L', 'L', ' '] ++ number a i.slot ++ slug a i.slot
    let item : State → OwedItem → List OwedItem → State := fun a i rest =>
      begun { a with outlets := a.outlets.set o { a.outlet o with owed := rest } }
        (.notice .item) (line (itemLine a i))
    let header : Fin 48 → List Office := fun k =>
      let st := w.story k
      text ['N', 'R', 'N', 'R', ' '] ++ number w k ++ [space]
        ++ (st.priority.map Priority.letter).toList ++ [space]
        ++ (st.desk.map (fun d => [d.first, d.second])).getD [] ++ slug w k
        ++ (st.correctionOf.map (fun n => text [' ', 'C', ' '] ++ fourDigits n)).getD []
    (∀ h, caughtUp h → v = { s with
      stories := s.stories.set h { s.story h with
        changed := true
        entries := (s.story h).entries.map (fun e => if e.outlet = o then
          { e with state := .suspended .held, holdMark := false } else e) }
      outlets := s.outlets.set o { y with
        waiting := y.waiting ++ [h], holder := none
        owed := if y.state.takesItems then addItem ⟨.held, h⟩ y.owed else y.owed } })
    ∧ ((∀ h, ¬caughtUp h) → v = s)
    ∧ (z.answerbackOwed = true → ∀ c, o = lineOutlet c →
        takeBoundary o s = begun v .answerback (v.circuit c).config.answerback)
    ∧ (z.answerbackOwed = false → ∀ i rest, z.owed = i :: rest → takeBoundary o s = item v i rest)
    ∧ (z.answerbackOwed = false → z.owed = [] → ∀ t l, o = terminalOutlet t →
        (v.port t).replySlot = some l → takeBoundary o s = begun v .reply (line l))
    ∧ (z.answerbackOwed = false → z.owed = [] →
      (∀ t, o = terminalOutlet t → (v.port t).replySlot = none) →
      (∀ i rest, (w.outlet o).owed = i :: rest → takeBoundary o s = item w i rest)
      ∧ ((w.outlet o).owed = [] → (w.outlet o).holder = none → takeBoundary o s = w)
      ∧ ((w.outlet o).owed = [] → ∀ h, (w.outlet o).holder = some h →
        ∀ e ∈ (w.story h).entries, e.outlet = o →
        let st := w.story h
        let entryNotice : List Office → State := fun l => begun w (.notice (.entry h)) (line l)
        (e.owed = .header → takeBoundary o s = entryNotice (header h))
        ∧ (e.owed = .joined → takeBoundary o s
            = entryNotice (header h ++ text [' ', 'J', 'O', 'I', 'N', 'E', 'D']))
        ∧ (e.owed = .resume → takeBoundary o s = entryNotice
            (text ['R', 'E', 'S', 'U', 'M', 'E', ' '] ++ number w h ++ slug w h))
        ∧ (e.owed = .none → e.read < st.taken → ∀ ch,
            st.window[e.read - (st.taken - st.window.length)]? = some ch →
            let wide := w.widthOf o ≠ 0 ∧ w.widthOf o ≤ (w.outlet o).column
              ∧ (32 < ch.toNat ∧ ch.toNat ≤ 126) ∧ w.willSend o ch = true
            takeBoundary o s = offerWrite h (begun
              { w with stories := w.stories.set h { st with
                  changed := true
                  entries := st.entries.map (fun d => if d.outlet = o then
                    { d with read := d.read + 1, delivered := d.delivered + 1 } else d) } }
              .text (if wide then [cr, lf, ch] else [ch])))
        ∧ (e.owed = .none → e.read = st.taken → st.state = .closing → takeBoundary o s
            = begun w (.notice (.closer h)) (line (text ['E', 'N', 'E', 'N', ' '] ++ number w h)))
        ∧ (e.owed = .none → e.read = st.taken → st.state ≠ .closing → takeBoundary o s = w)))

/-- What an outlet does by itself after a step: it gains work, begins the motor lead or takes a boundary, pauses
and goes on, hands its unit's next code or character to the send side, completes a unit and records it, and
falls IDLE with the run-on; the lowest outlet that has something to do goes first, until none has (DESIGN
CHOICE, log 8), and then the stall timers, the pause causes shown and the control outputs follow (R9, R18,
R19, R33, R34, R53, R54, R82, R85, R87, R89, R114 to R117, R119, R120, R123, R129, R135, R137, R141, R142,
R150, R151). A pause that meets a line outlet in SENDING waits for the character on its line, a fill's as well
(R115, R116). Readings of the model: the motor's count and target stand while it is RUNNING (log 19), the
outlet's own character and one whose unit was abandoned are told apart (log 20), work counts what is not yet
handed over (log 26), the counts move as a character is converted (log 34). -/
def Obligations.OutletsReactToWorkPausesAndCompletions : Prop :=
  ∀ s : State,
    let withOutlet : State → Fin 24 → Outlet → State := fun a o x =>
      { a with outlets := a.outlets.set o x }
    let withControl : State → Fin 16 → Control → State := fun a c x =>
      { a with controls := a.controls.set c x }
    let inState : State → Fin 24 → OutletState → State := fun a o st =>
      withOutlet a o { a.outlet o with state := st }
    let sent : Fin 24 → Office → Prop := fun o ch => ∀ c, o = lineOutlet c →
      (convertChar (s.page (s.circuit c).config.page) (s.circuit c).config (s.outlet o) ch).2 ≠ []
    let yields : Fin 24 → OutUnit → Prop := fun o u => u.codes ≠ [] ∨ ∃ ch ∈ u.chars, sent o ch
    let work : Fin 24 → Prop := fun o => let y := s.outlet o
      (∃ u, y.unit = some u ∧ yields o u) ∨ y.answerbackOwed = true ∨ y.owed ≠ []
      ∨ (∃ p, o = terminalOutlet p ∧ (s.port p).replySlot ≠ none)
      ∨ (s.granted o).isSome = true
      ∨ ∃ h e, y.holder = some h ∧ (s.story h).entryOn o = some e
          ∧ (e.owed ≠ .none ∨ e.read < (s.story h).taken ∨ (s.story h).state = .closing
            ∨ e.holdMark = true)
    let pause : Fin 24 → Prop := fun o =>
      (∃ c, o = lineOutlet c ∧ (((s.control c).settings.use = .lineBreak
          ∧ ((s.control c).phase = .counting ∨ (s.control c).phase = .holding))
        ∨ ((s.circuit c).rxPhase = .farBreak ∧ (s.circuit c).config.breakStopsSending = true)))
      ∨ ∃ p, o = terminalOutlet p ∧ (s.port p).readyIn = .low
    let busy : Fin 24 → Prop := fun o => (∃ c, o = lineOutlet c ∧ (s.circuit c).sending ≠ none)
      ∨ ∃ p, o = terminalOutlet p ∧ (s.port p).sending ≠ none
    let own : Fin 24 → Prop := fun o =>
      (∃ c x, o = lineOutlet c ∧ (s.circuit c).sending = some x ∧ x.owner = .unit)
      ∨ ∃ p x, o = terminalOutlet p ∧ (s.port p).sending = some x ∧ x.orphan = false
    let ended : Fin 24 → Prop := fun o =>
      ¬own o ∧ ∃ u, (s.outlet o).unit = some u ∧ ¬yields o u
    let waits : Fin 24 → Prop := fun o =>
      (∃ c, o = lineOutlet c) ∧ (s.outlet o).state = .sending ∧ busy o
    let due : Fin 24 → Prop := fun o => match (s.outlet o).state with
      | .off | .stalled => False
      | .idle => work o
      | .starting => ∀ c, o = lineOutlet c → (s.control c).motor = .running
      | .sending => ¬own o ∧ (ended o ∨ (pause o ∧ ¬waits o)
          ∨ (¬pause o ∧ ((s.outlet o).unit = none ∨ ¬busy o)))
      | .paused => ended o ∨ ¬pause o
    -- the lowest outlet that has something to do reacts, until none has
    s.Reacted (settle s)
    ∧ (∀ n, (∀ o, ¬due o) → reactAll n s = s)
    ∧ (∀ n o, due o → (∀ j, j < o → ¬due j) → reactAll (n + 1) s = reactAll n (react o s))
    -- what follows the outlets
    ∧ (let a := reactAll Config.settleFuel s
      let t := settle s
      let holds : Fin 16 → Condition → Prop := fun c x => let y := a.outlet (lineOutlet c)
        match x with
        | .motorWanted => (a.control c).motor ≠ .off
        | .counterWave => (a.control c).wave = .high
        | .flashHeld => ∃ h, y.holder = some h ∧ (a.story h).priority = some .f
        | .storyWaiting => ∃ k ∈ y.waiting, (a.story k).state ≠ .held
            ∧ ∃ e, (a.story k).entryOn (lineOutlet c) = some e
              ∧ (e.state = .waiting ∨ e.state = .suspended .preempted)
        | .farBreak => (a.circuit c).rxPhase = .farBreak
        | .outletPaused => y.state = .paused
        | .zero => False
      let gives : Fin 16 → Selector → Level → Prop := fun c x l =>
        if (a.circuit c).state = .closed then l = .low
        else (holds c x.inputA → holds c x.inputB → l = x.tt)
          ∧ (holds c x.inputA → ¬holds c x.inputB → l = x.tf)
          ∧ (¬holds c x.inputA → holds c x.inputB → l = x.ft)
          ∧ (¬holds c x.inputA → ¬holds c x.inputB → l = x.ff)
      t = { a with outlets := t.outlets, controls := t.controls }
      ∧ (∀ p, let y := a.outlet (terminalOutlet p)
          t.outlet (terminalOutlet p) = { y with
            stallTimer := if y.state = .paused ∧ a.hasWork (terminalOutlet p) = true
              then some (y.stallTimer.getD 0) else none })
      ∧ (∀ c, ∃ br fb, t.outlet (lineOutlet c)
            = { a.outlet (lineOutlet c) with counterBreak := br, farBreak := fb }
          ∧ (br = true ↔ (a.outlet (lineOutlet c)).state ≠ .off
            ∧ (a.control c).settings.use = .lineBreak
            ∧ ((a.control c).phase = .counting ∨ (a.control c).phase = .holding))
          ∧ (fb = true ↔ (a.outlet (lineOutlet c)).state ≠ .off
            ∧ (a.circuit c).rxPhase = .farBreak ∧ (a.circuit c).config.breakStopsSending = true))
      ∧ ∀ c, ∃ m g, t.control c = { a.control c with motorOut := m, signalOut := g }
          ∧ gives c (a.control c).motorSel m ∧ gives c (a.control c).signalSel g)
    -- what one outlet does
    ∧ (s.TableOk → ∀ o, ((s.granted o).isSome = true ↔ arbitrate o s ≠ s))
    ∧ (∀ o, (s.hasWork o = true ↔ work o)
      ∧ ((s.outlet o).state = .off ∨ (s.outlet o).state = .stalled → react o s = s)
      ∧ ((s.outlet o).state = .starting ∨ (s.outlet o).state = .sending → react o s = goOn o s)
      ∧ ((s.outlet o).state = .idle →
        (∀ p, o = terminalOutlet p → react o s = goOn o s)
        ∧ ∀ c, o = lineOutlet c →
          let z : Control := { s.control c with fillOwed := false }
          let lead := (s.circuit c).config.motorLead
          let led := arbitrate o (withControl (inState s o .starting) c
            { z with motor := .starting, motorCount := 0, motorTarget := lead })
          (z.motor = .off → lead ≠ 0 → react o s = led)
          ∧ (z.motor = .off → lead = 0 → react o s = goOn o (withControl led c
              { z with motor := .running, motorCount := 0, motorTarget := 0 }))
          ∧ (z.motor ≠ .off → react o s = goOn o (withControl s c
              { z with motor := .running, motorCount := 0 })))
      ∧ ((s.outlet o).state = .paused →
        (pause o → (∀ u, (s.outlet o).unit = some u → react o s = completeUnit o u s)
          ∧ ((s.outlet o).unit = none → react o s = s))
        ∧ (¬pause o → own o → react o s = inState s o .sending)
        ∧ (¬pause o → ¬own o → react o s = goOn o s))
      ∧ goOn o s = drive Config.driveFuel o s
      -- going on: boundaries, completions, pauses, conversions, one code or character handed over
      ∧ ∀ n, let y := s.outlet o
        (y.unit = none → pause o → waits o → drive (n + 1) o s = s)
        ∧ (y.unit = none → pause o → ¬waits o → drive (n + 1) o s = inState s o .paused)
        ∧ (y.unit = none → ¬pause o → let v := takeBoundary o s
          ((v.outlet o).unit ≠ none → drive (n + 1) o s = drive n o (inState v o .sending))
          ∧ ((v.outlet o).unit = none →
            (∀ p, o = terminalOutlet p → drive (n + 1) o s = inState v o .idle)
            ∧ ∀ c, o = lineOutlet c → let runOn := (v.circuit c).config.runOn
              drive (n + 1) o s = withControl (inState v o .idle) c (if runOn = 0
                then { v.control c with motor := .off, motorCount := 0, motorTarget := 0 }
                else { v.control c with motor := .runOn, motorCount := 0, motorTarget := runOn })))
        ∧ ∀ u, y.unit = some u →
          (¬yields o u → drive (n + 1) o s = drive n o (completeUnit o u s))
          ∧ (yields o u → pause o → waits o → drive (n + 1) o s = s)
          ∧ (yields o u → pause o → ¬waits o → drive (n + 1) o s = inState s o .paused)
          ∧ (yields o u → ¬pause o → busy o → drive (n + 1) o s = inState s o .sending)
          ∧ (yields o u → ¬pause o → ¬busy o →
            (∀ p ch rest, o = terminalOutlet p → u.chars = ch :: rest →
              drive (n + 1) o s = withOutlet
                { s with ports := s.ports.set p { s.port p with
                    sending := some ((s.port p).startChar ch) } } o
                { y with
                  state := .sending, unit := some { u with chars := rest }
                  column := if ch = cr then 0
                    else if 32 ≤ ch.toNat ∧ ch.toNat ≤ 126 then min (y.column + 1) (max 255 y.column)
                    else y.column })
            ∧ ∀ c, o = lineOutlet c →
              (∀ code rest, u.codes = code :: rest → drive (n + 1) o s = withOutlet
                { s with circuits := s.circuits.set c { s.circuit c with
                    sending := some ((s.circuit c).startChar code .unit) } } o
                { y with state := .sending, unit := some { u with codes := rest } })
              ∧ ∀ skipped ch rest, u.codes = [] → u.chars = skipped ++ ch :: rest →
                (∀ d ∈ skipped, ¬sent o d) → sent o ch →
                let x := s.circuit c
                let r := convertChar (s.page x.config.page) x.config
                  { y with state := .sending, drops := incBy skipped.length y.drops } ch
                drive (n + 1) o s = drive n o (withOutlet s o
                  { r.1 with unit := some { u with codes := r.2, chars := rest } })))
    -- what completing a unit records
    ∧ (∀ o (u : OutUnit), let y := s.outlet o
      let over_ : Outlet := { y with unit := none, drops := incBy u.chars.length y.drops }
      let bare := withOutlet s o over_
      let entries : Fin 48 → (Entry → Entry) → Story := fun k change => { s.story k with
        changed := true
        entries := (s.story k).entries.map (fun e =>
          if e.outlet = o ∧ e.state = .carrying then change e else e) }
      (u.kind = .text ∨ u.kind = .notice .item → completeUnit o u s = bare)
      ∧ (u.kind = .answerback →
        completeUnit o u s = withOutlet s o { over_ with answerbackOwed := false })
      ∧ (u.kind = .reply → (∀ c, o = lineOutlet c → completeUnit o u s = bare)
        ∧ ∀ p, o = terminalOutlet p → completeUnit o u s = { bare with
            ports := s.ports.set p { s.port p with replySlot := none } })
      ∧ (∀ k, u.kind = .notice (.entry k) →
        (y.holder ≠ some k → completeUnit o u s = bare)
        ∧ (y.holder = some k → completeUnit o u s = { bare with
            stories := s.stories.set k (entries k (fun e => { e with owed := .none })) }))
      ∧ (∀ k, u.kind = .notice (.closer k) →
        let done := y.holder = some k ∧ (s.story k).state = .closing
          ∧ ∃ e, (s.story k).entryOn o = some e ∧ e.read = (s.story k).taken
        (¬done → completeUnit o u s = bare)
        ∧ (done → completeUnit o u s = afterCut k o (withOutlet { s with
            stories := s.stories.set k (entries k (fun e => { e with
              state := .done, lost := 0, owed := .none })) } o { over_ with holder := none }))))
    -- the tests after a cut or a DONE
    ∧ ∀ (k : Fin 48) (o : Fin 24), let x := s.story k
      let closes := x.state = .closing ∧ x.anyLive = false
      ∃ v : State,
      v = { s with
        circuits := v.circuits
        stories := if closes then s.stories.set k { x with
            state := .closed, closed := some s.regs.clock, changed := true } else s.stories
        notices := if closes then (s.raise .storyClosed).notices else s.notices }
      ∧ (∀ c, let y := s.circuit c
          (o = lineOutlet c → v.AtQuietPoint c → ∀ cfg, y.pendingConfig = some cfg →
            v.circuit c = y.configured cfg)
          ∧ (o ≠ lineOutlet c ∨ ¬v.AtQuietPoint c ∨ y.pendingConfig = none → v.circuit c = y))
      ∧ afterCut k o s = offerWrite k v
      -- an outstanding write offered again
      ∧ (∀ p chs, x.source = .terminal p → (framerOf (.terminal p) s).outstanding = some chs →
        let taken := (framerOf (.terminal p) s).slot = some k ∧ x.state = .running
          ∧ ∀ e ∈ x.entries, e.state.live = true →
            x.taken + min chs.length (65535 - x.taken) ≤ e.read + 128
        let queue := (s.port p).queue.tail
        (taken → offerWrite k s = completeWrite (.terminal p) k chs { s with
          stories := s.stories.set k { x with idleTimer := x.idleTimer.map (fun _ => 0) }
          ports := s.ports.set p { s.port p with
            queue := queue
            readyOut := if 12 ≤ queue.length then .low else if queue.length ≤ 4 then .high
              else (s.port p).readyOut } })
        ∧ (¬taken → offerWrite k s = s))
      ∧ ((∀ p, x.source = .terminal p → (framerOf (.terminal p) s).outstanding = none) →
        offerWrite k s = s)

/-- An office character converted for a line outlet: the codes with the shift they need, the guard after
a CR, the substitute tried once, the drop counted, and the plane, the shift-owed mark and the column
after (R33 to R37). -/
def Obligations.SendConversionShiftsSubstitutesAndDrops : Prop :=
  ∀ (pg : Page) (cfg : CircuitConfig) (o : Outlet) (ch : Office),
    let r := convertChar pg cfg o ch
    let verdict : Office → SendEntry := fun a => pg.send.get a.toFin
    let dropped : Prop := r = ({ o with drops := inc o.drops }, [])
    let sent : Office → Code → SendPlane → Nat → Prop := fun a c p subs =>
      let wants := if p = .letters then some Plane.letters
        else if p = .figures then some Plane.figures else none
      let shifts := wants ≠ none ∧ (wants ≠ some o.plane ∨ o.shiftOwed = true)
      let plane := if shifts then wants.getD o.plane else o.plane
      let guard := a = cr ∧ cfg.shiftGuard = true
      let shift : Plane → Code := fun q => if q = .letters then 31#5 else 27#5
      r = ({ o with
          plane := plane
          shiftOwed := if guard then false
            else if a = space ∧ cfg.unshiftOnSpace = true then true
            else if shifts then false else o.shiftOwed
          column := if a = cr then 0
            else if 32 ≤ a.toNat ∧ a.toNat ≤ 126 then min (o.column + 1) (max 255 o.column)
            else o.column
          substitutions := subs },
        (if shifts then [shift plane] else []) ++ [c] ++ if guard then [shift plane] else [])
    (∀ c p, verdict ch = .code c p → sent ch c p o.substitutions)
    ∧ (verdict ch = .drop → dropped)
    ∧ (verdict ch = .subst →
      (∀ c p, verdict pg.substitute = .code c p →
        sent pg.substitute c p (inc o.substitutions))
      ∧ (verdict pg.substitute = .subst ∨ verdict pg.substitute = .drop → dropped))

end
end

