-- ==== Sys2Proof/Laws/State.lean ====
section
/-! SUPPORT. What each named update of State leaves in each bank: one lemma per bank per update. -/

namespace Sys2Proof.Machine.State

variable (s : State)

/-- A vector read after a write. -/
theorem get_set {α : Type} {n : Nat} (v : Vector α n) (i j : Fin n) (x : α) :
    (v.set i x).get j = if j = i then x else v.get j := by
  have h : ∀ (w : Vector α n) (k : Fin n), w.get k = w[k.val] := fun _ _ => rfl
  simp only [h, Vector.getElem_set, Fin.ext_iff]
  split <;> split <;> first | rfl | omega

/-! ## modCircuit -/

@[simp] theorem circuit_modCircuit (a : Fin 16) (f : Circuit → Circuit) (c : Fin 16) :
    (s.modCircuit a f).circuit c = if c = a then f (s.circuit a) else s.circuit c :=
  get_set _ _ _ _
theorem circuit_modCircuit_self (a : Fin 16) (f : Circuit → Circuit) : (s.modCircuit a f).circuit a = f (s.circuit a) := by simp
@[simp] theorem page_modCircuit (a : Fin 16) (f : Circuit → Circuit) (p : Fin 4) :
    (s.modCircuit a f).page p = s.page p := rfl
@[simp] theorem port_modCircuit (a : Fin 16) (f : Circuit → Circuit) (t : Fin 8) :
    (s.modCircuit a f).port t = s.port t := rfl
@[simp] theorem parser_modCircuit (a : Fin 16) (f : Circuit → Circuit) (t : Fin 8) :
    (s.modCircuit a f).parser t = s.parser t := rfl
@[simp] theorem framer_modCircuit (a : Fin 16) (f : Circuit → Circuit) (i : Fin 24) :
    (s.modCircuit a f).framer i = s.framer i := rfl
@[simp] theorem story_modCircuit (a : Fin 16) (f : Circuit → Circuit) (k : Fin 48) :
    (s.modCircuit a f).story k = s.story k := rfl
@[simp] theorem desk_modCircuit (a : Fin 16) (f : Circuit → Circuit) (i : Fin 32) :
    (s.modCircuit a f).desk i = s.desk i := rfl
@[simp] theorem outlet_modCircuit (a : Fin 16) (f : Circuit → Circuit) (o : Fin 24) :
    (s.modCircuit a f).outlet o = s.outlet o := rfl
@[simp] theorem control_modCircuit (a : Fin 16) (f : Circuit → Circuit) (c : Fin 16) :
    (s.modCircuit a f).control c = s.control c := rfl
@[simp] theorem openOrder_modCircuit (a : Fin 16) (f : Circuit → Circuit) :
    (s.modCircuit a f).openOrder = s.openOrder := rfl
@[simp] theorem nextNumber_modCircuit (a : Fin 16) (f : Circuit → Circuit) :
    (s.modCircuit a f).nextNumber = s.nextNumber := rfl
@[simp] theorem notices_modCircuit (a : Fin 16) (f : Circuit → Circuit) :
    (s.modCircuit a f).notices = s.notices := rfl
@[simp] theorem regs_modCircuit (a : Fin 16) (f : Circuit → Circuit) :
    (s.modCircuit a f).regs = s.regs := rfl
@[simp] theorem pending_modCircuit (a : Fin 16) (f : Circuit → Circuit) :
    (s.modCircuit a f).pending = s.pending := rfl

/-! ## modPort -/

@[simp] theorem circuit_modPort (a : Fin 8) (f : Port → Port) (c : Fin 16) :
    (s.modPort a f).circuit c = s.circuit c := rfl
@[simp] theorem page_modPort (a : Fin 8) (f : Port → Port) (p : Fin 4) :
    (s.modPort a f).page p = s.page p := rfl
@[simp] theorem port_modPort (a : Fin 8) (f : Port → Port) (t : Fin 8) :
    (s.modPort a f).port t = if t = a then f (s.port a) else s.port t :=
  get_set _ _ _ _
theorem port_modPort_self (a : Fin 8) (f : Port → Port) : (s.modPort a f).port a = f (s.port a) := by simp
@[simp] theorem parser_modPort (a : Fin 8) (f : Port → Port) (t : Fin 8) :
    (s.modPort a f).parser t = s.parser t := rfl
@[simp] theorem framer_modPort (a : Fin 8) (f : Port → Port) (i : Fin 24) :
    (s.modPort a f).framer i = s.framer i := rfl
@[simp] theorem story_modPort (a : Fin 8) (f : Port → Port) (k : Fin 48) :
    (s.modPort a f).story k = s.story k := rfl
@[simp] theorem desk_modPort (a : Fin 8) (f : Port → Port) (i : Fin 32) :
    (s.modPort a f).desk i = s.desk i := rfl
@[simp] theorem outlet_modPort (a : Fin 8) (f : Port → Port) (o : Fin 24) :
    (s.modPort a f).outlet o = s.outlet o := rfl
@[simp] theorem control_modPort (a : Fin 8) (f : Port → Port) (c : Fin 16) :
    (s.modPort a f).control c = s.control c := rfl
@[simp] theorem openOrder_modPort (a : Fin 8) (f : Port → Port) :
    (s.modPort a f).openOrder = s.openOrder := rfl
@[simp] theorem nextNumber_modPort (a : Fin 8) (f : Port → Port) :
    (s.modPort a f).nextNumber = s.nextNumber := rfl
@[simp] theorem notices_modPort (a : Fin 8) (f : Port → Port) :
    (s.modPort a f).notices = s.notices := rfl
@[simp] theorem regs_modPort (a : Fin 8) (f : Port → Port) : (s.modPort a f).regs = s.regs := rfl
@[simp] theorem pending_modPort (a : Fin 8) (f : Port → Port) :
    (s.modPort a f).pending = s.pending := rfl

/-! ## modParser -/

@[simp] theorem circuit_modParser (a : Fin 8) (f : Parser → Parser) (c : Fin 16) :
    (s.modParser a f).circuit c = s.circuit c := rfl
@[simp] theorem page_modParser (a : Fin 8) (f : Parser → Parser) (p : Fin 4) :
    (s.modParser a f).page p = s.page p := rfl
@[simp] theorem port_modParser (a : Fin 8) (f : Parser → Parser) (t : Fin 8) :
    (s.modParser a f).port t = s.port t := rfl
@[simp] theorem parser_modParser (a : Fin 8) (f : Parser → Parser) (t : Fin 8) :
    (s.modParser a f).parser t = if t = a then f (s.parser a) else s.parser t :=
  get_set _ _ _ _
theorem parser_modParser_self (a : Fin 8) (f : Parser → Parser) : (s.modParser a f).parser a = f (s.parser a) := by simp
@[simp] theorem framer_modParser (a : Fin 8) (f : Parser → Parser) (i : Fin 24) :
    (s.modParser a f).framer i = s.framer i := rfl
@[simp] theorem story_modParser (a : Fin 8) (f : Parser → Parser) (k : Fin 48) :
    (s.modParser a f).story k = s.story k := rfl
@[simp] theorem desk_modParser (a : Fin 8) (f : Parser → Parser) (i : Fin 32) :
    (s.modParser a f).desk i = s.desk i := rfl
@[simp] theorem outlet_modParser (a : Fin 8) (f : Parser → Parser) (o : Fin 24) :
    (s.modParser a f).outlet o = s.outlet o := rfl
@[simp] theorem control_modParser (a : Fin 8) (f : Parser → Parser) (c : Fin 16) :
    (s.modParser a f).control c = s.control c := rfl
@[simp] theorem openOrder_modParser (a : Fin 8) (f : Parser → Parser) :
    (s.modParser a f).openOrder = s.openOrder := rfl
@[simp] theorem nextNumber_modParser (a : Fin 8) (f : Parser → Parser) :
    (s.modParser a f).nextNumber = s.nextNumber := rfl
@[simp] theorem notices_modParser (a : Fin 8) (f : Parser → Parser) :
    (s.modParser a f).notices = s.notices := rfl
@[simp] theorem regs_modParser (a : Fin 8) (f : Parser → Parser) :
    (s.modParser a f).regs = s.regs := rfl
@[simp] theorem pending_modParser (a : Fin 8) (f : Parser → Parser) :
    (s.modParser a f).pending = s.pending := rfl

/-! ## modFramer -/

@[simp] theorem circuit_modFramer (a : Fin 24) (f : Framer → Framer) (c : Fin 16) :
    (s.modFramer a f).circuit c = s.circuit c := rfl
@[simp] theorem page_modFramer (a : Fin 24) (f : Framer → Framer) (p : Fin 4) :
    (s.modFramer a f).page p = s.page p := rfl
@[simp] theorem port_modFramer (a : Fin 24) (f : Framer → Framer) (t : Fin 8) :
    (s.modFramer a f).port t = s.port t := rfl
@[simp] theorem parser_modFramer (a : Fin 24) (f : Framer → Framer) (t : Fin 8) :
    (s.modFramer a f).parser t = s.parser t := rfl
@[simp] theorem framer_modFramer (a : Fin 24) (f : Framer → Framer) (i : Fin 24) :
    (s.modFramer a f).framer i = if i = a then f (s.framer a) else s.framer i :=
  get_set _ _ _ _
theorem framer_modFramer_self (a : Fin 24) (f : Framer → Framer) : (s.modFramer a f).framer a = f (s.framer a) := by simp
@[simp] theorem story_modFramer (a : Fin 24) (f : Framer → Framer) (k : Fin 48) :
    (s.modFramer a f).story k = s.story k := rfl
@[simp] theorem desk_modFramer (a : Fin 24) (f : Framer → Framer) (i : Fin 32) :
    (s.modFramer a f).desk i = s.desk i := rfl
@[simp] theorem outlet_modFramer (a : Fin 24) (f : Framer → Framer) (o : Fin 24) :
    (s.modFramer a f).outlet o = s.outlet o := rfl
@[simp] theorem control_modFramer (a : Fin 24) (f : Framer → Framer) (c : Fin 16) :
    (s.modFramer a f).control c = s.control c := rfl
@[simp] theorem openOrder_modFramer (a : Fin 24) (f : Framer → Framer) :
    (s.modFramer a f).openOrder = s.openOrder := rfl
@[simp] theorem nextNumber_modFramer (a : Fin 24) (f : Framer → Framer) :
    (s.modFramer a f).nextNumber = s.nextNumber := rfl
@[simp] theorem notices_modFramer (a : Fin 24) (f : Framer → Framer) :
    (s.modFramer a f).notices = s.notices := rfl
@[simp] theorem regs_modFramer (a : Fin 24) (f : Framer → Framer) :
    (s.modFramer a f).regs = s.regs := rfl
@[simp] theorem pending_modFramer (a : Fin 24) (f : Framer → Framer) :
    (s.modFramer a f).pending = s.pending := rfl

/-! ## setStory -/

@[simp] theorem circuit_setStory (a : Fin 48) (x : Story) (c : Fin 16) :
    (s.setStory a x).circuit c = s.circuit c := rfl
@[simp] theorem page_setStory (a : Fin 48) (x : Story) (p : Fin 4) :
    (s.setStory a x).page p = s.page p := rfl
@[simp] theorem port_setStory (a : Fin 48) (x : Story) (t : Fin 8) :
    (s.setStory a x).port t = s.port t := rfl
@[simp] theorem parser_setStory (a : Fin 48) (x : Story) (t : Fin 8) :
    (s.setStory a x).parser t = s.parser t := rfl
@[simp] theorem framer_setStory (a : Fin 48) (x : Story) (i : Fin 24) :
    (s.setStory a x).framer i = s.framer i := rfl
@[simp] theorem story_setStory (a : Fin 48) (x : Story) (k : Fin 48) :
    (s.setStory a x).story k = if k = a then x else s.story k :=
  get_set _ _ _ _
theorem story_setStory_self (a : Fin 48) (x : Story) : (s.setStory a x).story a = x := by simp
@[simp] theorem desk_setStory (a : Fin 48) (x : Story) (i : Fin 32) :
    (s.setStory a x).desk i = s.desk i := rfl
@[simp] theorem outlet_setStory (a : Fin 48) (x : Story) (o : Fin 24) :
    (s.setStory a x).outlet o = s.outlet o := rfl
@[simp] theorem control_setStory (a : Fin 48) (x : Story) (c : Fin 16) :
    (s.setStory a x).control c = s.control c := rfl
@[simp] theorem openOrder_setStory (a : Fin 48) (x : Story) :
    (s.setStory a x).openOrder = s.openOrder := rfl
@[simp] theorem nextNumber_setStory (a : Fin 48) (x : Story) :
    (s.setStory a x).nextNumber = s.nextNumber := rfl
@[simp] theorem notices_setStory (a : Fin 48) (x : Story) :
    (s.setStory a x).notices = s.notices := rfl
@[simp] theorem regs_setStory (a : Fin 48) (x : Story) : (s.setStory a x).regs = s.regs := rfl
@[simp] theorem pending_setStory (a : Fin 48) (x : Story) :
    (s.setStory a x).pending = s.pending := rfl

/-! ## modStory -/

@[simp] theorem circuit_modStory (a : Fin 48) (f : Story → Story) (c : Fin 16) :
    (s.modStory a f).circuit c = s.circuit c := rfl
@[simp] theorem page_modStory (a : Fin 48) (f : Story → Story) (p : Fin 4) :
    (s.modStory a f).page p = s.page p := rfl
@[simp] theorem port_modStory (a : Fin 48) (f : Story → Story) (t : Fin 8) :
    (s.modStory a f).port t = s.port t := rfl
@[simp] theorem parser_modStory (a : Fin 48) (f : Story → Story) (t : Fin 8) :
    (s.modStory a f).parser t = s.parser t := rfl
@[simp] theorem framer_modStory (a : Fin 48) (f : Story → Story) (i : Fin 24) :
    (s.modStory a f).framer i = s.framer i := rfl
@[simp] theorem story_modStory (a : Fin 48) (f : Story → Story) (k : Fin 48) :
    (s.modStory a f).story k = if k = a then { f (s.story a) with changed := true } else s.story k :=
  get_set _ _ _ _
theorem story_modStory_self (a : Fin 48) (f : Story → Story) : (s.modStory a f).story a = { f (s.story a) with changed := true } := by simp
@[simp] theorem desk_modStory (a : Fin 48) (f : Story → Story) (i : Fin 32) :
    (s.modStory a f).desk i = s.desk i := rfl
@[simp] theorem outlet_modStory (a : Fin 48) (f : Story → Story) (o : Fin 24) :
    (s.modStory a f).outlet o = s.outlet o := rfl
@[simp] theorem control_modStory (a : Fin 48) (f : Story → Story) (c : Fin 16) :
    (s.modStory a f).control c = s.control c := rfl
@[simp] theorem openOrder_modStory (a : Fin 48) (f : Story → Story) :
    (s.modStory a f).openOrder = s.openOrder := rfl
@[simp] theorem nextNumber_modStory (a : Fin 48) (f : Story → Story) :
    (s.modStory a f).nextNumber = s.nextNumber := rfl
@[simp] theorem notices_modStory (a : Fin 48) (f : Story → Story) :
    (s.modStory a f).notices = s.notices := rfl
@[simp] theorem regs_modStory (a : Fin 48) (f : Story → Story) :
    (s.modStory a f).regs = s.regs := rfl
@[simp] theorem pending_modStory (a : Fin 48) (f : Story → Story) :
    (s.modStory a f).pending = s.pending := rfl

/-! ## setDesk -/

@[simp] theorem circuit_setDesk (a : Fin 32) (x : Option Desk) (c : Fin 16) :
    (s.setDesk a x).circuit c = s.circuit c := rfl
@[simp] theorem page_setDesk (a : Fin 32) (x : Option Desk) (p : Fin 4) :
    (s.setDesk a x).page p = s.page p := rfl
@[simp] theorem port_setDesk (a : Fin 32) (x : Option Desk) (t : Fin 8) :
    (s.setDesk a x).port t = s.port t := rfl
@[simp] theorem parser_setDesk (a : Fin 32) (x : Option Desk) (t : Fin 8) :
    (s.setDesk a x).parser t = s.parser t := rfl
@[simp] theorem framer_setDesk (a : Fin 32) (x : Option Desk) (i : Fin 24) :
    (s.setDesk a x).framer i = s.framer i := rfl
@[simp] theorem story_setDesk (a : Fin 32) (x : Option Desk) (k : Fin 48) :
    (s.setDesk a x).story k = s.story k := rfl
@[simp] theorem desk_setDesk (a : Fin 32) (x : Option Desk) (i : Fin 32) :
    (s.setDesk a x).desk i = if i = a then x else s.desk i :=
  get_set _ _ _ _
theorem desk_setDesk_self (a : Fin 32) (x : Option Desk) : (s.setDesk a x).desk a = x := by simp
@[simp] theorem outlet_setDesk (a : Fin 32) (x : Option Desk) (o : Fin 24) :
    (s.setDesk a x).outlet o = s.outlet o := rfl
@[simp] theorem control_setDesk (a : Fin 32) (x : Option Desk) (c : Fin 16) :
    (s.setDesk a x).control c = s.control c := rfl
@[simp] theorem openOrder_setDesk (a : Fin 32) (x : Option Desk) :
    (s.setDesk a x).openOrder = s.openOrder := rfl
@[simp] theorem nextNumber_setDesk (a : Fin 32) (x : Option Desk) :
    (s.setDesk a x).nextNumber = s.nextNumber := rfl
@[simp] theorem notices_setDesk (a : Fin 32) (x : Option Desk) :
    (s.setDesk a x).notices = s.notices := rfl
@[simp] theorem regs_setDesk (a : Fin 32) (x : Option Desk) : (s.setDesk a x).regs = s.regs := rfl
@[simp] theorem pending_setDesk (a : Fin 32) (x : Option Desk) :
    (s.setDesk a x).pending = s.pending := rfl

/-! ## modOutlet -/

@[simp] theorem circuit_modOutlet (a : Fin 24) (f : Outlet → Outlet) (c : Fin 16) :
    (s.modOutlet a f).circuit c = s.circuit c := rfl
@[simp] theorem page_modOutlet (a : Fin 24) (f : Outlet → Outlet) (p : Fin 4) :
    (s.modOutlet a f).page p = s.page p := rfl
@[simp] theorem port_modOutlet (a : Fin 24) (f : Outlet → Outlet) (t : Fin 8) :
    (s.modOutlet a f).port t = s.port t := rfl
@[simp] theorem parser_modOutlet (a : Fin 24) (f : Outlet → Outlet) (t : Fin 8) :
    (s.modOutlet a f).parser t = s.parser t := rfl
@[simp] theorem framer_modOutlet (a : Fin 24) (f : Outlet → Outlet) (i : Fin 24) :
    (s.modOutlet a f).framer i = s.framer i := rfl
@[simp] theorem story_modOutlet (a : Fin 24) (f : Outlet → Outlet) (k : Fin 48) :
    (s.modOutlet a f).story k = s.story k := rfl
@[simp] theorem desk_modOutlet (a : Fin 24) (f : Outlet → Outlet) (i : Fin 32) :
    (s.modOutlet a f).desk i = s.desk i := rfl
@[simp] theorem outlet_modOutlet (a : Fin 24) (f : Outlet → Outlet) (o : Fin 24) :
    (s.modOutlet a f).outlet o = if o = a then f (s.outlet a) else s.outlet o :=
  get_set _ _ _ _
theorem outlet_modOutlet_self (a : Fin 24) (f : Outlet → Outlet) : (s.modOutlet a f).outlet a = f (s.outlet a) := by simp
@[simp] theorem control_modOutlet (a : Fin 24) (f : Outlet → Outlet) (c : Fin 16) :
    (s.modOutlet a f).control c = s.control c := rfl
@[simp] theorem openOrder_modOutlet (a : Fin 24) (f : Outlet → Outlet) :
    (s.modOutlet a f).openOrder = s.openOrder := rfl
@[simp] theorem nextNumber_modOutlet (a : Fin 24) (f : Outlet → Outlet) :
    (s.modOutlet a f).nextNumber = s.nextNumber := rfl
@[simp] theorem notices_modOutlet (a : Fin 24) (f : Outlet → Outlet) :
    (s.modOutlet a f).notices = s.notices := rfl
@[simp] theorem regs_modOutlet (a : Fin 24) (f : Outlet → Outlet) :
    (s.modOutlet a f).regs = s.regs := rfl
@[simp] theorem pending_modOutlet (a : Fin 24) (f : Outlet → Outlet) :
    (s.modOutlet a f).pending = s.pending := rfl

/-! ## modControl -/

@[simp] theorem circuit_modControl (a : Fin 16) (f : Control → Control) (c : Fin 16) :
    (s.modControl a f).circuit c = s.circuit c := rfl
@[simp] theorem page_modControl (a : Fin 16) (f : Control → Control) (p : Fin 4) :
    (s.modControl a f).page p = s.page p := rfl
@[simp] theorem port_modControl (a : Fin 16) (f : Control → Control) (t : Fin 8) :
    (s.modControl a f).port t = s.port t := rfl
@[simp] theorem parser_modControl (a : Fin 16) (f : Control → Control) (t : Fin 8) :
    (s.modControl a f).parser t = s.parser t := rfl
@[simp] theorem framer_modControl (a : Fin 16) (f : Control → Control) (i : Fin 24) :
    (s.modControl a f).framer i = s.framer i := rfl
@[simp] theorem story_modControl (a : Fin 16) (f : Control → Control) (k : Fin 48) :
    (s.modControl a f).story k = s.story k := rfl
@[simp] theorem desk_modControl (a : Fin 16) (f : Control → Control) (i : Fin 32) :
    (s.modControl a f).desk i = s.desk i := rfl
@[simp] theorem outlet_modControl (a : Fin 16) (f : Control → Control) (o : Fin 24) :
    (s.modControl a f).outlet o = s.outlet o := rfl
@[simp] theorem control_modControl (a : Fin 16) (f : Control → Control) (c : Fin 16) :
    (s.modControl a f).control c = if c = a then f (s.control a) else s.control c :=
  get_set _ _ _ _
theorem control_modControl_self (a : Fin 16) (f : Control → Control) : (s.modControl a f).control a = f (s.control a) := by simp
@[simp] theorem openOrder_modControl (a : Fin 16) (f : Control → Control) :
    (s.modControl a f).openOrder = s.openOrder := rfl
@[simp] theorem nextNumber_modControl (a : Fin 16) (f : Control → Control) :
    (s.modControl a f).nextNumber = s.nextNumber := rfl
@[simp] theorem notices_modControl (a : Fin 16) (f : Control → Control) :
    (s.modControl a f).notices = s.notices := rfl
@[simp] theorem regs_modControl (a : Fin 16) (f : Control → Control) :
    (s.modControl a f).regs = s.regs := rfl
@[simp] theorem pending_modControl (a : Fin 16) (f : Control → Control) :
    (s.modControl a f).pending = s.pending := rfl

/-! ## modRegs -/

@[simp] theorem circuit_modRegs (f : HostRegs → HostRegs) (c : Fin 16) :
    (s.modRegs f).circuit c = s.circuit c := rfl
@[simp] theorem page_modRegs (f : HostRegs → HostRegs) (p : Fin 4) :
    (s.modRegs f).page p = s.page p := rfl
@[simp] theorem port_modRegs (f : HostRegs → HostRegs) (t : Fin 8) :
    (s.modRegs f).port t = s.port t := rfl
@[simp] theorem parser_modRegs (f : HostRegs → HostRegs) (t : Fin 8) :
    (s.modRegs f).parser t = s.parser t := rfl
@[simp] theorem framer_modRegs (f : HostRegs → HostRegs) (i : Fin 24) :
    (s.modRegs f).framer i = s.framer i := rfl
@[simp] theorem story_modRegs (f : HostRegs → HostRegs) (k : Fin 48) :
    (s.modRegs f).story k = s.story k := rfl
@[simp] theorem desk_modRegs (f : HostRegs → HostRegs) (i : Fin 32) :
    (s.modRegs f).desk i = s.desk i := rfl
@[simp] theorem outlet_modRegs (f : HostRegs → HostRegs) (o : Fin 24) :
    (s.modRegs f).outlet o = s.outlet o := rfl
@[simp] theorem control_modRegs (f : HostRegs → HostRegs) (c : Fin 16) :
    (s.modRegs f).control c = s.control c := rfl
@[simp] theorem openOrder_modRegs (f : HostRegs → HostRegs) :
    (s.modRegs f).openOrder = s.openOrder := rfl
@[simp] theorem nextNumber_modRegs (f : HostRegs → HostRegs) :
    (s.modRegs f).nextNumber = s.nextNumber := rfl
@[simp] theorem notices_modRegs (f : HostRegs → HostRegs) : (s.modRegs f).notices = s.notices := rfl
@[simp] theorem regs_modRegs (f : HostRegs → HostRegs) : (s.modRegs f).regs = f s.regs := rfl
@[simp] theorem pending_modRegs (f : HostRegs → HostRegs) : (s.modRegs f).pending = s.pending := rfl

/-! ## raise -/

@[simp] theorem circuit_raise (f : Flag) (c : Fin 16) : (s.raise f).circuit c = s.circuit c := rfl
@[simp] theorem page_raise (f : Flag) (p : Fin 4) : (s.raise f).page p = s.page p := rfl
@[simp] theorem port_raise (f : Flag) (t : Fin 8) : (s.raise f).port t = s.port t := rfl
@[simp] theorem parser_raise (f : Flag) (t : Fin 8) : (s.raise f).parser t = s.parser t := rfl
@[simp] theorem framer_raise (f : Flag) (i : Fin 24) : (s.raise f).framer i = s.framer i := rfl
@[simp] theorem story_raise (f : Flag) (k : Fin 48) : (s.raise f).story k = s.story k := rfl
@[simp] theorem desk_raise (f : Flag) (i : Fin 32) : (s.raise f).desk i = s.desk i := rfl
@[simp] theorem outlet_raise (f : Flag) (o : Fin 24) : (s.raise f).outlet o = s.outlet o := rfl
@[simp] theorem control_raise (f : Flag) (c : Fin 16) : (s.raise f).control c = s.control c := rfl
@[simp] theorem openOrder_raise (f : Flag) : (s.raise f).openOrder = s.openOrder := rfl
@[simp] theorem nextNumber_raise (f : Flag) : (s.raise f).nextNumber = s.nextNumber := rfl
@[simp] theorem notices_raise (f : Flag) :
    (s.raise f).notices = s.notices.withFlags (s.notices.flags ||| f.mask) := rfl
@[simp] theorem regs_raise (f : Flag) : (s.raise f).regs = s.regs := rfl
@[simp] theorem pending_raise (f : Flag) : (s.raise f).pending = s.pending := rfl

/-! ## setPage -/

@[simp] theorem circuit_setPage (a : Fin 4) (x : Page) (c : Fin 16) :
    (s.setPage a x).circuit c = s.circuit c := rfl
@[simp] theorem page_setPage (a : Fin 4) (x : Page) (p : Fin 4) :
    (s.setPage a x).page p = if p = a then x else s.page p :=
  get_set _ _ _ _
theorem page_setPage_self (a : Fin 4) (x : Page) : (s.setPage a x).page a = x := by simp
@[simp] theorem port_setPage (a : Fin 4) (x : Page) (t : Fin 8) :
    (s.setPage a x).port t = s.port t := rfl
@[simp] theorem parser_setPage (a : Fin 4) (x : Page) (t : Fin 8) :
    (s.setPage a x).parser t = s.parser t := rfl
@[simp] theorem framer_setPage (a : Fin 4) (x : Page) (i : Fin 24) :
    (s.setPage a x).framer i = s.framer i := rfl
@[simp] theorem story_setPage (a : Fin 4) (x : Page) (k : Fin 48) :
    (s.setPage a x).story k = s.story k := rfl
@[simp] theorem desk_setPage (a : Fin 4) (x : Page) (i : Fin 32) :
    (s.setPage a x).desk i = s.desk i := rfl
@[simp] theorem outlet_setPage (a : Fin 4) (x : Page) (o : Fin 24) :
    (s.setPage a x).outlet o = s.outlet o := rfl
@[simp] theorem control_setPage (a : Fin 4) (x : Page) (c : Fin 16) :
    (s.setPage a x).control c = s.control c := rfl
@[simp] theorem openOrder_setPage (a : Fin 4) (x : Page) :
    (s.setPage a x).openOrder = s.openOrder := rfl
@[simp] theorem nextNumber_setPage (a : Fin 4) (x : Page) :
    (s.setPage a x).nextNumber = s.nextNumber := rfl
@[simp] theorem notices_setPage (a : Fin 4) (x : Page) : (s.setPage a x).notices = s.notices := rfl
@[simp] theorem regs_setPage (a : Fin 4) (x : Page) : (s.setPage a x).regs = s.regs := rfl
@[simp] theorem pending_setPage (a : Fin 4) (x : Page) : (s.setPage a x).pending = s.pending := rfl

/-! ## withPending -/

@[simp] theorem circuit_withPending (q : List Instr) (c : Fin 16) :
    (s.withPending q).circuit c = s.circuit c := rfl
@[simp] theorem page_withPending (q : List Instr) (p : Fin 4) :
    (s.withPending q).page p = s.page p := rfl
@[simp] theorem port_withPending (q : List Instr) (t : Fin 8) :
    (s.withPending q).port t = s.port t := rfl
@[simp] theorem parser_withPending (q : List Instr) (t : Fin 8) :
    (s.withPending q).parser t = s.parser t := rfl
@[simp] theorem framer_withPending (q : List Instr) (i : Fin 24) :
    (s.withPending q).framer i = s.framer i := rfl
@[simp] theorem story_withPending (q : List Instr) (k : Fin 48) :
    (s.withPending q).story k = s.story k := rfl
@[simp] theorem desk_withPending (q : List Instr) (i : Fin 32) :
    (s.withPending q).desk i = s.desk i := rfl
@[simp] theorem outlet_withPending (q : List Instr) (o : Fin 24) :
    (s.withPending q).outlet o = s.outlet o := rfl
@[simp] theorem control_withPending (q : List Instr) (c : Fin 16) :
    (s.withPending q).control c = s.control c := rfl
@[simp] theorem openOrder_withPending (q : List Instr) :
    (s.withPending q).openOrder = s.openOrder := rfl
@[simp] theorem nextNumber_withPending (q : List Instr) :
    (s.withPending q).nextNumber = s.nextNumber := rfl
@[simp] theorem notices_withPending (q : List Instr) : (s.withPending q).notices = s.notices := rfl
@[simp] theorem regs_withPending (q : List Instr) : (s.withPending q).regs = s.regs := rfl
@[simp] theorem pending_withPending (q : List Instr) : (s.withPending q).pending = q := rfl

end Sys2Proof.Machine.State
end

