-- ==== Sys2Proof/Laws/Entries.lean ====
section
/-! SUPPORT. A story's destination entries: what reading and changing one of them does (R74). -/

namespace Sys2Proof.Machine

/-- Entries with rising outlet numbers are equal when their outlets are. -/
theorem entry_unique {l : List Entry} (h : l.Pairwise (fun a b => a.outlet < b.outlet))
    {a b : Entry} (ha : a ∈ l) (hb : b ∈ l) (e : a.outlet = b.outlet) : a = b := by
  induction l with
  | nil => simp at ha
  | cons c l ih =>
    rw [List.pairwise_cons] at h
    rcases List.mem_cons.1 ha with ea | ha' <;> rcases List.mem_cons.1 hb with eb | hb'
    · rw [ea, eb]
    · exact absurd (h.1 _ hb') (by rw [← ea, e]; exact lt_irrefl _)
    · exact absurd (h.1 _ ha') (by rw [← eb, e]; exact lt_irrefl _)
    · exact ih h.2 ha' hb'

theorem Story.has_iff (st : Story) (o : Fin 24) (p : EntryState → Bool) :
    st.has o p = true ↔ ∃ e ∈ st.entries, e.outlet = o ∧ p e.state = true := by
  simp [Story.has]

theorem Story.liveOn_iff (st : Story) (o : Fin 24) :
    st.liveOn o = true ↔ ∃ e ∈ st.entries, e.outlet = o ∧ e.state.live = true := by
  simp [Story.liveOn]

theorem Story.anyLive_iff (st : Story) :
    st.anyLive = true ↔ ∃ e ∈ st.entries, e.state.live = true := by
  simp [Story.anyLive]

theorem Story.entryOn_some {st : Story} {o : Fin 24} {e : Entry} (h : st.entryOn o = some e) :
    e ∈ st.entries ∧ e.outlet = o := by
  refine ⟨List.mem_of_find?_eq_some h, ?_⟩
  simpa using List.find?_some h

theorem Story.Ok.entryOn_eq {st : Story} (h : st.Ok) {e : Entry} (he : e ∈ st.entries) :
    st.entryOn e.outlet = some e := by
  cases hf : st.entryOn e.outlet with
  | none =>
    have := List.find?_eq_none.1 hf e he
    simp at this
  | some d =>
    have hd := Story.entryOn_some hf
    rw [entry_unique h.sorted hd.1 he hd.2]

theorem EntryState.live_of_waits {x : EntryState} (h : x.waits = true) : x.live = true := by
  cases x <;> simp_all [EntryState.waits, EntryState.live]

theorem Story.liveOn_of_waits {st : Story} {o : Fin 24} (h : st.has o EntryState.waits = true) :
    st.liveOn o = true := by
  obtain ⟨e, he, ho, hp⟩ := (st.has_iff _ _).1 h
  exact (st.liveOn_iff o).2 ⟨e, he, ho, EntryState.live_of_waits hp⟩

theorem Story.liveOn_of_carrying {st : Story} {o : Fin 24}
    (h : st.has o (fun x => decide (x = .carrying)) = true) : st.liveOn o = true := by
  obtain ⟨e, he, ho, hp⟩ := (st.has_iff _ _).1 h
  simp only [decide_eq_true_eq] at hp
  exact (st.liveOn_iff o).2 ⟨e, he, ho, by rw [hp]; rfl⟩

/-! ## One entry changed -/

theorem Story.mem_modEntry {st : Story} {o : Fin 24} {f : Entry → Entry} {x : Entry} :
    x ∈ (st.modEntry o f).entries ↔
      ∃ e ∈ st.entries, (if e.outlet = o then f e else e) = x := by
  simp [Story.modEntry]

theorem Story.has_modEntry_other {st : Story} {o o' : Fin 24} {f : Entry → Entry}
    {p : EntryState → Bool} (hf : ∀ e, (f e).outlet = e.outlet) (ne : o' ≠ o) :
    (st.modEntry o f).has o' p = st.has o' p := by
  rw [Bool.eq_iff_iff, Story.has_iff, Story.has_iff]
  constructor
  · rintro ⟨x, hx, ho, hp⟩
    obtain ⟨e, he, rfl⟩ := Story.mem_modEntry.1 hx
    split at ho
    · rename_i h
      rw [hf] at ho
      exact absurd (ho.symm.trans h) ne
    · rename_i h
      rw [if_neg h] at hp
      exact ⟨e, he, ho, hp⟩
  · rintro ⟨e, he, ho, hp⟩
    have h : e.outlet ≠ o := fun h => ne (ho.symm.trans h)
    exact ⟨e, Story.mem_modEntry.2 ⟨e, he, if_neg h⟩, ho, hp⟩

/-- After a change of the entry on an outlet, what it is depends on the entry alone. -/
theorem Story.has_modEntry {st : Story} {f : Entry → Entry} {p : EntryState → Bool}
    (hs : st.Ok) (hf : ∀ e, (f e).outlet = e.outlet) {e : Entry} (he : e ∈ st.entries) :
    (st.modEntry e.outlet f).has e.outlet p = p (f e).state := by
  rw [Bool.eq_iff_iff, Story.has_iff]
  constructor
  · rintro ⟨x, hx, ho, hp⟩
    obtain ⟨d, hd, rfl⟩ := Story.mem_modEntry.1 hx
    have : d.outlet = e.outlet := by
      split at ho
      · assumption
      · exact ho
    rw [if_pos this] at hp
    rwa [entry_unique hs.sorted hd he this] at hp
  · intro hp
    exact ⟨f e, Story.mem_modEntry.2 ⟨e, he, if_pos rfl⟩, hf e, hp⟩

theorem Story.has_entry {st : Story} {p : EntryState → Bool} (hs : st.Ok) {e : Entry}
    (he : e ∈ st.entries) : st.has e.outlet p = p e.state := by
  rw [Bool.eq_iff_iff, Story.has_iff]
  constructor
  · rintro ⟨d, hd, ho, hp⟩
    rwa [entry_unique hs.sorted hd he ho] at hp
  · intro hp
    exact ⟨e, he, rfl, hp⟩

theorem Entry.Ok.congr {e : Entry} {st st' : Story} (h : e.Ok st) (ht : st'.taken = st.taken)
    (hs : st'.state = st.state) : e.Ok st' where
  startLe := h.startLe
  readLe := by rw [ht]; exact h.readLe
  counted := h.counted
  reach := by rw [ht]; exact h.reach
  marked := by rw [hs]; exact h.marked

/-- The change of one entry keeps a record in order when it keeps the entry so. -/
theorem Story.Ok.modEntry {st : Story} {o : Fin 24} {f : Entry → Entry} (h : st.Ok)
    (hf : ∀ e, (f e).outlet = e.outlet)
    (he : ∀ e ∈ st.entries, e.outlet = o → (f e).Ok st)
    (hl : st.state = .closed → ∀ e, (f e).state.live = true → e.state.live = true) :
    (st.modEntry o f).Ok where
  window := h.window
  takenLe := h.takenLe
  linesLe := h.linesLe
  sorted := by
    have : (st.entries.map (fun e => if e.outlet = o then f e else e)).Pairwise
        (fun a b => a.outlet < b.outlet) := by
      rw [List.pairwise_map]
      refine h.sorted.imp ?_
      intro a b hab
      split <;> split <;> simpa [hf] using hab
    exact this
  entries := by
    intro x hx
    obtain ⟨e, hm, rfl⟩ := Story.mem_modEntry.1 hx
    split
    · rename_i ho
      exact (he e hm ho).congr rfl rfl
    · exact (h.entries e hm).congr rfl rfl
  bare := by
    intro hb
    have := h.bare hb
    simp only [Story.modEntry, this.1, List.map_nil, true_and]
    exact this.2
  closed := by
    intro hc
    have hn := h.closed hc
    rw [Bool.eq_false_iff] at hn ⊢
    intro ha
    obtain ⟨x, hx, hx'⟩ := (Story.anyLive_iff _).1 ha
    obtain ⟨e, hm, rfl⟩ := Story.mem_modEntry.1 hx
    refine hn ((Story.anyLive_iff _).2 ⟨e, hm, ?_⟩)
    split at hx'
    · exact hl hc e hx'
    · exact hx'
  number := h.number
  holder := h.holder
  heldSource := h.heldSource
  idle := h.idle
  blocked := h.blocked
  blocking := h.blocking
  closedAt := h.closedAt
  ended := h.ended

/-- The changed mark says nothing about the rest of the record. -/
theorem Story.Ok.marked {st : Story} (h : st.Ok) {b : Bool} : ({ st with changed := b }).Ok where
  window := h.window
  takenLe := h.takenLe
  linesLe := h.linesLe
  sorted := h.sorted
  entries e he := (h.entries e he).congr rfl rfl
  bare := h.bare
  closed := h.closed
  number := h.number
  holder := h.holder
  heldSource := h.heldSource
  idle := h.idle
  blocked := h.blocked
  blocking := h.blocking
  closedAt := h.closedAt
  ended := h.ended

end Sys2Proof.Machine
end

