-- ==== Sys2Proof/Laws/Aside.lean ====
section
/-! SUPPORT. Operations that leave the story table, the framers and the outlets' holders, waiting lists
and owed items as they are. -/

namespace Sys2Proof.Machine

/-- Nothing the invariant of the story table speaks of has changed. -/
structure Aside (u v : State) : Prop where
  stories : ∀ k, v.story k = u.story k
  framers : ∀ i, v.framer i = u.framer i
  order : v.openOrder = u.openOrder
  next : v.nextNumber = u.nextNumber
  waiting : ∀ o, (v.outlet o).waiting = (u.outlet o).waiting
  holder : ∀ o, (v.outlet o).holder = (u.outlet o).holder
  owed : ∀ o, (v.outlet o).owed = (u.outlet o).owed

namespace Aside

variable {u v : State}

theorem refl (u : State) : Aside u u := by constructor <;> simp

theorem trans {w : State} (h : Aside u v) (g : Aside v w) : Aside u w where
  stories k := (g.stories k).trans (h.stories k)
  framers k := (g.framers k).trans (h.framers k)
  order := g.order.trans h.order
  next := g.next.trans h.next
  waiting o := (g.waiting o).trans (h.waiting o)
  holder o := (g.holder o).trans (h.holder o)
  owed o := (g.owed o).trans (h.owed o)

theorem modCircuit (h : Aside u v) {c : Fin 16} {f : Circuit → Circuit} :
    Aside u (v.modCircuit c f) := h.trans (by constructor <;> simp)

theorem modPort (h : Aside u v) {c : Fin 8} {f : Port → Port} :
    Aside u (v.modPort c f) := h.trans (by constructor <;> simp)

theorem modParser (h : Aside u v) {c : Fin 8} {f : Parser → Parser} :
    Aside u (v.modParser c f) := h.trans (by constructor <;> simp)

theorem modControl (h : Aside u v) {c : Fin 16} {f : Control → Control} :
    Aside u (v.modControl c f) := h.trans (by constructor <;> simp)

theorem modRegs (h : Aside u v) {f : HostRegs → HostRegs} : Aside u (v.modRegs f) :=
  h.trans (by constructor <;> simp)

theorem setDesk (h : Aside u v) {i : Fin 32} {d : Option Desk} : Aside u (v.setDesk i d) :=
  h.trans (by constructor <;> simp)

theorem raise (h : Aside u v) {f : Flag} : Aside u (v.raise f) :=
  h.trans (by constructor <;> simp)

theorem raiseIf (h : Aside u v) {b : Bool} {f : Flag} : Aside u (v.raiseIf b f) := by
  unfold State.raiseIf
  split
  · exact h.raise
  · exact h

/-- An outlet record changed outside its holder, its waiting list and its owed items. -/
theorem modOutlet (h : Aside u v) {o : Fin 24} {f : Outlet → Outlet}
    (w : (f (v.outlet o)).waiting = (v.outlet o).waiting := by rfl)
    (d : (f (v.outlet o)).holder = (v.outlet o).holder := by rfl)
    (n : (f (v.outlet o)).owed = (v.outlet o).owed := by rfl) :
    Aside u (v.modOutlet o f) := by
  refine h.trans ⟨?_, ?_, ?_, ?_, ?_, ?_, ?_⟩ <;> simp <;> intro x <;> split <;> simp_all

theorem addLoose (h : Aside u v) {src : Source} {k : Nat} : Aside u (v.addLoose src k) := by
  unfold State.addLoose
  split
  · exact h.modCircuit
  · exact h.modPort

theorem addRefusedOpen (h : Aside u v) {src : Source} : Aside u (v.addRefusedOpen src) := by
  unfold State.addRefusedOpen
  split
  · exact h.modCircuit
  · exact h.modPort

theorem offerReply (h : Aside u v) {t : Fin 8} {l : List Office} :
    Aside u (v.offerReply t l) := by
  unfold State.offerReply
  split
  · exact h.modPort
  · exact h

theorem offerSource (h : Aside u v) {src : Source} {l : List Office} :
    Aside u (v.offerSource src l) := by
  unfold State.offerSource
  split
  · exact h
  · exact h.offerReply

theorem popQueue (h : Aside u v) {t : Fin 8} : Aside u (popQueue t v) := h.modPort

theorem quietTest (h : Aside u v) {c : Fin 16} : Aside u (quietTest c v) := by
  unfold Machine.quietTest
  split
  · split
    · exact h.modCircuit
    · exact h
  · exact h

theorem quietTestOutlet (h : Aside u v) {o : Fin 24} : Aside u (quietTestOutlet o v) := by
  unfold Machine.quietTestOutlet
  split
  · exact h.quietTest
  · exact h

theorem quietTestSource (h : Aside u v) {src : Source} : Aside u (quietTestSource src v) := by
  unfold Machine.quietTestSource
  split
  · exact h.quietTest
  · exact h

theorem countRouted (h : Aside u v) {i : Fin 32} : Aside u (countRouted i v) := h.setDesk

theorem beginUnit (h : Aside u v) {o : Fin 24} {kind : UnitKind} {l : List Office} :
    Aside u (beginUnit o kind l v) := h.modOutlet

theorem emptyReply (h : Aside u v) {o : Fin 24} : Aside u (emptyReply o v) := by
  unfold Machine.emptyReply
  split
  · exact h.modPort
  · exact h

theorem setOutletState (h : Aside u v) {o : Fin 24} {st : OutletState} :
    Aside u (setOutletState o st v) := h.modOutlet

theorem pauseOutlet (h : Aside u v) {o : Fin 24} : Aside u (pauseOutlet o v) := by
  unfold Machine.pauseOutlet
  split
  · exact h
  · exact h.setOutletState

theorem clearFill (h : Aside u v) {o : Fin 24} : Aside u (clearFill o v) := by
  unfold Machine.clearFill
  split
  · exact h.modControl
  · exact h

theorem fallIdle (h : Aside u v) {o : Fin 24} : Aside u (fallIdle o v) := by
  unfold Machine.fallIdle
  dsimp only
  split
  · exact h.setOutletState.modControl
  · exact h.setOutletState

theorem handOver (h : Aside u v) {o : Fin 24} {x : OutUnit} : Aside u (handOver o x v) := by
  unfold Machine.handOver
  split
  · split
    · exact h.modCircuit.modOutlet
    · exact h
  · split
    · exact h.modPort.modOutlet
    · exact h
  · exact h

theorem convertChar_aside (pg : Page) (cfg : CircuitConfig) (x : Outlet) (ch : Office) :
    (convertChar pg cfg x ch).1.waiting = x.waiting ∧ (convertChar pg cfg x ch).1.holder = x.holder
      ∧ (convertChar pg cfg x ch).1.owed = x.owed := by
  have key : ∀ (y : Outlet) (c : Office) (d : Code) (p : SendPlane),
      (sendAsCode cfg y c d p).1.waiting = y.waiting ∧ (sendAsCode cfg y c d p).1.holder = y.holder
        ∧ (sendAsCode cfg y c d p).1.owed = y.owed := by
    intro y c d p
    unfold sendAsCode
    dsimp only
    cases shiftFor y p <;> exact ⟨rfl, rfl, rfl⟩
  unfold convertChar Outlet.dropped
  split
  · exact key ..
  · exact ⟨rfl, rfl, rfl⟩
  · split
    · obtain ⟨a, b, c⟩ := key { x with substitutions := inc x.substitutions } pg.substitute ‹_› ‹_›
      exact ⟨a, b, c⟩
    · exact ⟨rfl, rfl, rfl⟩
    · exact ⟨rfl, rfl, rfl⟩

theorem convertNext (h : Aside u v) {o : Fin 24} {x : OutUnit} :
    Aside u (convertNext o x v) := by
  unfold Machine.convertNext
  split
  · rename_i c ch rest _ _
    obtain ⟨a, b, d⟩ := convertChar_aside (v.page (v.circuit c).config.page) (v.circuit c).config
      ((v.outlet o).dropMore (x.chars.takeWhile (fun ch => !v.willSend o ch)).length) ch
    exact h.modOutlet a b d
  · exact h

theorem forEach {α : Type} {l : List α} {f : α → State → State}
    (e : ∀ a, ∀ w, Aside u w → Aside u (f a w)) (h : Aside u v) :
    Aside u (Machine.forEach l f v) := by
  unfold Machine.forEach
  induction l generalizing v with
  | nil => exact h
  | cons a l ih => exact ih (e a _ h)

/-- The tail of settle: stall timers, pause causes, control outputs. -/
theorem settled (h : Aside u v) : Aside u (Machine.forEach allCircuits
    (fun c t => driveOutputs c (showCauses c t)) (Machine.forEach allTerminals stallTimer v)) := by
  refine Aside.forEach (fun c w hw => ?_) (Aside.forEach (fun t w hw => ?_) h)
  · unfold driveOutputs showCauses
    exact hw.modOutlet.modControl
  · unfold stallTimer
    exact hw.modOutlet

end Aside

/-! ## What the invariants need of it -/

variable {u v : State}

theorem State.TableOk.aside (h : u.TableOk) (a : Aside u v) : v.TableOk where
  stories k := by rw [a.stories]; exact h.stories k
  order := by rw [a.order]; exact h.order
  ordered k := by rw [a.order, a.stories]; exact h.ordered k
  numbers j k := by rw [a.stories, a.stories]; exact h.numbers j k
  next := by rw [a.next]; exact h.next
  outlets o := by
    refine ⟨?_, ?_, ?_, ?_, ?_⟩
    · rw [a.waiting]; exact (h.outlets o).once
    · intro k; rw [a.waiting, a.stories]; exact (h.outlets o).waits k
    · intro k; rw [a.holder, a.stories]; exact (h.outlets o).holds k
    · intro i hi; rw [a.owed] at hi; rw [a.stories]; exact (h.outlets o).owes i hi
    · rw [a.owed]; exact (h.outlets o).owesOnce

theorem State.FramersOk.aside (h : u.FramersOk) (a : Aside u v) : v.FramersOk := by
  intro src k
  unfold framerOf
  rw [a.framers, a.stories]
  exact h src k

theorem State.Consistent.aside (h : u.Consistent) (a : Aside u v) : v.Consistent :=
  ⟨h.table.aside a, h.framers.aside a⟩

end Sys2Proof.Machine
end

