-- ==== Sys2Proof/Laws/Table.lean ====
section
/-! SUPPORT. The story table's operations keep the table and the outlets consistent: one lemma per
operation, `State.TableOk.<operation>`. -/

namespace Sys2Proof.Machine

variable {u v : State}

/-! ## Changes of one record -/

/-- A story changed without a change of who holds or waits where. -/
theorem State.TableOk.setStory (h : u.TableOk) {k : Fin 48} {x : Story} (ok : x.Ok)
    (free : x.state = .free ↔ (u.story k).state = .free)
    (number : x.number = (u.story k).number)
    (waits : ∀ o, x.has o EntryState.waits = (u.story k).has o EntryState.waits)
    (holds : ∀ o, x.has o (fun y => decide (y = .carrying)) =
      (u.story k).has o (fun y => decide (y = .carrying))) :
    (u.setStory k x).TableOk where
  stories j := by
    simp only [State.story_setStory]
    split
    · exact ok
    · exact h.stories j
  order := h.order
  ordered j := by
    simp only [State.story_setStory, State.openOrder_setStory, h.ordered]
    split
    · rename_i e
      rw [e, ne_eq, ne_eq, free]
    · exact Iff.rfl
  numbers i j := by
    have key : ∀ i, ((u.setStory k x).story i).state ≠ .free →
        (u.story i).state ≠ .free ∧ ((u.setStory k x).story i).number = (u.story i).number := by
      intro i
      simp only [State.story_setStory]
      split
      · rename_i e
        rw [e, ne_eq, ne_eq, free, number]
        exact fun a => ⟨a, rfl⟩
      · exact fun a => ⟨a, rfl⟩
    intro hi hj e
    rw [(key i hi).2, (key j hj).2] at e
    exact h.numbers i j (key i hi).1 (key j hj).1 e
  next := h.next
  outlets o := by
    refine ⟨(h.outlets o).once, ?_, ?_, ?_, (h.outlets o).owesOnce⟩
    · intro j
      simp only [State.outlet_setStory, State.story_setStory, (h.outlets o).waits j]
      split
      · rename_i e; rw [e, waits]
      · rfl
    · intro j
      simp only [State.outlet_setStory, State.story_setStory, (h.outlets o).holds j]
      split
      · rename_i e; rw [e, holds]
      · rfl
    · intro i hi
      have := (h.outlets o).owes i hi
      simp only [State.story_setStory]
      split
      · rename_i e
        rw [e] at this
        rw [ne_eq, free]
        exact this
      · exact this

/-- A story changed by its claims alone, its entries as they are. -/
theorem State.TableOk.modStory (h : u.TableOk) {k : Fin 48} {f : Story → Story}
    (ok : (f (u.story k)).Ok) (free : (f (u.story k)).state = .free ↔ (u.story k).state = .free)
    (number : (f (u.story k)).number = (u.story k).number)
    (waits : ∀ o, (f (u.story k)).has o EntryState.waits = (u.story k).has o EntryState.waits)
    (holds : ∀ o, (f (u.story k)).has o (fun y => decide (y = .carrying)) =
      (u.story k).has o (fun y => decide (y = .carrying))) :
    (u.modStory k f).TableOk :=
  h.setStory ok.marked free number waits holds

/-- A story and an outlet changed together: the change on the outlet follows the story's entry on it. -/
theorem State.TableOk.update (h : u.TableOk) {k : Fin 48} {o : Fin 24} {f : Story → Story}
    {g : Outlet → Outlet} (ok : (f (u.story k)).Ok)
    (free : (f (u.story k)).state = .free ↔ (u.story k).state = .free)
    (number : (f (u.story k)).number = (u.story k).number)
    (others : ∀ o', o' ≠ o → ∀ p, (f (u.story k)).has o' p = (u.story k).has o' p)
    (once : (g (u.outlet o)).waiting.Nodup)
    (waitsK : k ∈ (g (u.outlet o)).waiting ↔ (f (u.story k)).has o EntryState.waits = true)
    (waitsJ : ∀ j, j ≠ k → (j ∈ (g (u.outlet o)).waiting ↔ j ∈ (u.outlet o).waiting))
    (holdsK : (g (u.outlet o)).holder = some k ↔
      (f (u.story k)).has o (fun y => decide (y = .carrying)) = true)
    (holdsJ : ∀ j, j ≠ k → ((g (u.outlet o)).holder = some j ↔ (u.outlet o).holder = some j))
    (owed : (g (u.outlet o)).owed = (u.outlet o).owed) :
    ((u.modStory k f).modOutlet o g).TableOk where
  stories j := by
    simp only [State.story_modOutlet, State.story_modStory]
    split
    · exact ok.marked
    · exact h.stories j
  order := h.order
  ordered j := by
    simp only [State.story_modOutlet, State.story_modStory, State.openOrder_modOutlet,
      State.openOrder_modStory, h.ordered]
    split
    · rename_i e
      rw [e, ne_eq, ne_eq]
      exact not_congr free.symm
    · exact Iff.rfl
  numbers i j := by
    have key : ∀ i, (((u.modStory k f).modOutlet o g).story i).state ≠ .free →
        (u.story i).state ≠ .free ∧
          (((u.modStory k f).modOutlet o g).story i).number = (u.story i).number := by
      intro i
      simp only [State.story_modOutlet, State.story_modStory]
      split
      · rename_i e
        rw [e]
        exact fun a => ⟨fun b => a (free.2 b), number⟩
      · exact fun a => ⟨a, rfl⟩
    intro hi hj e
    rw [(key i hi).2, (key j hj).2] at e
    exact h.numbers i j (key i hi).1 (key j hj).1 e
  next := h.next
  outlets o' := by
    by_cases eo : o' = o
    · subst eo
      refine ⟨by simpa using once, ?_, ?_, ?_, ?_⟩
      · intro j
        simp only [State.outlet_modOutlet, State.outlet_modStory, if_true, State.story_modOutlet,
          State.story_modStory]
        split
        · rename_i e; rw [e]; exact waitsK
        · rename_i e; rw [waitsJ j e]; exact (h.outlets o').waits j
      · intro j
        simp only [State.outlet_modOutlet, State.outlet_modStory, if_true, State.story_modOutlet,
          State.story_modStory]
        split
        · rename_i e; rw [e]; exact holdsK
        · rename_i e; rw [holdsJ j e]; exact (h.outlets o').holds j
      · intro i hi
        simp only [State.outlet_modOutlet, State.outlet_modStory, if_true] at hi
        rw [owed] at hi
        have := (h.outlets o').owes i hi
        simp only [State.story_modOutlet, State.story_modStory]
        split
        · rename_i e
          rw [e] at this
          exact fun a => this (free.1 a)
        · exact this
      · simp only [State.outlet_modOutlet, State.outlet_modStory, if_true]
        rw [owed]
        exact (h.outlets o').owesOnce
    · refine ⟨by simpa [eo] using (h.outlets o').once, ?_, ?_, ?_, ?_⟩
      · intro j
        simp only [State.outlet_modOutlet, State.outlet_modStory, if_neg eo, State.story_modOutlet,
          State.story_modStory, (h.outlets o').waits j]
        split
        · rename_i e; rw [e]; exact iff_of_eq (congrArg (· = true) (others o' eo _).symm)
        · rfl
      · intro j
        simp only [State.outlet_modOutlet, State.outlet_modStory, if_neg eo, State.story_modOutlet,
          State.story_modStory, (h.outlets o').holds j]
        split
        · rename_i e; rw [e]; exact iff_of_eq (congrArg (· = true) (others o' eo _).symm)
        · rfl
      · intro i hi
        simp only [State.outlet_modOutlet, State.outlet_modStory, if_neg eo] at hi
        have := (h.outlets o').owes i hi
        simp only [State.story_modOutlet, State.story_modStory]
        split
        · rename_i e
          rw [e] at this
          exact fun a => this (free.1 a)
        · exact this
      · simpa [eo] using (h.outlets o').owesOnce

/-- An outlet's owed items changed. -/
theorem State.TableOk.setOwed (h : u.TableOk) {o : Fin 24} {l : List OwedItem}
    (named : ∀ i ∈ l, (u.story i.slot).state ≠ .free) (once : (l.map (·.slot)).Nodup) :
    (u.modOutlet o (fun x => { x with owed := l })).TableOk where
  stories := h.stories
  order := h.order
  ordered := h.ordered
  numbers := h.numbers
  next := h.next
  outlets o' := by
    by_cases eo : o' = o
    · subst eo
      refine ⟨by simpa using (h.outlets o').once, ?_, ?_, ?_, ?_⟩
      · intro j; simpa using (h.outlets o').waits j
      · intro j; simpa using (h.outlets o').holds j
      · intro i hi; simp at hi; simpa using named i hi
      · simpa using once
    · refine ⟨by simpa [eo] using (h.outlets o').once, ?_, ?_, ?_, ?_⟩
      · intro j; simpa [eo] using (h.outlets o').waits j
      · intro j; simpa [eo] using (h.outlets o').holds j
      · intro i hi; simp [eo] at hi; simpa using (h.outlets o').owes i hi
      · simpa [eo] using (h.outlets o').owesOnce

/-! ## Owed items -/

theorem addItem_named {i : OwedItem} {l : List OwedItem} {x : OwedItem} (hx : x ∈ addItem i l) :
    x = i ∨ x ∈ l := by
  unfold addItem at hx
  split at hx
  · obtain ⟨y, hy, rfl⟩ := List.mem_map.1 hx
    split
    · exact .inl rfl
    · exact .inr hy
  · rcases List.mem_append.1 hx with hx | hx
    · exact .inr hx
    · exact .inl (List.mem_singleton.1 hx)

theorem addItem_once {i : OwedItem} {l : List OwedItem} (h : (l.map (·.slot)).Nodup) :
    ((addItem i l).map (·.slot)).Nodup := by
  unfold addItem
  split
  · have : (l.map (fun x => if x.slot = i.slot then i else x)).map (·.slot) = l.map (·.slot) := by
      rw [List.map_map]
      apply List.map_congr_left
      intro x _
      simp only [Function.comp]
      split
      · rename_i e; exact e.symm
      · rfl
    rw [this]
    exact h
  · rename_i hn
    rw [List.map_append, List.nodup_append]
    refine ⟨h, by simp, ?_⟩
    intro a ha b hb e
    simp only [List.map_cons, List.map_nil, List.mem_singleton] at hb
    obtain ⟨x, hx, rfl⟩ := List.mem_map.1 ha
    apply hn
    rw [List.any_eq_true]
    exact ⟨x, hx, by simpa using e.trans hb⟩

theorem State.TableOk.oweItem (h : u.TableOk) {o : Fin 24} {kind : OwedKind} {k : Fin 48}
    (live : (u.story k).state ≠ .free) : (oweItem o kind k u).TableOk := by
  unfold Machine.oweItem
  split
  · have key := h.setOwed (o := o) (l := addItem ⟨kind, k⟩ (u.outlet o).owed)
      (by
        intro i hi
        rcases addItem_named hi with rfl | hi
        · exact live
        · exact (h.outlets o).owes i hi)
      (addItem_once (h.outlets o).owesOnce)
    exact key
  · exact h

theorem State.TableOk.oweCut (h : u.TableOk) {o : Fin 24} {k : Fin 48} {why : CutReason}
    (live : (u.story k).state ≠ .free) : (oweCut o k why u).TableOk := by
  unfold Machine.oweCut
  split
  · exact h.oweItem live
  · exact h

end Sys2Proof.Machine
end

