-- ==== Sys2Proof/Laws/TableOps.lean ====
section
/-! SUPPORT. Cuts, closings, grants, suspensions, entries created and text written keep the story table
consistent (R74, R82 to R84, R87, R89, R123, R126, R127). -/

namespace Sys2Proof.Machine

variable {u : State}

theorem Story.Ok.not_bare {st : Story} (h : st.Ok) {e : Entry} (he : e ∈ st.entries) :
    st.state ≠ .free ∧ st.state ≠ .header := by
  constructor <;> intro hs <;> rw [(h.bare (by simp [hs])).1] at he <;> simp at he

theorem Entry.Ok.cut {e : Entry} {st : Story} (h : e.Ok st) {n : Nat} {why : CutReason} :
    (e.cut n why).Ok st where
  startLe := h.startLe
  readLe := h.readLe
  counted := h.counted
  reach := by intro x; simp [Entry.cut, EntryState.live] at x
  marked := by intro x; simp [Entry.cut] at x

theorem Story.Ok.cutEntry {st : Story} (h : st.Ok) {o : Fin 24} {n : Nat} {why : CutReason} :
    (st.modEntry o (fun e => e.cut n why)).Ok :=
  h.modEntry (fun _ => rfl) (fun e he _ => (h.entries e he).cut)
    (fun _ e x => by simp [Entry.cut, EntryState.live] at x)

/-- A cut keeps the table (R82). -/
theorem State.TableOk.cutRecord (h : u.TableOk) {k : Fin 48} {o : Fin 24} {why : CutReason} :
    (cutRecord k o why u).TableOk := by
  unfold Machine.cutRecord
  split
  · rename_i hl
    obtain ⟨e, he, ho, _⟩ := (Story.liveOn_iff _ _).1 hl
    have hs := h.stories k
    refine State.TableOk.aside (State.TableOk.oweCut ?_ ?_) (Aside.refl _).raiseIf
    · have hh : ∀ p, ((u.story k).modEntry o (fun e => e.cut (u.story k).taken why)).has o p =
          p (.cut why) := by
        intro p
        rw [← ho]
        exact Story.has_modEntry hs (by intro; rfl) he
      refine h.update hs.cutEntry Iff.rfl rfl
        (fun o' ne p => Story.has_modEntry_other (fun _ => rfl) ne) ?_ ?_ ?_ ?_ ?_ rfl
      · exact (h.outlets o).once.filter _
      · rw [hh]; simp [Outlet.leave, EntryState.waits]
      · intro j hj; simp [Outlet.leave, hj]
      · rw [hh]; simp only [Outlet.leave]; split <;> simp_all
      · intro j hj
        simp only [Outlet.leave]
        split
        · rename_i e; simp [e]; exact fun a => hj a.symm
        · rfl
    · simp only [State.story_modOutlet, State.story_modStory, if_true]
      exact (hs.not_bare he).1
  · exact h

/-- The end of a CLOSING story keeps the table (R89). -/
theorem State.TableOk.closeIfDone (h : u.TableOk) {k : Fin 48} : (closeIfDone k u).TableOk := by
  unfold Machine.closeIfDone
  split
  · rename_i hc
    obtain ⟨hc, hn⟩ := hc
    have hs := h.stories k
    refine (h.modStory ?_ (by simp [hc]) rfl (fun _ => rfl) (fun _ => rfl)).aside
      (Aside.refl _).raise
    exact
      { window := hs.window, takenLe := hs.takenLe, linesLe := hs.linesLe, sorted := hs.sorted
        entries := fun e he =>
          { hs.entries e he with
            reach := (hs.entries e he).reach
            marked := fun m => absurd ((hs.entries e he).marked m).2 (by simp [hc]) }
        bare := by simp
        closed := fun _ => hn
        number := fun _ => hs.number (by simp [hc])
        holder := by have := hs.holder; simpa [hc] using this
        heldSource := by simp
        idle := by have := hs.idle; simpa [hc] using this
        blocked := hs.blocked
        blocking := fun b => absurd (hs.blocking b) (by simp [hc])
        closedAt := by simp
        ended := by have := hs.ended; simpa [hc] using this }
  · exact h

/-- A RUNNING story sent to CLOSING keeps the table (R89). -/
theorem State.TableOk.toClosing (h : u.TableOk) {k : Fin 48} {why : CloseReason}
    (run : (u.story k).state = .running) : (toClosing k why u).TableOk := by
  have hs := h.stories k
  unfold Machine.toClosing
  refine State.TableOk.closeIfDone (State.TableOk.aside ?_ (Aside.refl _).quietTestSource)
  refine h.modStory ?_ (by simp [run]) rfl (fun _ => rfl) (fun _ => rfl)
  exact
    { window := hs.window, takenLe := hs.takenLe, linesLe := hs.linesLe, sorted := hs.sorted
      entries := fun e he =>
        { hs.entries e he with
          reach := (hs.entries e he).reach
          marked := fun m => absurd ((hs.entries e he).marked m).2 (by simp [run]) }
      bare := by simp
      closed := by simp
      number := fun _ => hs.number (by simp [run])
      holder := by have := hs.holder; simpa [run] using this
      heldSource := by simp
      idle := by simp
      blocked := rfl
      blocking := by simp
      closedAt := by have := hs.closedAt; simpa [run] using this
      ended := by simp }

/-- A story rejected in HEADER keeps the table (R79, R80). -/
theorem State.TableOk.rejectStory (h : u.TableOk) {k : Fin 48} {why : CloseReason}
    (head : (u.story k).state = .header) : (rejectStory k why u).TableOk := by
  have hs := h.stories k
  have hb := hs.bare (.inr head)
  unfold Machine.rejectStory
  refine State.TableOk.aside ?_ ((Aside.refl _).raise.offerSource.quietTestSource)
  refine h.modStory ?_ (by simp [head]) rfl (fun _ => rfl) (fun _ => rfl)
  exact
    { window := hs.window, takenLe := hs.takenLe, linesLe := hs.linesLe, sorted := hs.sorted
      entries := by simp [hb.1]
      bare := by simp
      closed := by simp [Story.anyLive, hb.1]
      number := fun _ => hs.number (by simp [head])
      holder := by have := hs.holder; simpa [head] using this
      heldSource := by simp
      idle := by simp
      blocked := hs.blocked
      blocking := fun b => absurd (hs.blocking b) (by simp [head])
      closedAt := by simp
      ended := by simp }

/-! ## Entries created -/

theorem mem_insertEntry {e x : Entry} {l : List Entry} :
    x ∈ insertEntry e l ↔ x = e ∨ (x ∈ l ∧ x.outlet ≠ e.outlet) := by
  simp only [insertEntry, List.mem_append, List.mem_filter, List.mem_singleton,
    decide_eq_true_eq]
  constructor
  · rintro ((⟨a, b⟩ | a) | ⟨a, b⟩)
    · exact .inr ⟨a, fun c => by rw [c] at b; omega⟩
    · exact .inl a
    · exact .inr ⟨a, fun c => by rw [c] at b; omega⟩
  · rintro (a | ⟨a, b⟩)
    · exact .inl (.inr a)
    · rcases Nat.lt_or_ge x.outlet.val e.outlet.val with c | c
      · exact .inl (.inl ⟨a, c⟩)
      · exact .inr ⟨a, lt_of_le_of_ne c (fun d => b (Fin.ext d.symm))⟩

theorem sorted_insertEntry {e : Entry} {l : List Entry}
    (h : l.Pairwise (fun a b => a.outlet < b.outlet)) :
    (insertEntry e l).Pairwise (fun a b => a.outlet < b.outlet) := by
  unfold insertEntry
  rw [List.append_assoc, List.pairwise_append]
  refine ⟨h.filter _, ?_, ?_⟩
  · rw [List.singleton_append, List.pairwise_cons]
    refine ⟨?_, h.filter _⟩
    intro x hx
    simpa using (List.mem_filter.1 hx).2
  · intro a ha b hb
    have ha := (List.mem_filter.1 ha).2
    simp only [decide_eq_true_eq] at ha
    rw [List.singleton_append, List.mem_cons] at hb
    rcases hb with rfl | hb
    · exact ha
    · have hb := (List.mem_filter.1 hb).2
      simp only [decide_eq_true_eq] at hb
      exact Fin.lt_def.2 (by omega)

/-- An entry created for a story that has none on the outlet keeps the table (R74). -/
theorem State.TableOk.createEntry (h : u.TableOk) {k : Fin 48} {e : Entry}
    (state : (u.story k).state = .running ∨ (u.story k).state = .held
      ∨ (u.story k).state = .closing)
    (none : (u.story k).liveOn e.outlet = false)
    (waits : e.state.waits = true) (ok : e.Ok (u.story k)) : (createEntry k e u).TableOk := by
  have hs := h.stories k
  have noWait : ¬ (u.story k).has e.outlet EntryState.waits = true := by
    intro a; rw [Story.liveOn_of_waits a] at none; simp at none
  have noHold : ¬ (u.story k).has e.outlet (fun y => decide (y = .carrying)) = true := by
    intro a; rw [Story.liveOn_of_carrying a] at none; simp at none
  have hk : k ∉ (u.outlet e.outlet).waiting := fun a => noWait (((h.outlets _).waits k).1 a)
  unfold Machine.createEntry
  refine h.update ?_ Iff.rfl rfl ?_ ?_ ?_ ?_ ?_ ?_ rfl
  · exact
      { window := hs.window, takenLe := hs.takenLe, linesLe := hs.linesLe
        sorted := sorted_insertEntry hs.sorted
        entries := by
          intro x hx
          rcases mem_insertEntry.1 hx with rfl | ⟨hx, _⟩
          · exact ok.congr rfl rfl
          · exact (hs.entries x hx).congr rfl rfl
        bare := fun b => by rcases state with s | s | s <;> simp [s] at b
        closed := fun c => by rcases state with s | s | s <;> simp [s] at c
        number := hs.number, holder := hs.holder, heldSource := hs.heldSource, idle := hs.idle, blocked := hs.blocked
        blocking := hs.blocking, closedAt := hs.closedAt, ended := hs.ended }
  · intro o' ne p
    rw [Bool.eq_iff_iff, Story.has_iff, Story.has_iff]
    constructor
    · rintro ⟨x, hx, ho, hp⟩
      rcases mem_insertEntry.1 hx with rfl | ⟨hx, _⟩
      · exact absurd ho.symm ne
      · exact ⟨x, hx, ho, hp⟩
    · rintro ⟨x, hx, ho, hp⟩
      exact ⟨x, mem_insertEntry.2 (.inr ⟨hx, fun a => ne (ho.symm.trans a)⟩), ho, hp⟩
  · rw [List.nodup_append]
    refine ⟨(h.outlets _).once, by simp, ?_⟩
    intro a ha b hb
    rw [List.mem_singleton.1 hb]
    exact fun c => hk (c ▸ ha)
  · simp only [List.mem_append, List.mem_singleton, or_true, true_iff]
    exact (Story.has_iff _ _ _).2 ⟨e, mem_insertEntry.2 (.inl rfl), rfl, waits⟩
  · intro j hj; simp [hj]
  · constructor
    · intro a; exact absurd (((h.outlets _).holds k).1 a) noHold
    · intro a
      obtain ⟨x, hx, ho, hp⟩ := (Story.has_iff _ _ _).1 a
      rcases mem_insertEntry.1 hx with rfl | ⟨_, hne⟩
      · simp only [decide_eq_true_eq] at hp
        rw [hp] at waits
        simp [EntryState.waits] at waits
      · exact absurd ho hne
  · intro j _; exact Iff.rfl

/-! ## Grants and suspensions -/

theorem State.entry_some {o : Fin 24} {k : Fin 48} {e : Entry} (h : u.entry o k = some e) :
    e ∈ (u.story k).entries ∧ e.outlet = o := Story.entryOn_some h

/-- The holder's entry is CARRYING. -/
theorem State.TableOk.holderEntry (h : u.TableOk) {o : Fin 24} {k : Fin 48}
    (hk : (u.outlet o).holder = some k) :
    ∃ e ∈ (u.story k).entries, e.outlet = o ∧ e.state = .carrying := by
  obtain ⟨e, he, ho, hp⟩ := (Story.has_iff _ _ _).1 (((h.outlets o).holds k).1 hk)
  exact ⟨e, he, ho, by simpa using hp⟩

/-- A grant to a waiting entry that may be granted keeps the table (R126). -/
theorem State.TableOk.grant (h : u.TableOk) {o : Fin 24} {k : Fin 48}
    (waits : k ∈ (u.outlet o).waiting) (free : (u.outlet o).holder = none) :
    (grant o k u).TableOk := by
  have hs := h.stories k
  obtain ⟨e, he, ho, hp⟩ := (Story.has_iff _ _ _).1 (((h.outlets o).waits k).1 waits)
  have place : ∀ a : Entry, a.grant.outlet = a.outlet := by
    intro a; unfold Entry.grant; split <;> rfl
  have granted : ∀ a : Entry, a.state.live = true → a.grant = { a with state := .carrying } :=
    fun a l => if_pos l
  have hh : ∀ p, ((u.story k).modEntry o Entry.grant).has o p = p .carrying := by
    intro p
    rw [← ho, Story.has_modEntry hs place he, granted e (EntryState.live_of_waits hp)]
  unfold Machine.grant
  refine h.update ?_ Iff.rfl rfl (fun o' ne p => Story.has_modEntry_other place ne)
    ((h.outlets o).once.filter _) ?_ ?_ ?_ ?_ rfl
  · refine hs.modEntry place ?_ ?_
    · intro d hd hod
      have hde := entry_unique hs.sorted hd he (hod.trans ho.symm)
      have ok := hs.entries d hd
      have live : d.state.live = true := by rw [hde]; exact EntryState.live_of_waits hp
      rw [granted d live]
      exact
        { startLe := ok.startLe, readLe := ok.readLe, counted := ok.counted
          reach := fun _ => ok.reach live
          marked := fun m => ⟨rfl, (ok.marked m).2⟩ }
    · intro hc
      have hn := hs.closed hc
      exact absurd ((Story.anyLive_iff _).2 ⟨e, he, EntryState.live_of_waits hp⟩) (by simp [hn])
  · rw [hh]; simp [EntryState.waits]
  · intro j hj; simp [hj]
  · rw [hh]; simp
  · intro j hj; simp only [free]; simp; exact fun a => hj a.symm

/-- A change that suspends the holder, its slot joining the waiting list, keeps the table. -/
theorem State.TableOk.suspend (h : u.TableOk) {o : Fin 24} {k : Fin 48} {f : Entry → Entry}
    (holds : (u.outlet o).holder = some k) (hf : ∀ e, (f e).outlet = e.outlet)
    (ok : ∀ e, e ∈ (u.story k).entries → e.state = .carrying → (f e).Ok (u.story k))
    (susp : ∀ e : Entry, e.state = .carrying → (f e).state.waits = true) :
    ((u.modStory k (fun st => st.modEntry o f)).modOutlet o (fun x => x.suspend k)).TableOk := by
  have hs := h.stories k
  obtain ⟨e, he, ho, hc⟩ := h.holderEntry holds
  have hh : ∀ p, ((u.story k).modEntry o f).has o p = p (f e).state := by
    intro p
    rw [← ho]
    exact Story.has_modEntry hs hf he
  have noWait : k ∉ (u.outlet o).waiting := by
    intro a
    have := ((h.outlets o).waits k).1 a
    rw [← ho, Story.has_entry hs he, hc] at this
    simp [EntryState.waits] at this
  refine h.update ?_ Iff.rfl rfl (fun o' ne p => Story.has_modEntry_other hf ne) ?_ ?_ ?_ ?_ ?_ rfl
  · refine hs.modEntry hf ?_ ?_
    · intro d hd hod
      have hde := entry_unique hs.sorted hd he (hod.trans ho.symm)
      exact ok d hd (by rw [hde]; exact hc)
    · intro cl
      exact absurd ((Story.anyLive_iff _).2 ⟨e, he, by rw [hc]; rfl⟩) (by simp [hs.closed cl])
  · simp only [Outlet.suspend]
    rw [List.nodup_append]
    refine ⟨(h.outlets o).once, by simp, ?_⟩
    intro a ha b hb
    rw [List.mem_singleton.1 hb]
    exact fun c => noWait (c ▸ ha)
  · rw [hh, susp e hc]; simp [Outlet.suspend]
  · intro j hj; simp [Outlet.suspend, hj]
  · rw [hh]
    have hw := susp e hc
    simp only [Outlet.suspend, reduceCtorEq, decide_eq_true_eq, false_iff]
    intro a
    rw [a] at hw
    simp [EntryState.waits] at hw
  · intro j hj
    simp only [Outlet.suspend, holds, reduceCtorEq, Option.some.injEq, false_iff]
    exact fun a => hj a.symm

theorem State.TableOk.preempt (h : u.TableOk) {o : Fin 24} {k : Fin 48}
    (holds : (u.outlet o).holder = some k) : (preempt o k u).TableOk := by
  obtain ⟨e, he, _, _⟩ := h.holderEntry holds
  have key := h.suspend (f := Entry.preempt) holds
    (fun e => by unfold Entry.preempt; split <;> rfl)
    (fun e he hc => by
      have ok := (h.stories k).entries e he
      unfold Entry.preempt
      rw [if_pos hc]
      exact
        { startLe := ok.startLe, readLe := ok.readLe, counted := ok.counted
          reach := fun _ => ok.reach (by rw [hc]; rfl)
          marked := by simp })
    (fun e hc => by simp [Entry.preempt, hc, EntryState.waits])
  unfold Machine.preempt
  dsimp only
  split
  · refine key.oweItem ?_
    simp only [State.story_modOutlet, State.story_modStory, if_true]
    exact ((h.stories k).not_bare he).1
  · exact key

theorem State.TableOk.suspendCaughtUp (h : u.TableOk) {o : Fin 24} :
    (suspendCaughtUp o u).TableOk := by
  unfold Machine.suspendCaughtUp
  split
  · exact h
  · rename_i k holds
    obtain ⟨e, he, _, _⟩ := h.holderEntry holds
    split
    · refine State.TableOk.oweItem (h.suspend holds
        (fun e => by unfold Entry.suspendHeld; split <;> rfl) ?_ ?_) ?_
      · intro e he hc
        have ok := (h.stories k).entries e he
        unfold Entry.suspendHeld
        rw [if_pos hc]
        exact
          { startLe := ok.startLe, readLe := ok.readLe, counted := ok.counted
            reach := fun _ => ok.reach (by rw [hc]; rfl)
            marked := by simp }
      · intro e hc; simp [Entry.suspendHeld, hc, EntryState.waits]
      · simp only [State.story_modOutlet, State.story_modStory, if_true]
        exact ((h.stories k).not_bare he).1
    · exact h

theorem foldl_first_mem {f : Option (Fin 48) → Fin 48 → Option (Fin 48)}
    (hf : ∀ b k, f b k = some k ∨ f b k = b) {l : List (Fin 48)} {b : Option (Fin 48)} {w : Fin 48}
    (h : l.foldl f b = some w) : w ∈ l ∨ b = some w := by
  induction l generalizing b with
  | nil => exact .inr h
  | cons a l ih =>
    rcases ih h with hw | hw
    · exact .inl (List.mem_cons_of_mem _ hw)
    · rcases hf b a with e | e <;> rw [e] at hw
      · exact .inl (by simp at hw; simp [hw])
      · exact .inr hw

/-- The winner of an arbitration stands on the waiting list and is eligible (R125, R126). -/
theorem State.winner_mem {o : Fin 24} {w : Fin 48} (h : u.winner o = some w) :
    w ∈ (u.outlet o).waiting ∧ u.eligible o w = true := by
  have := foldl_first_mem (b := none) (fun b k => by
    cases b with
    | none => exact .inl rfl
    | some b => dsimp only; split
                · exact .inl rfl
                · exact .inr rfl) h
  rcases this with hm | hm
  · exact List.mem_filter.1 hm
  · simp at hm

theorem State.granted_winner {o : Fin 24} {w : Fin 48} (h : u.granted o = some w) :
    u.winner o = some w := by
  unfold State.granted at h
  split at h
  · simp at h
  · rename_i e _; rw [e, h]
  · rename_i e _
    split at h
    · rw [e, h]
    · simp at h

theorem State.TableOk.arbitrate (h : u.TableOk) {o : Fin 24} : (arbitrate o u).TableOk := by
  unfold Machine.arbitrate
  split
  · exact h
  · rename_i w hg hn
    exact h.grant (State.winner_mem (State.granted_winner hg)).1 hn
  · rename_i w k hg hk
    refine (h.preempt hk).grant ?_ ?_
    · have hw := (State.winner_mem (State.granted_winner hg)).1
      unfold Machine.preempt
      dsimp only
      split
      · unfold Machine.oweItem
        split <;> simp [Outlet.suspend, hw]
      · simp [Outlet.suspend, hw]
    · unfold Machine.preempt
      dsimp only
      split
      · unfold Machine.oweItem
        split <;> simp [Outlet.suspend]
      · simp [Outlet.suspend]

end Sys2Proof.Machine
end

