-- ==== Sys2Proof/Laws/Settle.lean ====
section
/-! SUPPORT. What the outlets' reactions may do to the part (Safety, State.Reacted): one lemma per shared
operation, in the form "if the reactions led from s to u, so they do to the operation's result". -/

namespace Sys2Proof.Machine

/-! ## Records -/

theorem Entry.Reacted.refl (x : Entry) : x.Reacted x := ⟨rfl, rfl, fun _ => rfl, .inl, le_refl _⟩

theorem Entry.Reacted.trans {x y z : Entry} (h : x.Reacted y) (g : y.Reacted z) : x.Reacted z where
  outlet := g.outlet.trans h.outlet
  start := g.start.trans h.start
  final a := by
    have e := h.final a
    exact (g.final (e ▸ a)).trans e
  goesOn a := by
    rcases h.goesOn a with b | b
    · exact g.goesOn b
    · exact .inr ((congrArg Entry.state (g.final (by rw [b]; rfl))).trans b)
  grows := h.grows.trans g.grows

theorem Entry.Reacted.entries_refl (l : List Entry) : List.Forall₂ Entry.Reacted l l :=
  List.forall₂_same.2 fun e _ => .refl e

theorem Entry.Reacted.entries_trans {a b c : List Entry} (h : List.Forall₂ Entry.Reacted a b)
    (g : List.Forall₂ Entry.Reacted b c) : List.Forall₂ Entry.Reacted a c := by
  induction h generalizing c with
  | nil => exact g
  | cons e _ ih =>
    cases g with
    | cons f g => exact .cons (e.trans f) (ih g)

/-! ### The entry operations of the reactions -/

theorem Entry.Reacted.grant (e : Entry) : e.Reacted e.grant := by
  unfold Entry.grant
  split
  · exact ⟨rfl, rfl, fun n => by simp_all, fun _ => .inl rfl, le_refl _⟩
  · exact .refl e

theorem Entry.Reacted.advance (e : Entry) : e.Reacted e.advance := by
  unfold Entry.advance
  split
  · rename_i c
    exact ⟨rfl, rfl, fun n => by simp [c, EntryState.live] at n, .inl, Nat.le_succ _⟩
  · exact .refl e

theorem Entry.Reacted.noticed (e : Entry) : e.Reacted e.noticed := by
  unfold Entry.noticed
  split
  · rename_i c
    exact ⟨rfl, rfl, fun n => by simp [c, EntryState.live] at n, .inl, le_refl _⟩
  · exact .refl e

theorem Entry.Reacted.finish (e : Entry) : e.Reacted e.finish := by
  unfold Entry.finish
  split
  · rename_i c
    exact ⟨rfl, rfl, fun n => by simp [c, EntryState.live] at n, fun _ => .inr rfl, le_refl _⟩
  · exact .refl e

theorem Entry.Reacted.preempt (e : Entry) : e.Reacted e.preempt := by
  unfold Entry.preempt
  split
  · rename_i c
    exact ⟨rfl, rfl, fun n => by simp [c, EntryState.live] at n, fun _ => .inl rfl, le_refl _⟩
  · exact .refl e

theorem Entry.Reacted.suspendHeld (e : Entry) : e.Reacted e.suspendHeld := by
  unfold Entry.suspendHeld
  split
  · rename_i c
    exact ⟨rfl, rfl, fun n => by simp [c, EntryState.live] at n, fun _ => .inl rfl, le_refl _⟩
  · exact .refl e

theorem Story.Reacted.refl (x : Story) : x.Reacted x :=
  ⟨rfl, fun _ _ => rfl, .inl rfl, fun _ => ⟨rfl, rfl, rfl⟩, le_refl _, Entry.Reacted.entries_refl _, id⟩

theorem Story.Reacted.trans {x y z : Story} (h : x.Reacted y) (g : y.Reacted z) : x.Reacted z where
  identity := g.identity.trans h.identity
  still a b := by
    have e : y.state = x.state := by
      rcases h.moved with e | ⟨e, _⟩ | ⟨e, _⟩
      · exact e
      · exact absurd e a
      · exact absurd e b
    exact (g.still (e ▸ a) (e ▸ b)).trans (h.still a b)
  moved := by
    rcases h.moved with e | ⟨e, f | f⟩ | ⟨e, f⟩ <;> rcases g.moved with a | ⟨a, b⟩ | ⟨a, b⟩ <;>
      simp_all
  text a := by
    have e : y.source = x.source := by
      simpa [Story.identity] using congrArg Story.source h.identity
    obtain ⟨a1, a2, a3⟩ := h.text a
    obtain ⟨b1, b2, b3⟩ := g.text (e ▸ a)
    exact ⟨b1.trans a1, b2.trans a2, b3.trans a3⟩
  grows := h.grows.trans g.grows
  entries := Entry.Reacted.entries_trans h.entries g.entries
  changed a := g.changed (h.changed a)

/-- An operation of the reactions made on a story's entry. -/
theorem Story.Reacted.modEntry (x : Story) {o : Fin 24} {f : Entry → Entry}
    (e : ∀ a : Entry, a.Reacted (f a)) :
    x.Reacted { x.modEntry o f with changed := true } where
  identity := rfl
  still _ _ := rfl
  moved := .inl rfl
  text _ := ⟨rfl, rfl, rfl⟩
  grows := le_refl _
  entries := by
    refine List.forall₂_map_right_iff.2 (List.forall₂_same.2 fun a _ => ?_)
    split
    · exact e a
    · exact .refl a
  changed _ := rfl

/-- A RUNNING story's record changed in what terminal copy changes. -/
theorem Story.Reacted.running {x y : Story} (r : x.state = .running) (a : y.identity = x.identity)
    (m : y.state = .running ∨ y.state = .closing)
    (b : x.source.isTerminal = false → y.taken = x.taken ∧ y.lines = x.lines ∧ y.window = x.window)
    (c : x.taken ≤ y.taken) (d : y.entries = x.entries) (e : x.changed = true → y.changed = true) :
    x.Reacted y where
  identity := a
  still n := absurd r n
  moved := by
    rcases m with m | m
    · exact .inl (m.trans r.symm)
    · exact .inr (.inl ⟨r, .inl m⟩)
  text := b
  grows := c
  entries := d ▸ Entry.Reacted.entries_refl _
  changed := e

theorem Circuit.Reacted.refl (x : Circuit) : x.Reacted x := by constructor <;> simp

theorem Circuit.Reacted.trans {x y z : Circuit} (h : x.Reacted y) (g : y.Reacted z) :
    x.Reacted z where
  state := g.state.trans h.state
  survey := g.survey.trans h.survey
  record := g.record.trans h.record
  line := g.line.trans h.line
  slip := g.slip.trans h.slip
  counts := g.counts.trans h.counts
  calm a := by
    have e := h.calm a
    have p : y.pendingConfig = none := (congrArg Circuit.pendingConfig e).trans a
    exact (g.calm p).trans e
  busy a := by
    have e := h.busy a
    exact (g.busy (e ▸ a)).trans e

theorem Circuit.Reacted.apply (x : Circuit) (cfg : CircuitConfig)
    (p : x.pendingConfig = some cfg) : x.Reacted (x.apply cfg) := by
  have key : (x.apply cfg).state = x.state ∧ (x.apply cfg).survey = x.survey
      ∧ (x.apply cfg).surveyRec = x.surveyRec ∧ (x.apply cfg).rxLine = x.rxLine
      ∧ (x.apply cfg).slipFlag = x.slipFlag ∧ (x.apply cfg).counts = x.counts
      ∧ (x.apply cfg).sending = x.sending := by
    unfold Circuit.apply Circuit.hunt Circuit.reconfigureLost
    cases x.state <;> cases x.survey <;> simp <;> split <;> simp
  obtain ⟨a, b, c, d, e, f, g⟩ := key
  exact ⟨a, b, c, d, e, f, fun n => by simp [p] at n, fun _ => g⟩

theorem Port.Reacted.refl (x : Port) : x.Reacted x :=
  ⟨rfl, List.suffix_refl _, .inl rfl, fun _ => rfl, le_refl _⟩

theorem Port.Reacted.trans {x y z : Port} (h : x.Reacted y) (g : y.Reacted z) : x.Reacted z where
  setting := g.setting.trans h.setting
  queue := g.queue.trans h.queue
  reply := by
    rcases g.reply with e | e
    · rcases h.reply with f | f
      · exact .inl (e.trans f)
      · exact .inr (e.trans f)
    · exact .inr e
  busy a := by
    have e := h.busy a
    exact (g.busy (e ▸ a)).trans e
  loose := h.loose.trans g.loose

theorem Outlet.Reacted.refl (x : Outlet) : x.Reacted x :=
  ⟨fun _ => rfl, id, rfl, le_refl _, le_refl _⟩

theorem Outlet.Reacted.trans {x y z : Outlet} (h : x.Reacted y) (g : y.Reacted z) :
    x.Reacted z where
  inert a := by
    have e := h.inert a
    have s : y.state = x.state := by simpa [Outlet.record] using congrArg Outlet.state e
    exact (g.inert (s ▸ a)).trans e
  serves a := g.serves (h.serves a)
  stalls := g.stalls.trans h.stalls
  substitutions := h.substitutions.trans g.substitutions
  drops := h.drops.trans g.drops

theorem le_inc (n : Nat) : n ≤ inc n := by
  unfold inc satInc
  split <;> omega

theorem le_incBy (k n : Nat) : n ≤ incBy k n := by
  unfold incBy
  omega

/-- A serving outlet's record changed. -/
theorem Outlet.Reacted.serving {x y : Outlet} (l : x.state.takesItems = true)
    (e : y.state.takesItems = true) (a : y.stalls = x.stalls)
    (b : x.substitutions ≤ y.substitutions) (c : x.drops ≤ y.drops) : x.Reacted y :=
  ⟨fun n => by simp [l] at n, fun _ => e, a, b, c⟩

namespace State.Reacted

variable {s u : State}

theorem refl (s : State) : s.Reacted s where
  regs := rfl
  pages := rfl
  desks := rfl
  parsers := rfl
  openOrder := rfl
  nextNumber := rfl
  pending := rfl
  enables := rfl
  closedFlag := id
  otherFlags _ _ := rfl
  noticed _ := rfl
  circuits _ := .refl _
  ports _ := .refl _
  stories _ := .refl _
  outlets _ := .refl _
  controls _ := ⟨rfl, id⟩
  framers _ _ := rfl

theorem trans {t : State} (h : s.Reacted t) (g : t.Reacted u) : s.Reacted u where
  regs := g.regs.trans h.regs
  pages := g.pages.trans h.pages
  desks := g.desks.trans h.desks
  parsers := g.parsers.trans h.parsers
  openOrder := g.openOrder.trans h.openOrder
  nextNumber := g.nextNumber.trans h.nextNumber
  pending := g.pending.trans h.pending
  enables := g.enables.trans h.enables
  closedFlag x := g.closedFlag (h.closedFlag x)
  otherFlags f x := (g.otherFlags f x).trans (h.otherFlags f x)
  noticed q := by
    have p : ∀ k, (t.story k).state ≠ .running ∧ (t.story k).state ≠ .closing := by
      intro k
      have e : (t.story k).state = (s.story k).state := by
        rcases (h.stories k).moved with e | ⟨e, _⟩ | ⟨e, _⟩
        · exact e
        · exact absurd e (q k).1
        · exact absurd e (q k).2
      rw [e]
      exact q k
    exact (g.noticed p).trans (h.noticed q)
  circuits c := (h.circuits c).trans (g.circuits c)
  ports c := (h.ports c).trans (g.ports c)
  stories c := (h.stories c).trans (g.stories c)
  outlets c := (h.outlets c).trans (g.outlets c)
  controls c := ⟨(g.controls c).1.trans (h.controls c).1, fun x => (h.controls c).2 ((g.controls c).2 x)⟩
  framers src a := by
    have e := h.framers src a
    rw [← e] at a
    exact (g.framers src a).trans e

/-- An outlet that serves at the start of the reactions serves still. -/
theorem serves (h : s.Reacted u) {o : Fin 24} (l : (s.outlet o).state.takesItems = true) :
    (u.outlet o).state.takesItems = true := (h.outlets o).serves l

/-! ## The named updates -/

theorem modOutlet (h : s.Reacted u) {o : Fin 24} {f : Outlet → Outlet}
    (e : (u.outlet o).Reacted (f (u.outlet o))) : s.Reacted (u.modOutlet o f) := by
  refine h.trans { refl u with outlets := fun p => ?_ }
  rw [State.outlet_modOutlet]
  split
  · subst_vars; exact e
  · exact .refl _

/-- A serving outlet's record changed in what the reactions change. -/
theorem modServing (h : s.Reacted u) {o : Fin 24} {f : Outlet → Outlet}
    (l : (s.outlet o).state.takesItems = true)
    (e : ∀ x : Outlet, x.state.takesItems = true → (f x).state.takesItems = true := by
      intro _ g; exact g)
    (a : ∀ x, (f x).stalls = x.stalls := by intro; rfl)
    (b : ∀ x, x.substitutions ≤ (f x).substitutions := by intro; exact le_refl _)
    (c : ∀ x, x.drops ≤ (f x).drops := by intro; exact le_refl _) :
    s.Reacted (u.modOutlet o f) :=
  h.modOutlet (.serving (h.serves l) (e _ (h.serves l)) (a _) (b _) (c _))

theorem setStory (h : s.Reacted u) {k : Fin 48} {x : Story} (e : (u.story k).Reacted x) :
    s.Reacted (u.setStory k x) := by
  refine h.trans { refl u with stories := fun p => ?_ }
  rw [State.story_setStory]
  split
  · subst_vars; exact e
  · exact .refl _

theorem modEntry (h : s.Reacted u) {k : Fin 48} {o : Fin 24} {f : Entry → Entry}
    (e : ∀ a : Entry, a.Reacted (f a)) :
    s.Reacted (u.modStory k (fun st => st.modEntry o f)) :=
  h.setStory (.modEntry _ e)

theorem modCircuit (h : s.Reacted u) {c : Fin 16} {f : Circuit → Circuit}
    (e : (u.circuit c).Reacted (f (u.circuit c))) : s.Reacted (u.modCircuit c f) := by
  refine h.trans { refl u with circuits := fun p => ?_ }
  rw [State.circuit_modCircuit]
  split
  · subst_vars; exact e
  · exact .refl _

theorem modPort (h : s.Reacted u) {t : Fin 8} {f : Port → Port}
    (e : (u.port t).Reacted (f (u.port t))) : s.Reacted (u.modPort t f) := by
  refine h.trans { refl u with ports := fun p => ?_ }
  rw [State.port_modPort]
  split
  · subst_vars; exact e
  · exact .refl _

theorem modControl (h : s.Reacted u) {c : Fin 16} {f : Control → Control}
    (e : ∀ x : Control, (f x).setting = x.setting ∧ ((f x).fillOwed = true → x.fillOwed = true) := by
      intro; exact ⟨rfl, id⟩) :
    s.Reacted (u.modControl c f) := by
  refine h.trans { refl u with controls := fun p => ?_ }
  rw [State.control_modControl]
  split
  · subst_vars; exact e _
  · exact ⟨rfl, id⟩

theorem source_index_inj {a b : Source} (e : a.index = b.index) : a = b := by
  cases a <;> cases b <;> simp only [Source.index, Fin.mk.injEq] at e <;> congr <;> omega

/-- A terminal's framer that has an outstanding write. -/
theorem modFramerOf (h : s.Reacted u) {t : Fin 8} {f : Framer → Framer}
    (e : (framerOf (.terminal t) s).outstanding ≠ none) :
    s.Reacted (Machine.modFramerOf (.terminal t) f u) where
  regs := h.regs
  pages := h.pages
  desks := h.desks
  parsers := h.parsers
  openOrder := h.openOrder
  nextNumber := h.nextNumber
  pending := h.pending
  enables := h.enables
  closedFlag := h.closedFlag
  otherFlags := h.otherFlags
  noticed := h.noticed
  circuits := h.circuits
  ports := h.ports
  stories := h.stories
  outlets := h.outlets
  controls := h.controls
  framers src a := by
    have ne : src ≠ .terminal t := by
      rintro rfl
      rcases a with a | a
      · exact e a
      · exact absurd a (by simp [Source.isTerminal])
    have ni : src.index ≠ (Source.terminal t).index := fun q => ne (source_index_inj q)
    unfold framerOf Machine.modFramerOf
    rw [State.framer_modFramer, if_neg ni]
    exact h.framers src a

/-- STORY_CLOSED raised for a story that was CLOSING. -/
theorem raiseClosed (h : s.Reacted u) {k : Fin 48} (e : (u.story k).state = .closing) :
    s.Reacted (u.raise .storyClosed) where
  regs := h.regs
  pages := h.pages
  desks := h.desks
  parsers := h.parsers
  openOrder := h.openOrder
  nextNumber := h.nextNumber
  pending := h.pending
  enables := h.enables
  closedFlag _ := by
    unfold State.flagSet State.raise Notices.withFlags
    simp [Flag.bit, Flag.mask]
  otherFlags f ne := by
    rw [← h.otherFlags f ne]
    unfold State.flagSet State.raise Notices.withFlags
    cases f <;> simp [Flag.bit, Flag.mask] at ne ⊢
  noticed q := by
    exfalso
    rcases (h.stories k).moved with a | ⟨a, _⟩ | ⟨a, _⟩
    · exact (q k).2 (a.symm.trans e)
    · exact (q k).1 a
    · exact (q k).2 a
  circuits := h.circuits
  ports := h.ports
  stories := h.stories
  outlets := h.outlets
  controls := h.controls
  framers := h.framers

theorem addLoose (h : s.Reacted u) {t : Fin 8} {k : Nat} :
    s.Reacted (u.addLoose (.terminal t) k) := by
  unfold State.addLoose State.modPortCounts
  refine h.modPort ⟨?_, ?_, ?_, ?_, ?_⟩
  · rfl
  · exact List.suffix_refl _
  · exact .inl rfl
  · exact fun _ => rfl
  · exact le_incBy _ _

theorem forEach {α : Type} {l : List α} {f : α → State → State}
    (e : ∀ a v, s.Reacted v → s.Reacted (f a v)) (h : s.Reacted u) :
    s.Reacted (Machine.forEach l f u) := by
  unfold Machine.forEach
  induction l generalizing u with
  | nil => exact h
  | cons a l ih => exact ih (e a _ h)

/-! ## Quiet points and closing -/

theorem quietTest (h : s.Reacted u) {c : Fin 16} : s.Reacted (quietTest c u) := by
  unfold Machine.quietTest
  split
  · rename_i cfg hp
    split
    · exact h.modCircuit (.apply _ _ hp)
    · exact h
  · exact h

theorem quietTestOutlet (h : s.Reacted u) {o : Fin 24} : s.Reacted (quietTestOutlet o u) := by
  unfold Machine.quietTestOutlet
  split
  · exact h.quietTest
  · exact h

theorem quietTestSource (h : s.Reacted u) {src : Source} : s.Reacted (quietTestSource src u) := by
  cases src
  · exact h.quietTest
  · exact h

theorem closeIfDone (h : s.Reacted u) {k : Fin 48} : s.Reacted (closeIfDone k u) := by
  unfold Machine.closeIfDone
  split
  · rename_i e
    refine setStory (raiseClosed h e.1) ⟨?_, ?_, ?_, ?_, ?_, ?_, ?_⟩
    · rfl
    · exact fun _ n => absurd e.1 n
    · exact .inr (.inr ⟨e.1, rfl⟩)
    · exact fun _ => ⟨rfl, rfl, rfl⟩
    · exact le_refl _
    · exact Entry.Reacted.entries_refl _
    · exact fun _ => rfl
  · exact h

theorem toClosing (h : s.Reacted u) {k : Fin 48} {why : CloseReason}
    (e : (u.story k).state = .running) : s.Reacted (toClosing k why u) := by
  refine closeIfDone (quietTestSource (setStory h (.running e ?_ ?_ ?_ ?_ ?_ ?_)))
  · rfl
  · exact .inr rfl
  · exact fun _ => ⟨rfl, rfl, rfl⟩
  · exact le_refl _
  · rfl
  · exact fun _ => rfl

/-! ## A write taken when an entry advances -/

theorem takeIdle (h : s.Reacted u) {t : Fin 8} {ch : Office}
    (e : (framerOf (.terminal t) s).outstanding ≠ none) : s.Reacted (takeIdle (.terminal t) ch u) := by
  unfold Machine.takeIdle
  dsimp only
  split
  · exact h.modFramerOf e
  · split
    · exact h.modFramerOf e
    · split
      · exact h.modFramerOf e
      · exact (h.modFramerOf e).addLoose

theorem takeDiscard (h : s.Reacted u) {t : Fin 8} {ch : Office}
    (e : (framerOf (.terminal t) s).outstanding ≠ none) :
    s.Reacted (takeDiscard (.terminal t) ch u) := by
  unfold Machine.takeDiscard
  dsimp only
  split
  · exact h.modFramerOf e
  · split
    · exact h.modFramerOf e
    · split
      · exact h.modFramerOf e
      · exact (h.modFramerOf e).addLoose

theorem extendOpener (h : s.Reacted u) {t : Fin 8} {ch : Office}
    (e : (framerOf (.terminal t) s).outstanding ≠ none) :
    s.Reacted (extendOpener (.terminal t) ch u) := by
  unfold Machine.extendOpener
  split
  · exact h.modFramerOf e
  · unfold failMatch
    dsimp only
    split
    · exact (h.modFramerOf e).addLoose.takeDiscard e
    · exact (h.modFramerOf e).addLoose.takeIdle e

theorem takeLeftover (h : s.Reacted u) {t : Fin 8} {chs : List Office}
    (e : (framerOf (.terminal t) s).outstanding ≠ none) :
    s.Reacted (takeLeftover (.terminal t) chs u) := by
  refine h.forEach fun ch v hv => ?_
  split
  · exact hv.extendOpener e
  · exact hv.takeIdle e

/-- One character of terminal copy written in a RUNNING story. -/
theorem writeOne (h : s.Reacted u) {k : Fin 48} {ch : Office}
    (r : (u.story k).state = .running) (x : (u.story k).source.isTerminal = true) :
    s.Reacted (writeOne k ch u) ∧ ((Machine.writeOne k ch u).story k).state = .running
      ∧ ((Machine.writeOne k ch u).story k).source.isTerminal = true := by
  unfold Machine.writeOne
  dsimp only
  split
  · rename_i e
    simp [e, Source.isTerminal] at x
  · refine ⟨setStory h (.running r ?_ ?_ ?_ ?_ ?_ ?_), ?_, ?_⟩
    · rfl
    · exact .inl r
    · exact fun n => by simp [x] at n
    · exact Nat.le_succ _
    · rfl
    · exact fun _ => rfl
    · simp [Story.append, r]
    · simp [Story.append, x]

theorem writeChars {k : Fin 48} {chs : List Office} (h : s.Reacted u)
    (r : (u.story k).state = .running) (x : (u.story k).source.isTerminal = true) :
    s.Reacted (writeChars k chs u).2 ∧ ((Machine.writeChars k chs u).2.story k).state = .running := by
  induction chs generalizing u with
  | nil => exact ⟨h, r⟩
  | cons ch rest ih =>
    unfold Machine.writeChars
    split
    · obtain ⟨a, b, c⟩ := h.writeOne (ch := ch) r x
      exact ih a b c
    · exact ⟨h, r⟩

theorem writeText (h : s.Reacted u) {k : Fin 48} {chs : List Office}
    (r : (u.story k).state = .running) (x : (u.story k).source.isTerminal = true) :
    s.Reacted (writeText k chs u).2 := by
  have key : ∀ v, s.Reacted v → (v.story k).state = .running →
      (v.story k).source.isTerminal = true → s.Reacted
      (if ((Machine.writeChars k chs v).2.story k).taken = Config.takenMax then
        ((Machine.writeChars k chs v).1, Machine.toClosing k .tooLong (Machine.writeChars k chs v).2)
        else Machine.writeChars k chs v).2 := by
    intro v hv r x
    obtain ⟨a, b⟩ := hv.writeChars (chs := chs) r x
    split
    · exact a.toClosing b
    · exact a
  unfold Machine.writeText
  dsimp only
  split
  · exact key _ h r x
  · refine key _ (setStory h (.running r ?_ ?_ ?_ ?_ ?_ ?_)) ?_ ?_
    · rfl
    · exact .inl r
    · exact fun _ => ⟨rfl, rfl, rfl⟩
    · exact le_refl _
    · rfl
    · exact fun _ => rfl
    · simp [r]
    · simp [x]

theorem completeWrite (h : s.Reacted u) {t : Fin 8} {k : Fin 48} {chs : List Office}
    (e : (framerOf (.terminal t) s).outstanding ≠ none)
    (r : (u.story k).state = .running) (x : (u.story k).source.isTerminal = true) :
    s.Reacted (completeWrite (.terminal t) k chs u) := by
  have w := h.writeText (chs := chs) r x
  unfold Machine.completeWrite
  dsimp only
  split
  · exact w.modFramerOf e
  · exact (w.modFramerOf e).takeLeftover e

theorem popQueue (h : s.Reacted u) {t : Fin 8} : s.Reacted (popQueue t u) :=
  h.modPort ⟨rfl, List.tail_suffix _, .inl rfl, fun _ => rfl, le_refl _⟩

/-- The idle timer of a RUNNING story restarted. -/
theorem restartIdle (h : s.Reacted u) {k : Fin 48} (r : (u.story k).state = .running) :
    s.Reacted (restartIdle k u) := by
  unfold Machine.restartIdle
  split
  · exact h
  · refine setStory h (.running r ?_ ?_ ?_ ?_ ?_ ?_)
    · rfl
    · exact .inl r
    · exact fun _ => ⟨rfl, rfl, rfl⟩
    · exact le_refl _
    · rfl
    · exact id

theorem restartIdle_story {k : Fin 48} :
    ((Machine.restartIdle k u).story k).state = (u.story k).state
      ∧ ((Machine.restartIdle k u).story k).source = (u.story k).source := by
  unfold Machine.restartIdle
  split
  · exact ⟨rfl, rfl⟩
  · simp [State.setIdleTimer]

theorem offerWrite (h : s.Reacted u) {k : Fin 48} : s.Reacted (offerWrite k u) := by
  refine h.trans ?_
  unfold Machine.offerWrite
  split
  · exact refl u
  · rename_i t src
    dsimp only
    split
    · exact refl u
    · rename_i chs o
      split
      · rename_i c
        have r : ((Machine.popQueue t u).story k).state = .running := c.2.1
        refine completeWrite ((refl u).popQueue.restartIdle r) (by simp [o]) ?_ ?_
        · rw [restartIdle_story.1, r]
        · rw [restartIdle_story.2]
          change (u.story k).source.isTerminal = true
          rw [src]
          rfl
      · exact refl u

theorem afterCut (h : s.Reacted u) {k : Fin 48} {o : Fin 24} : s.Reacted (afterCut k o u) :=
  h.closeIfDone.quietTestOutlet.offerWrite

/-! ## Arbitration and units, on an outlet that serves -/

theorem oweItem (h : s.Reacted u) {o : Fin 24} {kind : OwedKind} {k : Fin 48}
    (l : (s.outlet o).state.takesItems = true) : s.Reacted (oweItem o kind k u) := by
  unfold Machine.oweItem
  split
  · exact h.modServing l
  · exact h

theorem grant (h : s.Reacted u) {o : Fin 24} {k : Fin 48}
    (l : (s.outlet o).state.takesItems = true) : s.Reacted (grant o k u) :=
  (h.modEntry .grant).modServing l

theorem preempt (h : s.Reacted u) {o : Fin 24} {k : Fin 48}
    (l : (s.outlet o).state.takesItems = true) : s.Reacted (preempt o k u) := by
  have key : s.Reacted ((u.modStory k (fun st => st.modEntry o Entry.preempt)).modOutlet o
      (fun x => x.suspend k)) :=
    (h.modEntry .preempt).modServing l
  unfold Machine.preempt
  dsimp only
  split
  · exact key.oweItem l
  · exact key

theorem arbitrate (h : s.Reacted u) {o : Fin 24} (l : (s.outlet o).state.takesItems = true) :
    s.Reacted (arbitrate o u) := by
  unfold Machine.arbitrate
  split
  · exact h
  · exact h.grant l
  · exact (h.preempt l).grant l

theorem suspendCaughtUp (h : s.Reacted u) {o : Fin 24}
    (l : (s.outlet o).state.takesItems = true) : s.Reacted (suspendCaughtUp o u) := by
  unfold Machine.suspendCaughtUp
  split
  · exact h
  · split
    · exact ((h.modEntry .suspendHeld).modServing l).oweItem l
    · exact h

theorem beginUnit (h : s.Reacted u) {o : Fin 24} {kind : UnitKind} {cs : List Office}
    (l : (s.outlet o).state.takesItems = true) : s.Reacted (beginUnit o kind cs u) :=
  h.modServing l

theorem beginItem (h : s.Reacted u) {o : Fin 24} {i : OwedItem} {is : List OwedItem}
    (l : (s.outlet o).state.takesItems = true) : s.Reacted (beginItem o i is u) :=
  (h.modServing l).beginUnit l

theorem beginText (h : s.Reacted u) {o : Fin 24} {k : Fin 48} {ch : Office}
    (l : (s.outlet o).state.takesItems = true) : s.Reacted (beginText o k ch u) :=
  ((h.modEntry .advance).beginUnit l).offerWrite

theorem beginHolder (h : s.Reacted u) {o : Fin 24} {k : Fin 48} {e : Entry}
    (l : (s.outlet o).state.takesItems = true) : s.Reacted (beginHolder o k e u) := by
  unfold Machine.beginHolder
  dsimp only
  split
  · exact h.beginUnit l
  · split
    · split
      · exact h.beginText l
      · exact h
    · split
      · exact h.beginUnit l
      · exact h

theorem beginCarried (h : s.Reacted u) {o : Fin 24}
    (l : (s.outlet o).state.takesItems = true) : s.Reacted (beginCarried o u) := by
  have ha := h.arbitrate l
  unfold Machine.beginCarried
  dsimp only
  split
  · exact ha.beginItem l
  · split
    · exact ha
    · split
      · exact ha.beginHolder l
      · exact ha

theorem takeBoundary (h : s.Reacted u) {o : Fin 24}
    (l : (s.outlet o).state.takesItems = true) : s.Reacted (takeBoundary o u) := by
  have ha := h.suspendCaughtUp l
  unfold Machine.takeBoundary
  dsimp only
  split
  · exact ha.beginUnit l
  · split
    · exact ha.beginItem l
    · split
      · exact ha.beginUnit l
      · exact ha.beginCarried l

theorem claimDone (h : s.Reacted u) {o : Fin 24} {k : Fin 48}
    (l : (s.outlet o).state.takesItems = true) : s.Reacted (claimDone o k u) := by
  unfold Machine.claimDone
  split
  · exact ((h.modEntry .finish).modServing l).afterCut
  · exact h

theorem emptyReply (h : s.Reacted u) {o : Fin 24} : s.Reacted (emptyReply o u) := by
  unfold Machine.emptyReply
  split
  · exact h.modPort ⟨rfl, List.suffix_refl _, .inr rfl, fun _ => rfl, le_refl _⟩
  · exact h

theorem completeUnit (h : s.Reacted u) {o : Fin 24} {x : OutUnit}
    (l : (s.outlet o).state.takesItems = true) : s.Reacted (completeUnit o x u) := by
  have hm : s.Reacted (u.modOutlet o (fun y => { y.dropMore x.chars.length with unit := none })) :=
    h.modServing l (c := fun _ => le_incBy _ _)
  unfold Machine.completeUnit
  dsimp only
  split
  · exact hm
  · exact hm
  · unfold State.modCarried
    split
    · exact hm.modEntry .noticed
    · exact hm
  · exact hm.claimDone l
  · exact hm.emptyReply
  · exact hm.modServing l

/-! ## Driving an outlet that serves -/

theorem setOutletState (h : s.Reacted u) {o : Fin 24} {st : OutletState}
    (l : (s.outlet o).state.takesItems = true) (e : st.takesItems = true) :
    s.Reacted (setOutletState o st u) :=
  h.modServing l (by intro _ _; exact e)

theorem pauseOutlet (h : s.Reacted u) {o : Fin 24} (l : (s.outlet o).state.takesItems = true) :
    s.Reacted (pauseOutlet o u) := by
  unfold Machine.pauseOutlet
  split
  · exact h
  · exact h.setOutletState l rfl

theorem clearFill (h : s.Reacted u) {o : Fin 24} : s.Reacted (clearFill o u) := by
  unfold Machine.clearFill
  split
  · exact h.modControl fun _ => ⟨rfl, by simp⟩
  · exact h

theorem motorRunOn_setting (x : Control) (n : Nat) :
    (x.motorRunOn n).setting = x.setting ∧ ((x.motorRunOn n).fillOwed = true → x.fillOwed = true) := by
  unfold Control.motorRunOn
  split <;> exact ⟨rfl, id⟩

theorem fallIdle (h : s.Reacted u) {o : Fin 24} (l : (s.outlet o).state.takesItems = true) :
    s.Reacted (fallIdle o u) := by
  have hs := h.setOutletState (st := .idle) l rfl
  unfold Machine.fallIdle
  dsimp only
  split
  · exact hs.modControl fun x => motorRunOn_setting x _
  · exact hs

theorem handOver (h : s.Reacted u) {o : Fin 24} {x : OutUnit}
    (l : (s.outlet o).state.takesItems = true) (n : u.lineBusy o = false) :
    s.Reacted (handOver o x u) := by
  unfold State.lineBusy at n
  unfold Machine.handOver
  split
  · rename_i c e
    simp only [e] at n
    split
    · refine (h.modCircuit ⟨rfl, rfl, rfl, rfl, rfl, rfl, fun _ => rfl, fun b => ?_⟩).modServing l
        (fun _ => id) (fun _ => rfl) (fun _ => le_refl _) (fun _ => le_refl _)
      exact absurd b (by simp [n])
    · exact h
  · rename_i t e1 e2
    simp only [e1, e2] at n
    split
    · refine (h.modPort ⟨rfl, List.suffix_refl _, .inl rfl, fun b => ?_, le_refl _⟩).modServing l
        (fun _ => id) (fun _ => rfl) (fun _ => le_refl _) (fun _ => le_refl _)
      exact absurd b (by simp [n])
    · exact h
  · exact h

theorem sendAsCode_record (cfg : CircuitConfig) (x : Outlet) (ch : Office) (c : Code) (p : SendPlane) :
    (sendAsCode cfg x ch c p).1.state = x.state ∧ (sendAsCode cfg x ch c p).1.stalls = x.stalls
      ∧ (sendAsCode cfg x ch c p).1.substitutions = x.substitutions
      ∧ (sendAsCode cfg x ch c p).1.drops = x.drops := by
  unfold sendAsCode Outlet.shifted
  dsimp only
  split <;> simp

theorem convertChar_record (pg : Page) (cfg : CircuitConfig) (x : Outlet) (ch : Office) :
    (convertChar pg cfg x ch).1.state = x.state ∧ (convertChar pg cfg x ch).1.stalls = x.stalls
      ∧ x.substitutions ≤ (convertChar pg cfg x ch).1.substitutions
      ∧ x.drops ≤ (convertChar pg cfg x ch).1.drops := by
  have key := sendAsCode_record
  unfold convertChar Outlet.dropped
  split
  · rename_i c p _
    obtain ⟨a, b, d, e⟩ := key cfg x ch c p
    exact ⟨a, b, d.ge, e.ge⟩
  · exact ⟨rfl, rfl, le_refl _, le_inc _⟩
  · split
    · rename_i c p _
      obtain ⟨a, b, d, e⟩ := key cfg { x with substitutions := inc x.substitutions } pg.substitute c p
      exact ⟨a, b, d.ge.trans' (le_inc _), e.ge⟩
    · exact ⟨rfl, rfl, le_refl _, le_inc _⟩
    · exact ⟨rfl, rfl, le_refl _, le_inc _⟩

theorem convertNext (h : s.Reacted u) {o : Fin 24} {x : OutUnit}
    (l : (s.outlet o).state.takesItems = true) : s.Reacted (convertNext o x u) := by
  unfold Machine.convertNext
  split
  · rename_i c ch rest _ _
    obtain ⟨a, b, d, e⟩ := convertChar_record (u.page (u.circuit c).config.page)
      (u.circuit c).config
      ((u.outlet o).dropMore (x.chars.takeWhile (fun ch => !u.willSend o ch)).length) ch
    refine h.modOutlet (.serving (h.serves l) ?_ b d ((le_incBy _ _).trans e))
    change (convertChar _ _ ((u.outlet o).dropMore _) ch).1.state.takesItems = true
    rw [a]
    exact h.serves l
  · exact h

theorem drive {n : Nat} {o : Fin 24} (h : s.Reacted u)
    (l : (s.outlet o).state.takesItems = true) : s.Reacted (drive n o u) := by
  induction n generalizing u with
  | zero => exact h
  | succ n ih =>
    unfold Machine.drive
    dsimp only
    split
    · split
      · exact h.pauseOutlet l
      · split
        · exact ih ((h.takeBoundary l).setOutletState l rfl)
        · exact (h.takeBoundary l).fallIdle l
    · split
      · exact ih (h.completeUnit l)
      · split
        · exact h.pauseOutlet l
        · split
          · exact h.setOutletState l rfl
          · rename_i nb
            split
            · exact ih ((h.setOutletState l rfl).convertNext l)
            · exact (h.setOutletState l rfl).handOver l (by simpa using nb)

theorem goOn (h : s.Reacted u) {o : Fin 24} (l : (s.outlet o).state.takesItems = true) :
    s.Reacted (goOn o u) := by
  unfold Machine.goOn
  exact h.drive l

theorem lineGainsWork (h : s.Reacted u) {o : Fin 24} {c : Fin 16}
    (l : (s.outlet o).state.takesItems = true) : s.Reacted (lineGainsWork o c u) := by
  have key : s.Reacted (Machine.arbitrate o (Machine.setOutletState o .starting
      (u.modControl c (fun x => x.motorLead (u.circuit c).config.motorLead)))) :=
    (h.modControl.setOutletState l rfl).arbitrate l
  unfold Machine.lineGainsWork
  dsimp only
  split
  · split
    · exact key.modControl.goOn l
    · exact key
  · exact h.modControl.goOn l

theorem gainWork (h : s.Reacted u) {o : Fin 24} (l : (s.outlet o).state.takesItems = true) :
    s.Reacted (gainWork o u) := by
  unfold Machine.gainWork
  dsimp only
  split
  · exact h.clearFill.lineGainsWork l
  · exact h.clearFill.goOn l

theorem leavePause (h : s.Reacted u) {o : Fin 24} (l : (s.outlet o).state.takesItems = true) :
    s.Reacted (leavePause o u) := by
  unfold Machine.leavePause
  split
  · split
    · exact h.completeUnit l
    · exact h
  · split
    · exact h.setOutletState l rfl
    · exact h.goOn l

theorem react {o : Fin 24} : s.Reacted (react o s) := by
  unfold Machine.react
  split <;> rename_i e
  · exact refl s
  · exact refl s
  · exact (refl s).gainWork (by rw [e]; rfl)
  · exact (refl s).goOn (by rw [e]; rfl)
  · exact (refl s).goOn (by rw [e]; rfl)
  · exact (refl s).leavePause (by rw [e]; rfl)

theorem reactAll {n : Nat} (h : s.Reacted u) : s.Reacted (reactAll n u) := by
  induction n generalizing u with
  | zero => exact h
  | succ n ih =>
    unfold Machine.reactAll
    split
    · exact h
    · exact ih (h.trans react)

/-- What the outlets do after a step's own effect. -/
theorem settle (h : s.Reacted u) : s.Reacted (settle u) := by
  unfold Machine.settle
  refine forEach (fun c v hv => ?_) (forEach (fun t v hv => ?_) h.reactAll)
  · unfold driveOutputs showCauses
    refine (hv.modOutlet ?_).modControl fun _ => ⟨rfl, id⟩
    exact ⟨fun _ => rfl, id, rfl, le_refl _, le_refl _⟩
  · unfold stallTimer
    refine modOutlet hv ⟨?_, ?_, ?_, ?_, ?_⟩
    · exact fun _ => rfl
    · exact id
    · rfl
    · exact le_refl _
    · exact le_refl _

end State.Reacted

end Sys2Proof.Machine
end

