-- ==== Sys2Proof/Laws/Updates.lean ====
section
/-! SUPPORT. The named updates as record updates, two updates of one record as one, an update that changes
nothing, and a state told by its banks; a state settled. -/

namespace Sys2Proof.Machine

/-! ## A bank written twice, or with what it holds -/

theorem vector_set_same {α : Type} {n : Nat} (v : Vector α n) (i : Fin n) :
    v.set i (v.get i) = v := by simp [Vector.get]

theorem vector_set_set {α : Type} {n : Nat} (v : Vector α n) (i : Fin n) (x y : α) :
    (v.set i x).set i y = v.set i y := by simp

theorem vector_ext {α : Type} {n : Nat} {v w : Vector α n} (h : ∀ i : Fin n, v.get i = w.get i) :
    v = w := by
  apply Vector.ext
  intro i hi
  exact h ⟨i, hi⟩

namespace State

/-! ## Circuit -/

theorem modCircuit_eq {s : State} {c : Fin 16} {f : Circuit → Circuit} {y : Circuit} (h : f (s.circuit c) = y) :
    s.modCircuit c f = { s with circuits := s.circuits.set c y } := by subst h; rfl

theorem modCircuit_same {s : State} {c : Fin 16} {f : Circuit → Circuit} (h : f (s.circuit c) = s.circuit c) :
    s.modCircuit c f = s := by
  rw [modCircuit_eq h]
  exact congrArg (fun w => { s with circuits := w }) (vector_set_same _ _)

theorem modCircuit_modCircuit (s : State) (c : Fin 16) (f g : Circuit → Circuit) :
    (s.modCircuit c f).modCircuit c g = s.modCircuit c (fun x => g (f x)) := by
  have h : (s.modCircuit c f).circuit c = f (s.circuit c) := by simp
  unfold State.modCircuit at h ⊢
  rw [h]
  exact congrArg (fun w => { s with circuits := w }) (vector_set_set _ _ _ _)

/-! ## Port -/

theorem modPort_eq {s : State} {t : Fin 8} {f : Port → Port} {y : Port} (h : f (s.port t) = y) :
    s.modPort t f = { s with ports := s.ports.set t y } := by subst h; rfl

theorem modPort_same {s : State} {t : Fin 8} {f : Port → Port} (h : f (s.port t) = s.port t) :
    s.modPort t f = s := by
  rw [modPort_eq h]
  exact congrArg (fun w => { s with ports := w }) (vector_set_same _ _)

theorem modPort_modPort (s : State) (t : Fin 8) (f g : Port → Port) :
    (s.modPort t f).modPort t g = s.modPort t (fun x => g (f x)) := by
  have h : (s.modPort t f).port t = f (s.port t) := by simp
  unfold State.modPort at h ⊢
  rw [h]
  exact congrArg (fun w => { s with ports := w }) (vector_set_set _ _ _ _)

/-! ## Parser -/

theorem modParser_eq {s : State} {t : Fin 8} {f : Parser → Parser} {y : Parser} (h : f (s.parser t) = y) :
    s.modParser t f = { s with parsers := s.parsers.set t y } := by subst h; rfl

theorem modParser_same {s : State} {t : Fin 8} {f : Parser → Parser} (h : f (s.parser t) = s.parser t) :
    s.modParser t f = s := by
  rw [modParser_eq h]
  exact congrArg (fun w => { s with parsers := w }) (vector_set_same _ _)

theorem modParser_modParser (s : State) (t : Fin 8) (f g : Parser → Parser) :
    (s.modParser t f).modParser t g = s.modParser t (fun x => g (f x)) := by
  have h : (s.modParser t f).parser t = f (s.parser t) := by simp
  unfold State.modParser at h ⊢
  rw [h]
  exact congrArg (fun w => { s with parsers := w }) (vector_set_set _ _ _ _)

/-! ## Framer -/

theorem modFramer_eq {s : State} {i : Fin 24} {f : Framer → Framer} {y : Framer} (h : f (s.framer i) = y) :
    s.modFramer i f = { s with framers := s.framers.set i y } := by subst h; rfl

theorem modFramer_same {s : State} {i : Fin 24} {f : Framer → Framer} (h : f (s.framer i) = s.framer i) :
    s.modFramer i f = s := by
  rw [modFramer_eq h]
  exact congrArg (fun w => { s with framers := w }) (vector_set_same _ _)

theorem modFramer_modFramer (s : State) (i : Fin 24) (f g : Framer → Framer) :
    (s.modFramer i f).modFramer i g = s.modFramer i (fun x => g (f x)) := by
  have h : (s.modFramer i f).framer i = f (s.framer i) := by simp
  unfold State.modFramer at h ⊢
  rw [h]
  exact congrArg (fun w => { s with framers := w }) (vector_set_set _ _ _ _)

/-! ## Outlet -/

theorem modOutlet_eq {s : State} {o : Fin 24} {f : Outlet → Outlet} {y : Outlet} (h : f (s.outlet o) = y) :
    s.modOutlet o f = { s with outlets := s.outlets.set o y } := by subst h; rfl

theorem modOutlet_same {s : State} {o : Fin 24} {f : Outlet → Outlet} (h : f (s.outlet o) = s.outlet o) :
    s.modOutlet o f = s := by
  rw [modOutlet_eq h]
  exact congrArg (fun w => { s with outlets := w }) (vector_set_same _ _)

theorem modOutlet_modOutlet (s : State) (o : Fin 24) (f g : Outlet → Outlet) :
    (s.modOutlet o f).modOutlet o g = s.modOutlet o (fun x => g (f x)) := by
  have h : (s.modOutlet o f).outlet o = f (s.outlet o) := by simp
  unfold State.modOutlet at h ⊢
  rw [h]
  exact congrArg (fun w => { s with outlets := w }) (vector_set_set _ _ _ _)

/-! ## Control -/

theorem modControl_eq {s : State} {c : Fin 16} {f : Control → Control} {y : Control} (h : f (s.control c) = y) :
    s.modControl c f = { s with controls := s.controls.set c y } := by subst h; rfl

theorem modControl_same {s : State} {c : Fin 16} {f : Control → Control} (h : f (s.control c) = s.control c) :
    s.modControl c f = s := by
  rw [modControl_eq h]
  exact congrArg (fun w => { s with controls := w }) (vector_set_same _ _)

theorem modControl_modControl (s : State) (c : Fin 16) (f g : Control → Control) :
    (s.modControl c f).modControl c g = s.modControl c (fun x => g (f x)) := by
  have h : (s.modControl c f).control c = f (s.control c) := by simp
  unfold State.modControl at h ⊢
  rw [h]
  exact congrArg (fun w => { s with controls := w }) (vector_set_set _ _ _ _)

/-! ## Story -/

theorem modStory_eq {s : State} {k : Fin 48} {f : Story → Story} {y : Story}
    (h : { f (s.story k) with changed := true } = y) :
    s.modStory k f = { s with stories := s.stories.set k y } := h ▸ rfl

end State

/-! ## A state settled -/

theorem settled (u : State) : u.Reacted (settle u) := (State.Reacted.refl u).settle

/-- A step whose own effect is a state named otherwise. -/
theorem settled_as {u v : State} (h : v = u) : u.Reacted (settle v) := h ▸ settled v

/-! ## Numbers carried in arguments -/

theorem circuitOf_some {n : Nat} {c : Fin 16} (h : n = c.val) : circuitOf n = some c := by
  subst h
  unfold circuitOf
  simp

theorem circuitOf_none {n : Nat} (h : 16 ≤ n) : circuitOf n = none := by
  unfold circuitOf
  rw [dif_neg (by omega)]

theorem terminalOf_some {n : Nat} {t : Fin 8} (h : n = t.val) : terminalOf n = some t := by
  subst h
  unfold terminalOf
  simp

theorem terminalOf_none {n : Nat} (h : 8 ≤ n) : terminalOf n = none := by
  unfold terminalOf
  rw [dif_neg (by omega)]

end Sys2Proof.Machine
end

