-- ==== Sys2Proof/Laws/Arbitration.lean ====
section
/-! SUPPORT. Arbitration said once: who is eligible, who comes first, what a grant and a preemption leave
(R125 to R127). -/

namespace Sys2Proof.Machine

variable {s : State} {o : Fin 24}

/-- The fold that picks a slot of least key keeps a least one. -/
theorem first_least (key : Fin 48 → Nat) (l : List (Fin 48)) (b : Option (Fin 48)) (w : Fin 48)
    (h : l.foldl (fun best k => match best with
      | none => some k
      | some b => if key k < key b then some k else some b) b = some w) :
    (∀ k ∈ l, key w ≤ key k) ∧ ∀ k, b = some k → key w ≤ key k := by
  induction l generalizing b with
  | nil =>
    refine ⟨by simp, fun k e => ?_⟩
    rw [List.foldl_nil, e] at h
    cases h
    exact le_rfl
  | cons a l ih =>
    rw [List.foldl_cons] at h
    obtain ⟨h1, h2⟩ := ih _ h
    cases b with
    | none =>
      have := h2 a rfl
      exact ⟨fun k hk => (List.mem_cons.1 hk).elim (fun e => e ▸ this) (h1 k), fun k e => by cases e⟩
    | some b =>
      simp only at h2
      split at h2
      · rename_i lt
        have := h2 a rfl
        exact ⟨fun k hk => (List.mem_cons.1 hk).elim (fun e => e ▸ this) (h1 k), fun k e => by
          cases e; omega⟩
      · rename_i ge
        have := h2 b rfl
        exact ⟨fun k hk => (List.mem_cons.1 hk).elim (fun e => by rw [e]; omega) (h1 k), fun k e => by
          cases e; omega⟩

/-- The fold answers none on an empty list alone. -/
theorem first_some (key : Fin 48 → Nat) (l : List (Fin 48)) (b : Fin 48) :
    ∃ w, l.foldl (fun best k => match best with
      | none => some k
      | some b => if key k < key b then some k else some b) (some b) = some w := by
  induction l generalizing b with
  | nil => exact ⟨b, rfl⟩
  | cons a l ih =>
    rw [List.foldl_cons]
    simp only
    split
    · exact ih a
    · exact ih b

/-- The winner has the least key of the eligible waiting slots. -/
theorem State.winner_least {w : Fin 48} (h : s.winner o = some w) :
    ∀ k ∈ (s.outlet o).waiting, s.eligible o k = true → s.key o w ≤ s.key o k := by
  intro k hk he
  exact (first_least (s.key o) _ none w h).1 k (List.mem_filter.2 ⟨hk, he⟩)

/-- There is a winner where a waiting slot is eligible. -/
theorem State.winner_exists {k : Fin 48} (hk : k ∈ (s.outlet o).waiting)
    (he : s.eligible o k = true) : ∃ w, s.winner o = some w := by
  have : k ∈ (s.outlet o).waiting.filter (s.eligible o) := List.mem_filter.2 ⟨hk, he⟩
  unfold State.winner State.first
  cases hl : (s.outlet o).waiting.filter (s.eligible o) with
  | nil => rw [hl] at this; cases this
  | cons a l =>
    rw [List.foldl_cons]
    exact first_some (s.key o) l a

/-- The entry of an eligible slot. -/
theorem State.eligible_iff (h : s.TableOk) {k : Fin 48} : s.eligible o k = true ↔
    (s.story k).state ≠ .held ∧ ∃ e ∈ (s.story k).entries, e.outlet = o ∧
      (e.state = .waiting ∨ e.state = .suspended .preempted) := by
  unfold State.eligible State.entry
  simp only [Bool.and_eq_true, decide_eq_true_eq]
  rw [and_comm]
  refine and_congr_right fun _ => ?_
  constructor
  · intro a
    cases he : (s.story k).entryOn o with
    | none => rw [he] at a; cases a
    | some e =>
      rw [he] at a
      refine ⟨e, (Story.entryOn_some he).1, (Story.entryOn_some he).2, ?_⟩
      have b : e.state.grantable = true := a
      revert b
      cases e.state with
      | suspended c => cases c <;> simp [EntryState.grantable]
      | _ => simp [EntryState.grantable]
  · rintro ⟨e, he, ho, a⟩
    rw [← ho, (h.stories k).entryOn_eq he]
    rcases a with a | a <;> simp [a, EntryState.grantable]

/-- An eligible slot stands on the waiting list. -/
theorem State.eligible_waits (h : s.TableOk) {k : Fin 48} (he : s.eligible o k = true) :
    k ∈ (s.outlet o).waiting := by
  obtain ⟨_, e, a, b, c⟩ := (State.eligible_iff h).1 he
  refine ((h.outlets o).waits k).2 ((Story.has_iff _ _ _).2 ⟨e, a, b, ?_⟩)
  rcases c with c | c <;> simp [c, EntryState.waits]

/-- Where an entry stands among those of its priority. -/
theorem State.standing_eq (h : s.TableOk) {k : Fin 48} {e : Entry} (he : e ∈ (s.story k).entries)
    (ho : e.outlet = o) : s.standing o k = if e.state = .waiting then 1 else 0 := by
  unfold State.standing State.entry
  rw [← ho, (h.stories k).entryOn_eq he]
  simp

/-- A grant, as the records it leaves: the entry CARRYING, the slot off the list, the holder named. -/
theorem grant_eq (h : s.TableOk) {k : Fin 48} {e : Entry} (he : e ∈ (s.story k).entries)
    (ho : e.outlet = o) (hl : e.state.live = true) : grant o k s = { s with
      stories := s.stories.set k { s.story k with
        changed := true
        entries := (s.story k).entries.map (fun d =>
          if d.outlet = o then { d with state := .carrying } else d) }
      outlets := s.outlets.set o { s.outlet o with
        waiting := (s.outlet o).waiting.filter (fun j => j ≠ k), holder := some k } } := by
  have : (s.story k).modEntry o Entry.grant = { s.story k with
      entries := (s.story k).entries.map (fun d =>
        if d.outlet = o then { d with state := .carrying } else d) } := by
    unfold Story.modEntry
    congr 1
    refine List.map_congr_left fun d hd => ?_
    by_cases hdo : d.outlet = o
    · have : d = e := entry_unique (h.stories k).sorted hd he (hdo.trans ho.symm)
      rw [if_pos hdo, if_pos hdo, this]
      simp [Entry.grant, hl]
    · rw [if_neg hdo, if_neg hdo]
  unfold grant
  rw [State.modStory_eq (k := k) (congrArg (fun x : Story => { x with changed := true }) this)]
  rfl

end Sys2Proof.Machine
end

