-- ==== Sys2Proof/Laws/Links.lean ====
section
/-! SUPPORT. How far an operation reaches: into one story (`OnStory`), into one framer (`OnFramer`), or
into no story a framer is in (`Links`); and what that leaves of the framers' invariant. -/

namespace Sys2Proof.Machine

theorem index_inj {a b : Source} (h : a.index = b.index) : a = b := by
  cases a <;> cases b <;> simp [Source.index, Fin.ext_iff] at h ⊢ <;> omega

theorem framerOf_modFramerOf (u : State) (src src' : Source) (f : Framer → Framer) :
    framerOf src' (modFramerOf src f u) =
      if src' = src then f (framerOf src u) else framerOf src' u := by
  simp only [framerOf, modFramerOf, State.framer_modFramer]
  by_cases e : src' = src
  · simp [e]
  · have : src'.index ≠ src.index := fun a => e (index_inj a)
    simp [e, this]

/-! ## One story -/

/-- Only story k has changed, its source and framers as they were, no entry of it come alive. -/
structure OnStory (k : Fin 48) (u v : State) : Prop where
  framers : ∀ i, v.framer i = u.framer i
  others : ∀ j, j ≠ k → v.story j = u.story j
  source : (v.story k).source = (u.story k).source
  fewer : ∀ o, (v.story k).liveOn o = true → (u.story k).liveOn o = true

namespace OnStory

variable {u v : State} {k : Fin 48}

theorem refl (u : State) : OnStory k u u := ⟨fun _ => rfl, fun _ _ => rfl, rfl, fun _ => id⟩

theorem trans {w : State} (h : OnStory k u v) (g : OnStory k v w) : OnStory k u w where
  framers i := (g.framers i).trans (h.framers i)
  others j n := (g.others j n).trans (h.others j n)
  source := g.source.trans h.source
  fewer o a := h.fewer o (g.fewer o a)

theorem aside {w : State} (h : OnStory k u v) (a : Aside v w) : OnStory k u w :=
  h.trans ⟨a.framers, fun j _ => a.stories j, by rw [a.stories], fun o => by rw [a.stories]; exact id⟩

theorem setStory (h : OnStory k u v) {x : Story} (source : x.source = (v.story k).source)
    (fewer : ∀ o, x.liveOn o = true → (v.story k).liveOn o = true) :
    OnStory k u (v.setStory k x) :=
  h.trans ⟨fun _ => rfl, fun j n => by simp [n], by simp [source], by simpa using fewer⟩

theorem modStory (h : OnStory k u v) {f : Story → Story}
    (source : (f (v.story k)).source = (v.story k).source := by rfl)
    (fewer : ∀ o, (f (v.story k)).liveOn o = true → (v.story k).liveOn o = true := by
      exact fun _ => id) :
    OnStory k u (v.modStory k f) := h.setStory source fewer

theorem modOutlet (h : OnStory k u v) {o : Fin 24} {f : Outlet → Outlet} :
    OnStory k u (v.modOutlet o f) :=
  h.trans ⟨fun _ => rfl, fun _ _ => rfl, rfl, fun _ => id⟩

theorem raise (h : OnStory k u v) {f : Flag} : OnStory k u (v.raise f) :=
  h.aside (Aside.refl _).raise

theorem oweItem (h : OnStory k u v) {o : Fin 24} {kind : OwedKind} {j : Fin 48} :
    OnStory k u (oweItem o kind j v) := by
  unfold Machine.oweItem
  split
  · exact h.modOutlet
  · exact h

theorem oweCut (h : OnStory k u v) {o : Fin 24} {j : Fin 48} {why : CutReason} :
    OnStory k u (oweCut o j why v) := by
  unfold Machine.oweCut
  split
  · exact h.oweItem
  · exact h

theorem cut_fewer {st : Story} {o o' : Fin 24} {n : Nat} {why : CutReason}
    (h : (st.modEntry o (fun e => e.cut n why)).liveOn o' = true) : st.liveOn o' = true := by
  obtain ⟨x, hx, ho, hl⟩ := (Story.liveOn_iff _ _).1 h
  obtain ⟨e, he, rfl⟩ := Story.mem_modEntry.1 hx
  split at hl
  · simp [Entry.cut, EntryState.live] at hl
  · rename_i hn
    rw [if_neg hn] at ho
    exact (Story.liveOn_iff _ _).2 ⟨e, he, ho, hl⟩

theorem cutRecord (h : OnStory k u v) {o : Fin 24} {why : CutReason} :
    OnStory k u (cutRecord k o why v) := by
  unfold Machine.cutRecord
  split
  · exact OnStory.aside (OnStory.oweCut (OnStory.modOutlet
      (h.modStory rfl (fun _ a => cut_fewer a)))) (Aside.refl _).raiseIf
  · exact h

theorem closeIfDone (h : OnStory k u v) : OnStory k u (closeIfDone k v) := by
  unfold Machine.closeIfDone
  split
  · exact h.modStory.raise
  · exact h

theorem toClosing (h : OnStory k u v) {why : CloseReason} : OnStory k u (toClosing k why v) := by
  unfold Machine.toClosing
  exact (h.modStory.aside (Aside.refl _).quietTestSource).closeIfDone

theorem rejectStory (h : OnStory k u v) {why : CloseReason} :
    OnStory k u (rejectStory k why v) := by
  unfold Machine.rejectStory
  exact h.modStory.aside (Aside.refl _).raise.offerSource.quietTestSource

theorem forEach {α : Type} {l : List α} {f : α → State → State}
    (e : ∀ a, ∀ w, OnStory k u w → OnStory k u (f a w)) (h : OnStory k u v) :
    OnStory k u (Machine.forEach l f v) := by
  unfold Machine.forEach
  induction l generalizing v with
  | nil => exact h
  | cons a l ih => exact ih (e a _ h)

theorem lapCuts (h : OnStory k u v) : OnStory k u (lapCuts k v) :=
  h.forEach fun _ _ hw => hw.cutRecord.aside (Aside.refl _).quietTestOutlet

theorem writeOne (h : OnStory k u v) {ch : Office} : OnStory k u (writeOne k ch v) := by
  unfold Machine.writeOne
  dsimp only
  split
  · exact h.lapCuts.modStory
  · exact h.modStory

theorem writeChars {chs : List Office} (h : OnStory k u v) :
    OnStory k u (writeChars k chs v).2 := by
  induction chs generalizing v with
  | nil => exact h
  | cons ch rest ih =>
    unfold Machine.writeChars
    split
    · exact ih h.writeOne
    · exact h

theorem writeText (h : OnStory k u v) {chs : List Office} : OnStory k u (writeText k chs v).2 := by
  have key : ∀ w, OnStory k u w → OnStory k u
      (if ((Machine.writeChars k chs w).2.story k).taken = Config.takenMax then
        ((Machine.writeChars k chs w).1, Machine.toClosing k .tooLong (Machine.writeChars k chs w).2)
        else Machine.writeChars k chs w).2 := by
    intro w hw
    split
    · exact hw.writeChars.toClosing
    · exact hw.writeChars
  unfold Machine.writeText
  dsimp only
  refine key _ ?_
  split
  · exact h
  · exact h.modStory

theorem restartIdle (h : OnStory k u v) : OnStory k u (restartIdle k v) := by
  unfold Machine.restartIdle
  split
  · exact h
  · exact h.setStory rfl (fun _ => id)

end OnStory

/-! ## One framer -/

/-- Only the framer of a source has changed, and what no invariant speaks of. -/
structure OnFramer (src : Source) (u v : State) : Prop where
  stories : ∀ k, v.story k = u.story k
  framers : ∀ src', src' ≠ src → framerOf src' v = framerOf src' u
  order : v.openOrder = u.openOrder
  next : v.nextNumber = u.nextNumber
  waiting : ∀ o, (v.outlet o).waiting = (u.outlet o).waiting
  holder : ∀ o, (v.outlet o).holder = (u.outlet o).holder
  owed : ∀ o, (v.outlet o).owed = (u.outlet o).owed

namespace OnFramer

variable {u v : State} {src : Source}

theorem refl (u : State) : OnFramer src u u := by constructor <;> simp

theorem trans {w : State} (h : OnFramer src u v) (g : OnFramer src v w) : OnFramer src u w where
  stories k := (g.stories k).trans (h.stories k)
  framers k n := (g.framers k n).trans (h.framers k n)
  order := g.order.trans h.order
  next := g.next.trans h.next
  waiting o := (g.waiting o).trans (h.waiting o)
  holder o := (g.holder o).trans (h.holder o)
  owed o := (g.owed o).trans (h.owed o)

theorem aside {w : State} (h : OnFramer src u v) (a : Aside v w) : OnFramer src u w :=
  h.trans ⟨a.stories, fun _ _ => by simp only [framerOf, a.framers], a.order, a.next, a.waiting,
    a.holder, a.owed⟩

theorem modFramerOf (h : OnFramer src u v) {f : Framer → Framer} :
    OnFramer src u (modFramerOf src f v) :=
  h.trans ⟨fun _ => rfl, fun s n => by simp [framerOf_modFramerOf, n], rfl, rfl, fun _ => rfl,
    fun _ => rfl, fun _ => rfl⟩

end OnFramer

theorem State.TableOk.onFramer {u v : State} {src : Source} (h : u.TableOk)
    (a : OnFramer src u v) : v.TableOk where
  stories k := by rw [a.stories]; exact h.stories k
  order := by rw [a.order]; exact h.order
  ordered k := by rw [a.order, a.stories]; exact h.ordered k
  numbers j k := by rw [a.stories, a.stories]; exact h.numbers j k
  next := by rw [a.next]; exact h.next
  outlets o := by
    refine ⟨?_, ?_, ?_, ?_, ?_⟩
    · rw [a.waiting]; exact (h.outlets o).once
    · intro k; rw [a.waiting, a.stories]; exact (h.outlets o).waits k
    · intro k; rw [a.holder, a.stories]; exact (h.outlets o).holds k
    · intro i hi; rw [a.owed] at hi; rw [a.stories]; exact (h.outlets o).owes i hi
    · rw [a.owed]; exact (h.outlets o).owesOnce

/-! ## No story a framer is in -/

/-- A framer can have a story in a state. -/
def StoryState.framed : StoryState → Bool
  | .header | .running | .held => true
  | .free | .closing | .closed => false

theorem framed_of_fits {a : FramerState} {b : StoryState} (h : fits a b = true) :
    b.framed = true := by
  cases a <;> cases b <;> simp_all [fits, StoryState.framed]

/-- The framers are as they were, and every story a framer could have stands as it did. -/
structure Links (u v : State) : Prop where
  framers : ∀ i, v.framer i = u.framer i
  source : ∀ k, (v.story k).source = (u.story k).source
  state : ∀ k, (u.story k).state.framed = true → (v.story k).state = (u.story k).state

namespace Links

variable {u v : State}

theorem refl (u : State) : Links u u := ⟨fun _ => rfl, fun _ => rfl, fun _ _ => rfl⟩

theorem trans {w : State} (h : Links u v) (g : Links v w) : Links u w where
  framers i := (g.framers i).trans (h.framers i)
  source k := (g.source k).trans (h.source k)
  state k f := (g.state k (by rw [h.state k f]; exact f)).trans (h.state k f)

theorem aside {w : State} (h : Links u v) (a : Aside v w) : Links u w :=
  h.trans ⟨a.framers, fun k => by rw [a.stories], fun k _ => by rw [a.stories]⟩

theorem modOutlet (h : Links u v) {o : Fin 24} {f : Outlet → Outlet} : Links u (v.modOutlet o f) :=
  h.trans ⟨fun _ => rfl, fun _ => rfl, fun _ _ => rfl⟩

theorem setStory (h : Links u v) {k : Fin 48} {x : Story} (source : x.source = (v.story k).source)
    (state : (v.story k).state.framed = true → x.state = (v.story k).state) :
    Links u (v.setStory k x) := by
  refine h.trans ⟨fun _ => rfl, ?_, ?_⟩
  · intro j
    simp only [State.story_setStory]
    split
    · rename_i e; rw [source, e]
    · rfl
  · intro j
    simp only [State.story_setStory]
    split
    · rename_i e; rw [e]; exact state
    · exact fun _ => rfl

theorem modStory (h : Links u v) {k : Fin 48} {f : Story → Story}
    (source : (f (v.story k)).source = (v.story k).source := by rfl)
    (state : (v.story k).state.framed = true → (f (v.story k)).state = (v.story k).state := by
      exact fun _ => rfl) :
    Links u (v.modStory k f) := h.setStory source state

theorem forEach {α : Type} {l : List α} {f : α → State → State}
    (e : ∀ a, ∀ w, Links u w → Links u (f a w)) (h : Links u v) :
    Links u (Machine.forEach l f v) := by
  unfold Machine.forEach
  induction l generalizing v with
  | nil => exact h
  | cons a l ih => exact ih (e a _ h)

theorem oweItem (h : Links u v) {o : Fin 24} {kind : OwedKind} {j : Fin 48} :
    Links u (oweItem o kind j v) := by
  unfold Machine.oweItem
  split
  · exact h.modOutlet
  · exact h

theorem cutRecord (h : Links u v) {k : Fin 48} {o : Fin 24} {why : CutReason} :
    Links u (cutRecord k o why v) := by
  have key := h.modStory (k := k)
    (f := fun st => st.modEntry o (fun e => e.cut (v.story k).taken why))
  unfold Machine.cutRecord
  split
  · refine Links.aside ?_ (Aside.refl _).raiseIf
    unfold Machine.oweCut
    split
    · exact key.modOutlet.oweItem
    · exact key.modOutlet
  · exact h

theorem closeIfDone (h : Links u v) {k : Fin 48} : Links u (closeIfDone k v) := by
  unfold Machine.closeIfDone
  split
  · rename_i hc
    exact (h.modStory rfl (fun f => by simp [hc.1, StoryState.framed] at f)).aside
      (Aside.refl _).raise
  · exact h

theorem grant (h : Links u v) {o : Fin 24} {k : Fin 48} : Links u (grant o k v) :=
  h.modStory.modOutlet

theorem preempt (h : Links u v) {o : Fin 24} {k : Fin 48} : Links u (preempt o k v) := by
  unfold Machine.preempt
  dsimp only
  split
  · exact h.modStory.modOutlet.oweItem
  · exact h.modStory.modOutlet

theorem arbitrate (h : Links u v) {o : Fin 24} : Links u (arbitrate o v) := by
  unfold Machine.arbitrate
  split
  · exact h
  · exact h.grant
  · exact h.preempt.grant

theorem suspendCaughtUp (h : Links u v) {o : Fin 24} : Links u (suspendCaughtUp o v) := by
  unfold Machine.suspendCaughtUp
  split
  · exact h
  · split
    · exact h.modStory.modOutlet.oweItem
    · exact h

end Links

/-! ## What is left of the framers' invariant -/

variable {u v : State}

theorem State.FramersOk.links (h : u.FramersOk) (l : Links u v) : v.FramersOk := by
  intro src k hk
  unfold framerOf at hk ⊢
  rw [l.framers] at hk
  obtain ⟨a, b⟩ := h src k hk
  unfold framerOf at b
  rw [l.framers, l.source, l.state k (framed_of_fits b)]
  exact ⟨a, b⟩

/-- Operations on one framer and on the one story of its source keep the framers' invariant if that
framer has no slot after them, or again a story that fits. -/
theorem State.FramersOk.one (h : u.FramersOk) {src : Source} {k : Fin 48}
    (hk : (u.story k).source = src)
    (framers : ∀ src', src' ≠ src → framerOf src' v = framerOf src' u)
    (others : ∀ j, j ≠ k → v.story j = u.story j)
    (own : ∀ j, (framerOf src v).slot = some j →
      (v.story j).source = src ∧ fits (framerOf src v).state (v.story j).state = true) :
    v.FramersOk := by
  intro src' j hj
  by_cases e : src' = src
  · subst e; exact own j hj
  · rw [framers src' e] at hj ⊢
    obtain ⟨a, b⟩ := h src' j hj
    have : j ≠ k := by rintro rfl; exact e (a.symm.trans hk)
    rw [others j this]
    exact ⟨a, b⟩

/-- A framer changed with its stories as they are. -/
theorem State.FramersOk.onFramer (h : u.FramersOk) {src : Source} (f : OnFramer src u v)
    (own : ∀ j, (framerOf src v).slot = some j →
      (v.story j).source = src ∧ fits (framerOf src v).state (v.story j).state = true) :
    v.FramersOk := by
  intro src' j hj
  by_cases e : src' = src
  · subst e; exact own j hj
  · rw [f.framers src' e] at hj ⊢
    rw [f.stories]
    exact h src' j hj

/-- Any change of a story no framer has. -/
theorem State.FramersOk.unlinked (h : u.FramersOk) {k : Fin 48}
    (none : ∀ src, (framerOf src u).slot ≠ some k) (s : OnStory k u v) : v.FramersOk := by
  intro src j hj
  have hf : framerOf src v = framerOf src u := s.framers _
  rw [hf] at hj ⊢
  have : j ≠ k := by rintro rfl; exact none src hj
  rw [s.others j this]
  exact h src j hj

end Sys2Proof.Machine
end

