-- ==== Sys2Proof/Laws/Writing.lean ====
section
/-! SUPPORT. Text written keeps the table consistent, and no live entry's text leaves the window (R83 to
R85); cuts leave no live entry where they cut (R82). -/

namespace Sys2Proof.Machine

variable {u v : State}

/-! ## A change made for each of a list of things -/

theorem forEach_cons {α : Type} (a : α) (l : List α) (f : α → State → State) (s : State) :
    forEach (a :: l) f s = forEach l f (f a s) := rfl

/-- What each change brings about and the others keep holds for all of them at the end. -/
theorem forEach_each {α : Type} {l : List α} {f : α → State → State} {Q : α → State → Prop}
    (does : ∀ a s, Q a (f a s)) (keeps : ∀ a b s, Q a s → Q a (f b s)) (s : State) :
    ∀ a ∈ l, Q a (forEach l f s) := by
  have stays : ∀ (l : List α) a s, Q a s → Q a (forEach l f s) := by
    intro l
    induction l with
    | nil => exact fun a s h => h
    | cons b l ih => exact fun a s h => ih a _ (keeps a b s h)
  induction l generalizing s with
  | nil => simp
  | cons b l ih =>
    intro a ha
    rw [forEach_cons]
    rcases List.mem_cons.1 ha with rfl | ha
    · exact stays l a _ (does a s)
    · exact ih _ a ha

theorem forEach_keeps {α : Type} {l : List α} {f : α → State → State} {P : State → Prop}
    (e : ∀ a s, P s → P (f a s)) {s : State} (h : P s) : P (forEach l f s) := by
  unfold forEach
  induction l generalizing s with
  | nil => exact h
  | cons a l ih => exact ih (e a _ h)

/-! ## Cuts -/

theorem cutRecord_story {k : Fin 48} {o : Fin 24} {why : CutReason} :
    ((cutRecord k o why u).story k).taken = (u.story k).taken
      ∧ ((cutRecord k o why u).story k).state = (u.story k).state
      ∧ (∀ e ∈ ((cutRecord k o why u).story k).entries, e.state.live = true →
        e ∈ (u.story k).entries)
      ∧ ((cutRecord k o why u).story k).liveOn o = false := by
  unfold Machine.cutRecord
  split
  · have hs : ∀ w : State, ∀ x, (∀ j, (oweCut o k why w).story j = w.story j) ∧
        (∀ j, ((w.raiseIf why.flagged x).story j = w.story j)) := by
      intro w x
      constructor
      · intro j
        unfold oweCut
        split
        · unfold oweItem
          split <;> simp
        · rfl
      · intro j
        unfold State.raiseIf
        split <;> simp
    simp only [(hs _ .destCut).2, (hs _ .destCut).1, State.story_modOutlet, State.story_modStory,
      if_true]
    refine ⟨rfl, rfl, ?_, ?_⟩
    · intro x hx hl
      obtain ⟨e, he, rfl⟩ := Story.mem_modEntry.1 hx
      split at hl
      · simp [Entry.cut, EntryState.live] at hl
      · rename_i hn; rw [if_neg hn]; exact he
    · rw [Bool.eq_false_iff]
      intro hl
      obtain ⟨x, hx, ho, hl⟩ := (Story.liveOn_iff _ _).1 hl
      obtain ⟨e, he, rfl⟩ := Story.mem_modEntry.1 hx
      split at ho <;> rename_i hn
      · rw [if_pos hn] at hl; simp [Entry.cut, EntryState.live] at hl
      · exact hn ho
  · rename_i hn
    exact ⟨rfl, rfl, fun e he _ => he, by simpa using hn⟩

/-- Entries of a story that satisfy a test, cut one after the other with their quiet points. -/
theorem cuts_story {k : Fin 48} {why : CutReason} {os : List (Fin 24)} :
    let w := forEach os (fun o t => quietTestOutlet o (cutRecord k o why t)) u
    (w.story k).taken = (u.story k).taken ∧ (w.story k).state = (u.story k).state
      ∧ (∀ e ∈ (w.story k).entries, e.state.live = true → e ∈ (u.story k).entries)
      ∧ ∀ o ∈ os, (w.story k).liveOn o = false := by
  have hq : ∀ o w j, (quietTestOutlet o w).story j = w.story j :=
    fun o w j => (Aside.refl w).quietTestOutlet.stories j
  refine ⟨?_, ?_, ?_, ?_⟩
  · exact forEach_keeps (P := fun w => (w.story k).taken = (u.story k).taken)
      (fun o w h => by rw [hq, cutRecord_story.1, h]) rfl
  · exact forEach_keeps (P := fun w => (w.story k).state = (u.story k).state)
      (fun o w h => by rw [hq, cutRecord_story.2.1, h]) rfl
  · exact forEach_keeps
      (P := fun w => ∀ e ∈ (w.story k).entries, e.state.live = true → e ∈ (u.story k).entries)
      (fun o w h e he hl => h e (cutRecord_story.2.2.1 e (by rwa [hq] at he) hl) hl)
      (fun e he _ => he)
  · refine forEach_each (Q := fun o w => (w.story k).liveOn o = false) ?_ ?_ u
    · intro o w; rw [hq]; exact cutRecord_story.2.2.2
    · intro o o' w h
      rw [hq, Bool.eq_false_iff]
      intro hl
      rw [((OnStory.refl w).cutRecord).fewer o hl] at h
      simp at h

theorem State.TableOk.cuts (h : u.TableOk) {k : Fin 48} {why : CutReason} {os : List (Fin 24)} :
    (forEach os (fun o t => quietTestOutlet o (Machine.cutRecord k o why t)) u).TableOk :=
  forEach_keeps (fun _ _ h => h.cutRecord.aside (Aside.refl _).quietTestOutlet) h

/-! ## Room in the window -/

/-- A story's window has room for n characters (R85), as a statement. -/
def Story.Room (st : Story) (n : Nat) : Prop :=
  ∀ e ∈ st.entries, e.state.live = true →
    st.taken + min n (Config.takenMax - st.taken) ≤ e.read + Config.windowSize

theorem room_of_roomFor {st : Story} {n : Nat} (h : roomFor st n = true) : st.Room n := by
  intro e he hl
  have := List.all_eq_true.1 h e he
  simpa [hl] using this

/-- A laggard is out after the lap cuts (R84). -/
theorem lapCuts_room {k : Fin 48} : ((lapCuts k u).story k).Room 1 := by
  obtain ⟨ht, _, hm, hc⟩ := cuts_story (u := u) (k := k) (why := .lapped)
    (os := (u.story k).outletsWhere
      (fun e => e.state.live && decide (e.read + Config.windowSize ≤ (u.story k).taken)))
  intro e he hl
  have hmem := hm e he hl
  have : ¬ e.read + Config.windowSize ≤ (u.story k).taken := by
    intro hle
    have := hc e.outlet (by
      unfold Story.outletsWhere
      exact List.mem_map.2 ⟨e, List.mem_filter.2 ⟨hmem, by simp [hl, hle]⟩, rfl⟩)
    rw [Bool.eq_false_iff] at this
    exact this ((Story.liveOn_iff _ _).2 ⟨e, he, rfl, hl⟩)
  have ht' : ((lapCuts k u).story k).taken = (u.story k).taken := ht
  rw [ht']
  omega

/-! ## Characters written -/

theorem Story.Ok.append {st : Story} (h : st.Ok) {ch : Office} (run : st.state = .running)
    (max : st.taken < Config.takenMax) (room : st.Room 1) : (st.append ch).Ok where
  window := by
    have := h.window
    simp only [Story.append, List.length_drop, List.length_append, List.length_cons,
      List.length_nil, Config.windowSize] at this ⊢
    omega
  takenLe := by simp only [Story.append]; omega
  linesLe := by
    have := h.linesLe
    simp only [Story.append]
    split <;> omega
  sorted := h.sorted
  entries e he :=
    { startLe := (h.entries e he).startLe
      readLe := by have := (h.entries e he).readLe; simp only [Story.append]; omega
      counted := (h.entries e he).counted
      reach := by
        intro hl
        have := room e he hl
        simp only [Story.append]
        omega
      marked := (h.entries e he).marked }
  bare b := by
    have : st.state = .free ∨ st.state = .header := b
    simp [run] at this
  closed c := by
    have : st.state = .closed := c
    simp [run] at this
  number := h.number
  holder := h.holder
  heldSource := h.heldSource
  idle := h.idle
  blocked := h.blocked
  blocking := h.blocking
  closedAt := h.closedAt
  ended := h.ended

/-- What a write of one character needs and keeps. -/
theorem writeOne_ok (h : u.TableOk) {k : Fin 48} {ch : Office} (run : (u.story k).state = .running)
    (max : (u.story k).taken < Config.takenMax)
    (room : (u.story k).source.isTerminal = true → (u.story k).Room 1) :
    (writeOne k ch u).TableOk ∧ ((writeOne k ch u).story k).state = .running
      ∧ ((writeOne k ch u).story k).taken = (u.story k).taken + 1
      ∧ ∀ n, (u.story k).Room (n + 1) → ((writeOne k ch u).story k).Room n := by
  have grow : ∀ (w : State) n, (w.story k).taken = (u.story k).taken →
      (∀ e ∈ (w.story k).entries, e.state.live = true → e ∈ (u.story k).entries) →
      (u.story k).Room (n + 1) →
      (((w.modStory k (fun st => st.append ch)).story k)).Room n := by
    intro w n ht hm hr e he hl
    have hr := hr e (hm e (by simpa [Story.append] using he) hl) hl
    simp only [State.story_modStory, if_true, Story.append, ht]
    omega
  have put : ∀ w : State, w.TableOk → (w.story k).state = .running →
      (w.story k).taken = (u.story k).taken → (w.story k).Room 1 →
      (w.modStory k (fun st => st.append ch)).TableOk := by
    intro w hw hrun ht hr
    exact hw.modStory ((hw.stories k).append hrun (by omega) hr) Iff.rfl rfl
      (fun _ => rfl) (fun _ => rfl)
  unfold writeOne
  dsimp only
  split
  · obtain ⟨ht, hst, hm, _⟩ := cuts_story (u := u) (k := k) (why := .lapped)
      (os := (u.story k).outletsWhere
        (fun e => e.state.live && decide (e.read + Config.windowSize ≤ (u.story k).taken)))
    have hst' : ((lapCuts k u).story k).state = .running := hst.trans run
    have ht' : ((lapCuts k u).story k).taken = (u.story k).taken := ht
    refine ⟨put _ h.cuts hst' ht' lapCuts_room, ?_, ?_, fun n => grow _ n ht' hm⟩
    · simp only [State.story_modStory, if_true]; exact hst'
    · simp only [State.story_modStory, if_true, Story.append]; rw [ht']
  · rename_i t e
    refine ⟨put _ h run rfl (room (by rw [e]; rfl)), ?_, ?_,
      fun n => grow _ n rfl (fun e he _ => he)⟩
    · simp only [State.story_modStory, if_true]; exact run
    · simp only [State.story_modStory, if_true, Story.append]

theorem writeChars_ok {k : Fin 48} {chs : List Office} (h : u.TableOk)
    (run : (u.story k).state = .running)
    (room : (u.story k).source.isTerminal = true → (u.story k).Room chs.length) :
    (writeChars k chs u).2.TableOk ∧ ((writeChars k chs u).2.story k).state = .running := by
  induction chs generalizing u with
  | nil => exact ⟨h, run⟩
  | cons ch rest ih =>
    unfold writeChars
    split
    · rename_i max
      obtain ⟨a, b, _, d⟩ := writeOne_ok (ch := ch) h run max (fun t e he hl => by
        have := room t e he hl
        simp only [List.length_cons] at this
        omega)
      have src : ((writeOne k ch u).story k).source = (u.story k).source :=
        (OnStory.refl u).writeOne.source
      refine ih a b (fun t => d _ (room (by rwa [src] at t)))
    · exact ⟨h, run⟩

/-- What a write that goes ahead keeps: afterwards its story is RUNNING, or has been closed by its length
and no framer may have it. -/
theorem writeText_ok (h : u.TableOk) {k : Fin 48} {chs : List Office}
    (run : (u.story k).state = .running)
    (room : (u.story k).source.isTerminal = true → (u.story k).Room chs.length) :
    (writeText k chs u).2.TableOk := by
  have key : ∀ w : State, w.TableOk → (w.story k).state = .running →
      ((w.story k).source.isTerminal = true → (w.story k).Room chs.length) →
      (if ((writeChars k chs w).2.story k).taken = Config.takenMax then
        ((writeChars k chs w).1, toClosing k .tooLong (writeChars k chs w).2)
        else writeChars k chs w).2.TableOk := by
    intro w hw hr hm
    obtain ⟨a, b⟩ := writeChars_ok hw hr hm
    split
    · exact a.toClosing b
    · exact a
  unfold writeText
  dsimp only
  split
  · exact key u h run room
  · rename_i hb
    have hs := h.stories k
    refine key _ (h.modStory ?_ Iff.rfl rfl (fun _ => rfl) (fun _ => rfl)) ?_ ?_
    · exact
        { window := hs.window, takenLe := hs.takenLe, linesLe := hs.linesLe, sorted := hs.sorted
          entries := fun e he => (hs.entries e he).congr rfl rfl
          bare := hs.bare, closed := hs.closed, number := hs.number, holder := hs.holder, heldSource := hs.heldSource
          idle := hs.idle, blocked := rfl, blocking := fun x => by simp at x
          closedAt := hs.closedAt, ended := hs.ended }
    · simp only [State.story_modStory, if_true]; exact run
    · simp only [State.story_modStory, if_true]; exact room

/-- The idle timer restarted keeps the table (R88). -/
theorem State.TableOk.restartIdle (h : u.TableOk) {k : Fin 48} : (restartIdle k u).TableOk := by
  unfold Machine.restartIdle
  split
  · exact h
  · rename_i hi
    have hs := h.stories k
    refine h.setStory ?_ Iff.rfl rfl (fun _ => rfl) (fun _ => rfl)
    exact
      { window := hs.window, takenLe := hs.takenLe, linesLe := hs.linesLe, sorted := hs.sorted
        entries := fun e he => (hs.entries e he).congr rfl rfl
        bare := hs.bare, closed := hs.closed, number := hs.number, holder := hs.holder, heldSource := hs.heldSource
        idle := by
          have := hs.idle
          rw [← this]
          simp only [Option.isSome_some, true_iff]
          cases hk : (u.story k).idleTimer with
          | none => exact absurd hk hi
          | some n => rfl
        blocked := hs.blocked, blocking := hs.blocking, closedAt := hs.closedAt
        ended := hs.ended }

theorem restartIdle_story {k : Fin 48} :
    ((restartIdle k u).story k).state = (u.story k).state
      ∧ ((restartIdle k u).story k).taken = (u.story k).taken
      ∧ ((restartIdle k u).story k).entries = (u.story k).entries := by
  unfold restartIdle
  split
  · exact ⟨rfl, rfl, rfl⟩
  · simp [State.setIdleTimer]

end Sys2Proof.Machine
end

