-- ==== Sys2Proof/Laws/Framers.lean ====
section
/-! SUPPORT. A framer taking characters keeps the invariants: openers and opens (R59 to R61, R76, R78),
headers and routing (R62 to R64, R80, R81, R106 to R108), text and closers (R65 to R67). -/

namespace Sys2Proof.Machine

variable {u v : State}

/-! ## What a framer outside a story leaves as it is -/

@[simp] theorem framerOf_addLoose (src src' : Source) (n : Nat) :
    framerOf src' (u.addLoose src n) = framerOf src' u := (Aside.refl u).addLoose.framers _

@[simp] theorem framerOf_addRefusedOpen (src src' : Source) :
    framerOf src' (u.addRefusedOpen src) = framerOf src' u := (Aside.refl u).addRefusedOpen.framers _

/-- Only one framer has changed, and it has the story slot it had. -/
structure Taking (src : Source) (u v : State) : Prop where
  only : OnFramer src u v
  slot : (framerOf src v).slot = (framerOf src u).slot

namespace Taking

variable {src : Source}

theorem refl (u : State) : Taking src u u := ⟨OnFramer.refl u, rfl⟩

theorem aside {w : State} (h : Taking src u v) (a : Aside v w) : Taking src u w :=
  ⟨h.only.aside a, (congrArg Framer.slot (a.framers _)).trans h.slot⟩

theorem modFramerOf (h : Taking src u v) {f : Framer → Framer}
    (e : (f (framerOf src v)).slot = (framerOf src v).slot) : Taking src u (modFramerOf src f v) :=
  ⟨h.only.modFramerOf, by rw [framerOf_modFramerOf, if_pos rfl, e]; exact h.slot⟩

theorem takeIdle (h : Taking src u v) {ch : Office} : Taking src u (takeIdle src ch v) := by
  unfold Machine.takeIdle
  dsimp only
  split
  · exact h.modFramerOf rfl
  · split
    · exact h.modFramerOf rfl
    · split
      · exact h.modFramerOf rfl
      · exact (h.modFramerOf rfl).aside (Aside.refl _).addLoose

theorem takeDiscard (h : Taking src u v) {ch : Office} : Taking src u (takeDiscard src ch v) := by
  unfold Machine.takeDiscard
  dsimp only
  split
  · exact h.modFramerOf rfl
  · split
    · exact h.modFramerOf rfl
    · split
      · exact h.modFramerOf rfl
      · exact (h.modFramerOf rfl).aside (Aside.refl _).addLoose

theorem failMatch (h : Taking src u v) {ch : Office} : Taking src u (failMatch src ch v) := by
  unfold Machine.failMatch
  dsimp only
  split
  · exact ((h.modFramerOf rfl).aside (Aside.refl _).addLoose).takeDiscard
  · exact ((h.modFramerOf rfl).aside (Aside.refl _).addLoose).takeIdle

theorem extendOpener (h : Taking src u v) {ch : Office} :
    Taking src u (extendOpener src ch v) := by
  unfold Machine.extendOpener
  split
  · exact h.modFramerOf rfl
  · exact h.failMatch

theorem takeLeftover {chs : List Office} (h : Taking src u v) :
    Taking src u (takeLeftover src chs v) := by
  unfold Machine.takeLeftover forEach
  induction chs generalizing v with
  | nil => exact h
  | cons ch l ih =>
    refine ih (v := if (framerOf src v).state = .openerMatch then Machine.extendOpener src ch v
      else Machine.takeIdle src ch v) ?_
    split
    · exact h.extendOpener
    · exact h.takeIdle

end Taking

/-- A framer without a story that keeps out of one keeps the invariants. -/
theorem State.Consistent.taking (h : u.Consistent) {src : Source} (t : Taking src u v)
    (none : (framerOf src u).slot = none) : v.Consistent :=
  ⟨h.table.onFramer t.only, h.framers.onFramer t.only (fun j hj => by
    rw [t.slot, none] at hj; simp at hj)⟩

/-- A framer sent out of its story keeps the invariants. -/
theorem State.Consistent.dropSlot (h : u.Consistent) {src : Source} {f : Framer → Framer}
    (none : (f (framerOf src u)).slot = none) : (modFramerOf src f u).Consistent :=
  ⟨h.table.onFramer (OnFramer.refl u).modFramerOf,
    h.framers.onFramer (OnFramer.refl u).modFramerOf (fun j hj => by
      rw [framerOf_modFramerOf, if_pos rfl, none] at hj; simp at hj)⟩

/-- A framer changed with its slot and its state as they were keeps the invariants. -/
theorem State.Consistent.keepSlot (h : u.Consistent) {src : Source} {f : Framer → Framer}
    (slot : (f (framerOf src u)).slot = (framerOf src u).slot)
    (state : (f (framerOf src u)).state = (framerOf src u).state) :
    (modFramerOf src f u).Consistent :=
  ⟨h.table.onFramer (OnFramer.refl u).modFramerOf,
    h.framers.onFramer (OnFramer.refl u).modFramerOf (fun j hj => by
      rw [framerOf_modFramerOf, if_pos rfl] at hj ⊢
      rw [slot] at hj
      rw [state]
      exact h.framers src j hj)⟩

/-! ## Text -/

theorem State.Consistent.restartIdle (h : u.Consistent) {k : Fin 48} :
    (restartIdle k u).Consistent := by
  refine ⟨h.table.restartIdle, ?_⟩
  refine h.framers.links ?_
  unfold Machine.restartIdle
  split
  · exact Links.refl u
  · exact (Links.refl u).setStory rfl (fun _ => rfl)

theorem State.Consistent.completeWrite (h : u.Consistent) {src : Source} {k : Fin 48}
    {chs : List Office} (slot : (framerOf src u).slot = some k)
    (run : (u.story k).state = .running)
    (room : src.isTerminal = true → (u.story k).Room chs.length) :
    (completeWrite src k chs u).Consistent := by
  have hsrc := (h.framers src k slot).1
  have ht := writeText_ok (chs := chs) h.table run (by rw [hsrc]; exact room)
  have hon : OnStory k u (writeText k chs u).2 := (OnStory.refl u).writeText
  have same : ∀ src', framerOf src' (writeText k chs u).2 = framerOf src' u := fun _ => hon.framers _
  unfold Machine.completeWrite
  dsimp only
  split
  · rename_i hr
    refine ⟨ht.onFramer (OnFramer.refl _).modFramerOf, h.framers.one hsrc ?_ hon.others ?_⟩
    · intro src' n
      rw [framerOf_modFramerOf, if_neg n, same]
    · intro j hj
      rw [framerOf_modFramerOf, if_pos rfl, same] at hj
      have hj : (framerOf src u).slot = some j := hj
      rw [slot, Option.some.injEq] at hj
      subst hj
      rw [framerOf_modFramerOf, if_pos rfl]
      exact ⟨hon.source.trans hsrc, by
        show fits _ ((writeText k chs u).2.story k).state = true
        rw [hr]; rfl⟩
  · have take : Taking src (modFramerOf src (fun f => f.giveUp) (writeText k chs u).2)
        (takeLeftover src (writeText k chs u).1
          (modFramerOf src (fun f => f.giveUp) (writeText k chs u).2)) :=
      (Taking.refl _).takeLeftover
    refine ⟨(ht.onFramer (OnFramer.refl _).modFramerOf).onFramer take.only,
      h.framers.one hsrc ?_ ?_ ?_⟩
    · intro src' n
      rw [take.only.framers src' n, framerOf_modFramerOf, if_neg n, same]
    · intro j n
      rw [take.only.stories]
      exact hon.others j n
    · intro j hj
      rw [take.slot, framerOf_modFramerOf, if_pos rfl] at hj
      simp [Framer.giveUp] at hj

theorem State.Consistent.popQueue (h : u.Consistent) {t : Fin 8} : (popQueue t u).Consistent :=
  h.aside (Aside.refl _).popQueue

theorem restartIdle_framer {k : Fin 48} (src : Source) :
    framerOf src (restartIdle k u) = framerOf src u := by
  unfold restartIdle
  split <;> rfl

theorem Story.Room.congr {st st' : Story} {n : Nat} (h : st.Room n) (t : st'.taken = st.taken)
    (e : st'.entries = st.entries) : st'.Room n := by
  intro x hx hl
  rw [e] at hx
  rw [t]
  exact h x hx hl

theorem State.Consistent.offerWrite (h : u.Consistent) {k : Fin 48} :
    (offerWrite k u).Consistent := by
  unfold Machine.offerWrite
  split
  · exact h
  · rename_i t _
    dsimp only
    split
    · exact h
    · split
      · rename_i c
        obtain ⟨a, b, d⟩ := c
        obtain ⟨e1, e2, e3⟩ := restartIdle_story (u := Machine.popQueue t u) (k := k)
        refine h.popQueue.restartIdle.completeWrite ?_ ?_ ?_
        · rw [restartIdle_framer]; exact a
        · rw [e1]; exact b
        · intro _
          exact (room_of_roomFor d).congr e2 e3
      · exact h

theorem State.Consistent.closeIfDone (h : u.Consistent) {k : Fin 48} :
    (closeIfDone k u).Consistent :=
  ⟨h.table.closeIfDone, h.framers.links (Links.refl u).closeIfDone⟩

theorem State.Consistent.cutRecord (h : u.Consistent) {k : Fin 48} {o : Fin 24} {why : CutReason} :
    (cutRecord k o why u).Consistent :=
  ⟨h.table.cutRecord, h.framers.links (Links.refl u).cutRecord⟩

theorem State.Consistent.afterCut (h : u.Consistent) {k : Fin 48} {o : Fin 24} :
    (afterCut k o u).Consistent :=
  (h.closeIfDone.aside (Aside.refl _).quietTestOutlet).offerWrite

theorem State.Consistent.cutEntry (h : u.Consistent) {k : Fin 48} {o : Fin 24} {why : CutReason} :
    (cutEntry k o why u).Consistent := by
  unfold Machine.cutEntry
  split
  · exact h.cutRecord.afterCut
  · exact h

theorem State.Consistent.cutOutlet (h : u.Consistent) {o : Fin 24} {why : CutReason} :
    (cutOutlet o why u).Consistent := forEach_keeps (fun _ _ h => h.cutEntry) h

/-! ## Opens -/

/-- Story numbers as they follow each other (R76). -/
theorem nextNumberAfter_eq {n : Nat} (a : 1 ≤ n) (b : n ≤ 9999) :
    nextNumberAfter n = n % 9999 + 1 := by
  unfold nextNumberAfter
  split <;> omega

theorem drawNumber_range {f n : Nat} (a : 1 ≤ n) (b : n ≤ 9999) :
    1 ≤ drawNumber u f n ∧ drawNumber u f n ≤ 9999 := by
  induction f generalizing n with
  | zero => exact ⟨a, b⟩
  | succ f ih =>
    unfold drawNumber
    split
    · rw [nextNumberAfter_eq a b]
      exact ih (by omega) (by omega)
    · exact ⟨a, b⟩

theorem drawNumber_or {f n : Nat} (a : 1 ≤ n) (b : n ≤ 9999) :
    u.findNumber (drawNumber u f n) = none ∨
      ∀ i, i < f → (u.findNumber ((n - 1 + i) % 9999 + 1)).isSome = true := by
  induction f generalizing n with
  | zero => exact .inr (fun i hi => absurd hi (Nat.not_lt_zero i))
  | succ f ih =>
    unfold drawNumber
    split
    · rename_i hn
      rw [nextNumberAfter_eq a b]
      rcases ih (n := n % 9999 + 1) (by omega) (by omega) with h | h
      · exact .inl h
      · refine .inr (fun i hi => ?_)
        cases i with
        | zero =>
          have : (n - 1 + 0) % 9999 + 1 = n := by omega
          rw [this]; exact hn
        | succ i =>
          have := h i (by omega)
          have e : (n % 9999 + 1 - 1 + i) % 9999 + 1 = (n - 1 + (i + 1)) % 9999 + 1 := by omega
          rwa [e] at this
    · rename_i hn
      exact .inl (by simpa using hn)

theorem findNumber_some {n : Nat} {k : Fin 48} (h : u.findNumber n = some k) :
    (u.story k).state ≠ .free ∧ (u.story k).number = n := by
  simpa using List.find?_some h

theorem findNumber_none {n : Nat} (h : u.findNumber n = none) (k : Fin 48)
    (live : (u.story k).state ≠ .free) : (u.story k).number ≠ n := by
  have := List.find?_eq_none.1 h k (List.mem_finRange k)
  simpa [live] using this

/-- 49 trials find a number no record carries: at most 48 are carried (R76). -/
theorem drawNumber_fresh {n : Nat} (a : 1 ≤ n) (b : n ≤ 9999) :
    u.findNumber (drawNumber u 49 n) = none := by
  rcases drawNumber_or (u := u) (f := 49) a b with h | h
  · exact h
  · exfalso
    have hs : ∀ i : Fin 49, ∃ k, u.findNumber ((n - 1 + i.val) % 9999 + 1) = some k :=
      fun i => Option.isSome_iff_exists.1 (h i.val i.isLt)
    choose g hg using hs
    have inj : Function.Injective g := by
      intro i j e
      have hi := (findNumber_some (hg i)).2
      have hj := (findNumber_some (hg j)).2
      rw [e] at hi
      have := hi.symm.trans hj
      have := i.isLt
      have := j.isLt
      apply Fin.ext
      omega
    have := Fintype.card_le_of_injective g inj
    simp at this

theorem State.freeSlot_free {k : Fin 48} (h : u.freeSlot = some k) : (u.story k).state = .free := by
  simpa using List.find?_some h

theorem State.reclaimable_some {k : Fin 48} (h : u.reclaimable = some k) :
    (u.story k).state = .closed ∧ u.owedAnywhere k = false := by
  simpa using List.find?_some h

theorem Story.free_ok : ({} : Story).Ok := by
  constructor <;> simp [Story.anyLive]

theorem owedAnywhere_false {k : Fin 48} (h : u.owedAnywhere k = false) (o : Fin 24)
    (i : OwedItem) (hi : i ∈ (u.outlet o).owed) : i.slot ≠ k := by
  intro e
  have : u.owedAnywhere k = true := by
    unfold State.owedAnywhere
    rw [List.any_eq_true]
    exact ⟨o, List.mem_finRange o, List.any_eq_true.2 ⟨i, hi, by simp [e]⟩⟩
  rw [h] at this
  simp at this

theorem Story.Ok.has_closed {st : Story} (h : st.Ok) (c : st.state = .closed) (o : Fin 24) :
    st.liveOn o = false := by
  have hn := h.closed c
  rw [Bool.eq_false_iff] at hn ⊢
  intro a
  obtain ⟨e, he, _, hl⟩ := (Story.liveOn_iff _ _).1 a
  exact hn ((Story.anyLive_iff _).2 ⟨e, he, hl⟩)

/-- A CLOSED record no outlet owes an item for made FREE keeps the table (R75, R98). -/
theorem State.TableOk.freeRecord (h : u.TableOk) {k : Fin 48} (closed : (u.story k).state = .closed)
    (owed : u.owedAnywhere k = false) : (freeRecord k u).TableOk := by
  have story : ∀ j, (Machine.freeRecord k u).story j = if j = k then {} else u.story j :=
    fun j => State.story_setStory u k {} j
  have dead : ∀ o, (u.story k).liveOn o = false := (h.stories k).has_closed closed
  refine ⟨?_, ?_, ?_, ?_, h.next, ?_⟩
  · intro j
    rw [story]
    split
    · exact Story.free_ok
    · exact h.stories j
  · exact h.order.filter _
  · intro j
    rw [story]
    show j ∈ u.openOrder.filter (fun j => j ≠ k) ↔ _
    rw [List.mem_filter, h.ordered]
    split <;> simp_all
  · intro i j hi hj e
    rw [story] at hi hj
    rw [story, story] at e
    split at hi
    · simp at hi
    · split at hj
      · simp at hj
      · rename_i a b
        rw [if_neg a, if_neg b] at e
        exact h.numbers i j hi hj e
  · intro o
    refine ⟨(h.outlets o).once, ?_, ?_, ?_, (h.outlets o).owesOnce⟩
    · intro j
      rw [story]
      show j ∈ (u.outlet o).waiting ↔ _
      rw [(h.outlets o).waits]
      split
      · rename_i e
        subst e
        constructor
        · intro a
          have := dead o
          rw [Story.liveOn_of_waits a] at this
          simp at this
        · intro a; simp [Story.has] at a
      · rfl
    · intro j
      rw [story]
      show (u.outlet o).holder = some j ↔ _
      rw [(h.outlets o).holds]
      split
      · rename_i e
        subst e
        constructor
        · intro a
          have := dead o
          rw [Story.liveOn_of_carrying a] at this
          simp at this
        · intro a; simp [Story.has] at a
      · rfl
    · intro i hi
      have hi : i ∈ (u.outlet o).owed := hi
      rw [story, if_neg (owedAnywhere_false owed o i hi)]
      exact (h.outlets o).owes i hi

theorem State.FramersOk.not_linked (h : u.FramersOk) {k : Fin 48}
    (n : (u.story k).state.framed = false) (src : Source) : (framerOf src u).slot ≠ some k := by
  intro a
  have := framed_of_fits (h src k a).2
  rw [n] at this
  simp at this

theorem State.Consistent.freeRecord (h : u.Consistent) {k : Fin 48}
    (closed : (u.story k).state = .closed) (owed : u.owedAnywhere k = false) :
    (freeRecord k u).Consistent := by
  refine ⟨h.table.freeRecord closed owed, ?_⟩
  intro src j hj
  have hj : (framerOf src u).slot = some j := hj
  have : j ≠ k := by
    rintro rfl
    exact h.framers.not_linked (by rw [closed]; rfl) src hj
  have e : (Machine.freeRecord k u).story j = u.story j := by
    show (u.setStory k {}).story j = _
    simp [this]
  rw [e]
  exact h.framers src j hj

/-- A FREE record allocated keeps the table: its number is carried by no other (R73, R75, R76). -/
theorem State.TableOk.allocate (h : u.TableOk) {src : Source} {k : Fin 48}
    (free : (u.story k).state = .free) : (allocate src k u).TableOk := by
  have fresh := drawNumber_fresh (u := u) h.next.1 h.next.2
  have range := drawNumber_range (u := u) (f := 49) h.next.1 h.next.2
  have hs := h.stories k
  have bare := hs.bare (.inl free)
  let x : Story :=
    { state := .header, number := drawNumber u 49 u.nextNumber, source := src,
      opened := u.regs.clock, idleTimer := some 0, changed := true }
  have story : ∀ j, (Machine.allocate src k u).story j = if j = k then x else u.story j :=
    fun j => State.story_setStory u k x j
  have none : ∀ o p, (u.story k).has o p = false := by
    intro o p; simp [Story.has, bare.1]
  refine ⟨?_, ?_, ?_, ?_, ?_, ?_⟩
  · intro j
    rw [story]
    split
    · constructor <;> simp [x, Story.anyLive]
      exact range
    · exact h.stories j
  · show (u.openOrder ++ [k]).Nodup
    rw [List.nodup_append]
    refine ⟨h.order, by simp, ?_⟩
    intro a ha b hb e
    rw [List.mem_singleton.1 hb] at e
    rw [e] at ha
    exact ((h.ordered k).1 ha) free
  · intro j
    rw [story]
    show j ∈ u.openOrder ++ [k] ↔ _
    rw [List.mem_append, List.mem_singleton, h.ordered]
    split
    · simp_all [x]
    · simp_all
  · intro i j hi hj e
    rw [story] at hi hj
    rw [story, story] at e
    split at hi <;> split at hj <;> rename_i a b
    · rw [a, b]
    · rw [if_pos a, if_neg b] at e
      exact absurd e.symm (findNumber_none fresh j hj)
    · rw [if_neg a, if_pos b] at e
      exact absurd e (findNumber_none fresh i hi)
    · rw [if_neg a, if_neg b] at e
      exact h.numbers i j hi hj e
  · show 1 ≤ nextNumberAfter _ ∧ nextNumberAfter _ ≤ 9999
    rw [nextNumberAfter_eq range.1 range.2]
    omega
  · intro o
    refine ⟨(h.outlets o).once, ?_, ?_, ?_, (h.outlets o).owesOnce⟩
    · intro j
      rw [story]
      show j ∈ (u.outlet o).waiting ↔ _
      rw [(h.outlets o).waits]
      split
      · rename_i e; subst e; rw [none]; simp [Story.has, x]
      · rfl
    · intro j
      rw [story]
      show (u.outlet o).holder = some j ↔ _
      rw [(h.outlets o).holds]
      split
      · rename_i e; subst e; rw [none]; simp [Story.has, x]
      · rfl
    · intro i hi
      have hi := (h.outlets o).owes i hi
      rw [story]
      split
      · simp [x]
      · exact hi

theorem claimSlot_ok (h : u.Consistent) : (claimSlot u).2.Consistent
    ∧ (∀ src, framerOf src (claimSlot u).2 = framerOf src u)
    ∧ ∀ k, (claimSlot u).1 = some k → ((claimSlot u).2.story k).state = .free := by
  unfold claimSlot
  split
  · rename_i k e
    refine ⟨h, fun _ => rfl, ?_⟩
    intro j hj
    simp only [Option.some.injEq] at hj
    rw [← hj]
    exact State.freeSlot_free e
  · split
    · rename_i k e
      obtain ⟨a, b⟩ := State.reclaimable_some e
      refine ⟨h.freeRecord a b, fun _ => rfl, ?_⟩
      intro j hj
      simp only [Option.some.injEq] at hj
      show ((u.setStory k {}).story j).state = .free
      simp [hj]
    · exact ⟨h, fun _ => rfl, by simp⟩

/-- A completed opener keeps the invariants (R61). -/
theorem State.Consistent.completeOpener (h : u.Consistent) {src : Source}
    (none : (framerOf src u).slot = none) : (completeOpener src u).Consistent := by
  obtain ⟨hc, hf, hk⟩ := claimSlot_ok h
  have hone : (openClaim src u).1 = (claimSlot u).1 := by
    unfold openClaim; split <;> rename_i e <;> rw [e]
  unfold Machine.completeOpener
  split
  · rename_i k s1 e
    have e1 : (claimSlot u).1 = some k := by rw [← hone, e]
    have e2 : s1 = allocate src k (claimSlot u).2 := by
      unfold openClaim at e
      split at e <;> rename_i e' <;> simp at e
      rw [← e.2, e', ← e.1]
    have free := hk k e1
    subst e2
    refine ⟨(hc.table.allocate free).onFramer (OnFramer.refl _).modFramerOf, ?_⟩
    intro src' j hj
    rw [framerOf_modFramerOf] at hj ⊢
    by_cases es : src' = src
    · subst es
      rw [if_pos rfl] at hj ⊢
      have hj : some k = some j := hj
      simp only [Option.some.injEq] at hj
      subst hj
      show ((allocate src' k (claimSlot u).2).story k).source = src' ∧ _
      have : (allocate src' k (claimSlot u).2).story k =
          { state := .header, number := drawNumber (claimSlot u).2 49 (claimSlot u).2.nextNumber,
            source := src', opened := (claimSlot u).2.regs.clock, idleTimer := some 0,
            changed := true } := State.story_setStory_self ..
      constructor
      · rw [this]
      · show fits .header ((allocate src' k (claimSlot u).2).story k).state = true
        rw [this]; rfl
    · rw [if_neg es] at hj ⊢
      have hj : (framerOf src' (claimSlot u).2).slot = some j := hj
      have ne : j ≠ k := by
        rintro rfl
        exact hc.framers.not_linked (by rw [free]; rfl) src' hj
      have : (modFramerOf src (fun f => f.granted k) (allocate src k (claimSlot u).2)).story j =
          (claimSlot u).2.story j := by
        show (allocate src k (claimSlot u).2).story j = _
        show (State.setStory _ k _).story j = _
        simp [ne]
      rw [this]
      exact hc.framers src' j hj
  · rename_i s1 e
    have e2 : s1 = (claimSlot u).2.raise .tableFull := by
      unfold openClaim at e
      split at e <;> rename_i e' <;> simp at e
      rw [← e, e']
    subst e2
    have h1 : ((claimSlot u).2.raise .tableFull).Consistent := hc.aside (Aside.refl _).raise
    have h2 : (framerOf src ((claimSlot u).2.raise .tableFull)).slot = .none := by
      show (framerOf src (claimSlot u).2).slot = _
      rw [hf]; exact none
    exact ((h1.dropSlot (f := fun f => f.refusedOpen) h2).aside (Aside.refl _).addRefusedOpen).aside
      (Aside.refl _).addLoose

theorem State.Consistent.takeOpenerMatch (h : u.Consistent) {src : Source} {ch : Office}
    (none : (framerOf src u).slot = none) : (takeOpenerMatch src ch u).Consistent := by
  have t : Taking src u (extendOpener src ch u) := (Taking.refl u).extendOpener
  unfold Machine.takeOpenerMatch
  dsimp only
  split
  · exact (h.taking t none).completeOpener (t.slot.trans none)
  · exact h.taking t none

theorem State.Consistent.takeCloserDiscard (h : u.Consistent) {src : Source} {ch : Office}
    (none : (framerOf src u).slot = none) : (takeCloserDiscard src ch u).Consistent := by
  unfold Machine.takeCloserDiscard
  dsimp only
  split
  · split
    · exact (h.dropSlot rfl).aside (Aside.refl _).addLoose
    · exact h.taking ((Taking.refl u).modFramerOf rfl) none
  · exact h.taking (Taking.refl u).failMatch none

/-! ## Headers -/

/-- Story k rejected in HEADER and its framer out of it. -/
theorem State.Consistent.rejectWith (h : u.Consistent) {src : Source} {k : Fin 48}
    {why : CloseReason} {f : Framer → Framer} (slot : (framerOf src u).slot = some k)
    (head : (u.story k).state = .header) (none : ∀ g, (f g).slot = none) :
    (modFramerOf src f (rejectStory k why u)).Consistent := by
  have hon : OnStory k u (rejectStory k why u) := (OnStory.refl u).rejectStory
  refine ⟨(h.table.rejectStory head).onFramer (OnFramer.refl _).modFramerOf,
    h.framers.one (h.framers src k slot).1 ?_ hon.others ?_⟩
  · intro src' n
    rw [framerOf_modFramerOf, if_neg n]
    exact hon.framers _
  · intro j hj
    rw [framerOf_modFramerOf, if_pos rfl, none] at hj
    simp at hj

theorem Story.Ok.withHeader {st : Story} (h : st.Ok) {x : HeaderFields} : (st.withHeader x).Ok where
  window := h.window
  takenLe := h.takenLe
  linesLe := h.linesLe
  sorted := h.sorted
  entries e he := (h.entries e he).congr rfl rfl
  bare := h.bare
  closed := h.closed
  number := h.number
  holder := h.holder
  heldSource := h.heldSource
  idle := h.idle
  blocked := h.blocked
  blocking := h.blocking
  closedAt := h.closedAt
  ended := h.ended

theorem nonempty_outlets {r r' : Route} (h : r.nonempty = .ok r') : r' = r := by
  unfold Route.nonempty at h
  split at h <;> simp at h
  exact h.symm

/-- A route names no outlet twice. -/
theorem routeStory_nodup (h : u.TableOk) {k : Fin 48} {src : Source} {x : HeaderFields} {r : Route}
    (e : routeStory u k src x = .ok r) : r.outlets.Nodup := by
  unfold routeStory at e
  split at e
  · rw [nonempty_outlets e]
    refine List.Nodup.filter _ ?_
    rw [List.Nodup, List.pairwise_map]
    exact ((h.stories _).sorted).imp (fun hab => ne_of_lt hab)
  · unfold routeByDesk at e
    split at e
    · simp at e
    · split at e
      · simp at e
      · rw [nonempty_outlets e]
        exact ((List.nodup_finRange 24).filter _).filter _

/-- Entries created on a story without text for outlets it has none on. -/
theorem createEntries_ok {k : Fin 48} {os : List (Fin 24)} (h : u.TableOk)
    (run : (u.story k).state = .running) (empty : (u.story k).taken = 0) (once : os.Nodup)
    (none : ∀ o ∈ os, (u.story k).liveOn o = false) :
    (forEach os (fun o t => createEntry k (.fresh o .waiting 0 .header) t) u).TableOk
      ∧ ((forEach os (fun o t => createEntry k (.fresh o .waiting 0 .header) t) u).story k).state
        = .running := by
  induction os generalizing u with
  | nil => exact ⟨h, run⟩
  | cons o os ih =>
    rw [forEach_cons]
    rw [List.nodup_cons] at once
    have ok : (Entry.fresh o .waiting 0 .header).Ok (u.story k) :=
      { startLe := Nat.le_refl _, readLe := Nat.zero_le _, counted := rfl
        reach := fun _ => by rw [empty]; exact Nat.zero_le _
        marked := by simp [Entry.fresh] }
    have story : (createEntry k (.fresh o .waiting 0 .header) u).story k =
        { (u.story k) with
          entries := insertEntry (.fresh o .waiting 0 .header) (u.story k).entries
          changed := true } := by
      unfold createEntry; simp
    refine ih (h.createEntry (.inl run) (none o (by simp)) rfl ok) ?_ ?_ once.2 ?_
    · rw [story]; exact run
    · rw [story]; exact empty
    · intro o' ho'
      rw [story, Bool.eq_false_iff]
      intro a
      obtain ⟨x, hx, hxo, hl⟩ := (Story.liveOn_iff _ _).1 a
      rcases mem_insertEntry.1 hx with rfl | ⟨hx, _⟩
      · have : o = o' := hxo
        exact once.1 (this ▸ ho')
      · have := none o' (List.mem_cons_of_mem _ ho')
        rw [Bool.eq_false_iff] at this
        exact this ((Story.liveOn_iff _ _).2 ⟨x, hx, hxo, hl⟩)

theorem onStory_createEntries {k : Fin 48} {os : List (Fin 24)} :
    let w := forEach os (fun o t => createEntry k (.fresh o .waiting 0 .header) t) u
    (∀ i, w.framer i = u.framer i) ∧ (∀ j, j ≠ k → w.story j = u.story j)
      ∧ (w.story k).source = (u.story k).source := by
  refine forEach_keeps
    (P := fun w => (∀ i, w.framer i = u.framer i) ∧ (∀ j, j ≠ k → w.story j = u.story j)
      ∧ (w.story k).source = (u.story k).source) ?_ ⟨fun _ => rfl, fun _ _ => rfl, rfl⟩
  rintro o w ⟨a, b, c⟩
  refine ⟨a, fun j n => ?_, ?_⟩
  · unfold createEntry; simp [n, b j n]
  · unfold createEntry; simpa using c

/-- A routed story keeps the table and runs (R80, R108). -/
theorem routed_ok (h : u.TableOk) {k : Fin 48} {r : Route} (head : (u.story k).state = .header)
    (once : r.outlets.Nodup) :
    (routed k r u).TableOk ∧ ((routed k r u).story k).state = .running
      ∧ (∀ i, (routed k r u).framer i = u.framer i)
      ∧ (∀ j, j ≠ k → (routed k r u).story j = u.story j)
      ∧ ((routed k r u).story k).source = (u.story k).source := by
  have key : ∀ w : State, w.TableOk → (w.story k).state = .header →
      (let z := (forEach r.outlets (fun o t => createEntry k (.fresh o .waiting 0 .header) t)
        (w.modStory k (fun st => { st with state := .running, routedDesk := r.desk }))).raise
          .storyOpened
      z.TableOk ∧ (z.story k).state = .running ∧ (∀ i, z.framer i = w.framer i)
        ∧ (∀ j, j ≠ k → z.story j = w.story j) ∧ (z.story k).source = (w.story k).source) := by
    intro w hw hh
    have hs := hw.stories k
    have hb := hs.bare (.inr hh)
    have h1 : (w.modStory k (fun st => { st with state := .running, routedDesk := r.desk })).TableOk
      := by
      refine hw.modStory ?_ (by simp [hh]) rfl (fun _ => rfl) (fun _ => rfl)
      exact
        { window := hs.window, takenLe := hs.takenLe, linesLe := hs.linesLe, sorted := hs.sorted
          entries := by simp [hb.1]
          bare := by simp
          closed := by simp
          number := fun _ => hs.number (by simp [hh])
          holder := by have := hs.holder; simpa [hh] using this
          heldSource := by simp
          idle := by have := hs.idle; simpa [hh] using this
          blocked := hs.blocked
          blocking := fun _ => rfl
          closedAt := by have := hs.closedAt; simpa [hh] using this
          ended := by have := hs.ended; simpa [hh] using this }
    obtain ⟨a, b⟩ := createEntries_ok (k := k) (os := r.outlets) h1 (by simp)
      (by simpa using hb.2) once (by intro o _; simp [Story.liveOn, hb.1])
    obtain ⟨c, d, e⟩ := onStory_createEntries (k := k) (os := r.outlets)
      (u := w.modStory k (fun st => { st with state := .running, routedDesk := r.desk }))
    refine ⟨a.aside (Aside.refl _).raise, b, c, ?_, ?_⟩
    · intro j n
      exact (d j n).trans (by simp [n])
    · exact e.trans (by simp)
  unfold routed
  dsimp only
  split
  · exact key _ (h.aside (Aside.refl _).countRouted) head
  · exact key _ h head

theorem State.Consistent.judgeHeader (h : u.Consistent) {src : Source} {k : Fin 48} {b : Bool}
    (slot : (framerOf src u).slot = some k) (head : (u.story k).state = .header) :
    (judgeHeader src k b u).Consistent := by
  unfold Machine.judgeHeader
  split
  · exact h.rejectWith slot head (fun _ => rfl)
  · rename_i x _
    have hs := h.table.stories k
    have h1 : (u.modStory k (fun st => st.withHeader x)).Consistent :=
      ⟨h.table.modStory hs.withHeader Iff.rfl rfl (fun _ => rfl) (fun _ => rfl),
        h.framers.links (Links.refl u).modStory⟩
    have head1 : ((u.modStory k (fun st => st.withHeader x)).story k).state = .header := by
      simpa [Story.withHeader] using head
    have slot1 : (framerOf src (u.modStory k (fun st => st.withHeader x))).slot = some k := slot
    unfold completeHeader
    dsimp only
    split <;> rename_i s1 e
    · split at e <;> simp at e
      rename_i r hr
      subst e
      obtain ⟨a, b, c, d, f⟩ := routed_ok h1.table head1 (routeStory_nodup h1.table hr)
      refine ⟨a.onFramer (OnFramer.refl _).modFramerOf,
        h1.framers.one (h1.framers src k slot1).1 ?_ d ?_⟩
      · intro src' n
        rw [framerOf_modFramerOf, if_neg n]
        exact c _
      · intro j hj
        rw [framerOf_modFramerOf, if_pos rfl] at hj ⊢
        have hj : (framerOf src (routed k r (u.modStory k (fun st => st.withHeader x)))).slot
          = some j := hj
        rw [show framerOf src (routed k r (u.modStory k (fun st => st.withHeader x))) =
          framerOf src (u.modStory k (fun st => st.withHeader x)) from c _, slot1,
          Option.some.injEq] at hj
        subst hj
        refine ⟨f.trans (h1.framers src k slot1).1, ?_⟩
        show fits .inStory ((routed k r _).story k).state = true
        rw [b]; rfl
    · split at e <;> simp at e
      subst e
      exact h1.rejectWith slot1 head1 (fun _ => rfl)

theorem State.Consistent.takeHeader (h : u.Consistent) {src : Source} {k : Fin 48} {ch : Office}
    (slot : (framerOf src u).slot = some k) (head : (u.story k).state = .header) :
    (takeHeader src k ch u).Consistent := by
  unfold Machine.takeHeader
  split
  · exact h.judgeHeader slot head
  · split
    · exact h.keepSlot rfl rfl
    · exact (h.rejectWith slot head (fun _ => rfl)).aside (Aside.refl _).addLoose

/-! ## Closers and characters in any state -/

theorem State.Consistent.takeInStory (h : u.Consistent) {src : Source} {k : Fin 48} {ch : Office}
    (slot : (framerOf src u).slot = some k) (state : (framerOf src u).state = .inStory)
    (run : (u.story k).state = .running)
    (room : src.isTerminal = true → ∀ chs, writeCaused (framerOf src u) ch = some chs →
      (u.story k).Room chs.length) : (takeInStory src k ch u).Consistent := by
  unfold Machine.takeInStory
  dsimp only
  split
  · exact h.keepSlot rfl rfl
  · split
    · refine ⟨h.table.onFramer (OnFramer.refl _).modFramerOf,
        h.framers.onFramer (OnFramer.refl _).modFramerOf ?_⟩
      intro j hj
      rw [framerOf_modFramerOf, if_pos rfl] at hj ⊢
      have hj : (framerOf src u).slot = some j := hj
      have hk := slot.symm.trans hj
      simp only [Option.some.injEq] at hk
      subst hk
      refine ⟨(h.framers src k slot).1, ?_⟩
      show fits .closerMatch (u.story k).state = true
      rw [run]; rfl
    · rename_i a b
      refine h.completeWrite slot run (fun t => room t [ch] ?_)
      unfold writeCaused
      rw [state]
      simp only
      rw [if_neg]
      rintro (c | c)
      · exact a c
      · exact b c

theorem State.Consistent.takeCloserStory (h : u.Consistent) {src : Source} {k : Fin 48}
    {ch : Office} (slot : (framerOf src u).slot = some k)
    (state : (framerOf src u).state = .closerMatch) (run : (u.story k).state = .running)
    (room : src.isTerminal = true → ∀ chs, writeCaused (framerOf src u) ch = some chs →
      (u.story k).Room chs.length) : (takeCloserStory src k ch u).Consistent := by
  unfold Machine.takeCloserStory
  dsimp only
  split
  · split
    · have h1 : (modFramerOf src (fun g => g.closerDone) u).Consistent := h.dropSlot rfl
      refine ⟨h1.table.toClosing run, h1.framers.unlinked ?_ (OnStory.refl _).toClosing⟩
      intro src' a
      rw [framerOf_modFramerOf] at a
      split at a
      · simp [Framer.closerDone] at a
      · rename_i n
        exact n ((h.framers src' k a).1.symm.trans (h.framers src k slot).1)
    · exact h.keepSlot rfl rfl
  · rename_i a
    refine h.completeWrite slot run (fun t => room t _ ?_)
    unfold writeCaused
    rw [state]
    simp only
    rw [if_neg a]

/-- The conditions under which a framer takes a character into its story. -/
theorem State.Consistent.takeChar (h : u.Consistent) {src : Source} {ch : Office}
    (ready : ∀ k, (framerOf src u).slot = some k →
      (u.story k).state = .header ∨ (u.story k).state = .running)
    (room : src.isTerminal = true → ∀ k, (framerOf src u).slot = some k →
      ∀ chs, writeCaused (framerOf src u) ch = some chs → (u.story k).Room chs.length) :
    (takeChar src ch u).Consistent := by
  unfold Machine.takeChar
  dsimp only
  split
  · rename_i none
    split
    · exact h.taking (Taking.refl u).takeIdle none
    · exact h.takeOpenerMatch none
    · exact h.takeCloserDiscard none
    · exact h.taking (Taking.refl u).takeDiscard none
    all_goals exact h
  · rename_i k slot
    have h1 := h.restartIdle (k := k)
    have hf := restartIdle_framer (u := u) (k := k) src
    obtain ⟨e1, e2, e3⟩ := restartIdle_story (u := u) (k := k)
    have fit := (h.framers src k slot).2
    have room' : src.isTerminal = true → ∀ chs,
        writeCaused (framerOf src (Machine.restartIdle k u)) ch = some chs →
        ((Machine.restartIdle k u).story k).Room chs.length := by
      intro t chs hc
      rw [hf] at hc
      exact (room t k slot chs hc).congr e2 e3
    split
    · rename_i st
      rw [st] at fit
      have head : (u.story k).state = .header := by
        cases hk : (u.story k).state <;> rw [hk] at fit <;> simp_all [fits]
      exact h1.takeHeader (by rw [hf]; exact slot) (by rw [e1]; exact head)
    · rename_i st
      have run : (u.story k).state = .running := by
        rcases ready k slot with r | r
        · rw [st, r] at fit; simp [fits] at fit
        · exact r
      exact h1.takeInStory (by rw [hf]; exact slot) (by rw [hf]; exact st) (by rw [e1]; exact run)
        room'
    · rename_i st
      have run : (u.story k).state = .running := by
        rcases ready k slot with r | r
        · rw [st, r] at fit; simp [fits] at fit
        · exact r
      exact h1.takeCloserStory (by rw [hf]; exact slot) (by rw [hf]; exact st)
        (by rw [e1]; exact run) room'
    all_goals exact h1

/-- A circuit's framer takes any character. -/
theorem State.Consistent.takeCircuit (h : u.Consistent) {c : Fin 16} {ch : Office} :
    (Machine.takeChar (.circuit c) ch u).Consistent := by
  refine h.takeChar ?_ (fun t => by simp [Source.isTerminal] at t)
  intro k hk
  obtain ⟨a, b⟩ := h.framers _ k hk
  have hs := (h.table.stories k).heldSource
  cases hst : (u.story k).state <;> rw [hst] at b hs
  case header => exact .inl rfl
  case running => exact .inr rfl
  case held =>
    have := hs rfl
    rw [a] at this
    simp [Source.isTerminal] at this
  all_goals
    have := framed_of_fits b
    simp [StoryState.framed] at this

theorem State.Consistent.refuseWrite (h : u.Consistent) {t : Fin 8} {k : Fin 48}
    {chs : List Office} (run : (u.story k).state = .running) :
    (refuseWrite t k chs u).Consistent := by
  have h1 : (modFramerOf (.terminal t) (fun f => { f with outstanding := some chs }) u).Consistent :=
    h.keepSlot rfl rfl
  unfold Machine.refuseWrite
  dsimp only
  split
  · have hs := h.table.stories k
    refine ⟨h1.table.modStory ?_ Iff.rfl rfl (fun _ => rfl) (fun _ => rfl),
      h1.framers.links (Links.refl _).modStory⟩
    exact
      { window := hs.window, takenLe := hs.takenLe, linesLe := hs.linesLe, sorted := hs.sorted
        entries := fun e he => (hs.entries e he).congr rfl rfl
        bare := hs.bare, closed := hs.closed, number := hs.number, holder := hs.holder
        heldSource := hs.heldSource
        idle := hs.idle, blocked := rfl, blocking := fun _ => run
        closedAt := hs.closedAt, ended := hs.ended }
  · exact h1

theorem State.Consistent.takeHead (h : u.Consistent) {t : Fin 8} : (takeHead t u).Consistent := by
  unfold Machine.takeHead
  split
  · exact h
  · rename_i ch _ _
    split
    · rename_i may
      have ready : ∀ k, (framerOf (.terminal t) u).slot = some k →
          (u.story k).state = .header ∨ (u.story k).state = .running := by
        intro k hk
        unfold mayTake at may
        simp only [hk, Bool.and_eq_true, decide_eq_true_eq] at may
        exact may.2
      dsimp only
      split
      · rename_i k chs hk hw
        split
        · rename_i hr
          refine h.popQueue.takeChar ready ?_
          intro _ j hj cs hcs
          have hj : (framerOf (.terminal t) u).slot = some j := hj
          have hcs : writeCaused (framerOf (.terminal t) u) ch = some cs := hcs
          rw [hk, Option.some.injEq] at hj
          rw [hw, Option.some.injEq] at hcs
          subst hj hcs
          exact room_of_roomFor hr
        · have run : (u.story k).state = .running := by
            rcases ready k hk with r | r
            · have fit := (h.framers _ k hk).2
              rw [r] at fit
              cases hst : (framerOf (.terminal t) u).state <;> rw [hst] at fit <;>
                simp [fits] at fit
              unfold writeCaused at hw
              rw [hst] at hw
              simp at hw
            · exact r
          exact h.refuseWrite run
      · rename_i hn
        refine h.popQueue.takeChar ready ?_
        intro _ k hk cs hcs
        exact absurd hcs (hn k cs hk)
    · exact h

end Sys2Proof.Machine
end

