-- ==== Sys2Proof/Laws/Outlets.lean ====
section
/-! SUPPORT. The outlets' reactions keep the invariants (R115 to R129, R137): one lemma per operation, up
to `State.Consistent.settle`. -/

namespace Sys2Proof.Machine

variable {u : State}

/-- Entries changed without a change of outlet or of a test on their states. -/
theorem Story.has_map {st st' : Story} {g : Entry → Entry} {o : Fin 24} {p : EntryState → Bool}
    (entries : st'.entries = st.entries.map g)
    (outlet : ∀ e, (g e).outlet = e.outlet) (test : ∀ e, p (g e).state = p e.state) :
    st'.has o p = st.has o p := by
  rw [Bool.eq_iff_iff, Story.has_iff, Story.has_iff, entries]
  constructor
  · rintro ⟨x, hx, ho, hp⟩
    obtain ⟨e, he, rfl⟩ := List.mem_map.1 hx
    exact ⟨e, he, (outlet e).symm.trans ho, by rwa [test] at hp⟩
  · rintro ⟨e, he, ho, hp⟩
    exact ⟨g e, List.mem_map.2 ⟨e, he, rfl⟩, (outlet e).trans ho, by rwa [test]⟩

/-- An entry changed outside its outlet and its state. -/
theorem State.Consistent.modEntry (h : u.Consistent) {k : Fin 48} {o : Fin 24} {f : Entry → Entry}
    (outlet : ∀ e, (f e).outlet = e.outlet) (state : ∀ e, (f e).state = e.state)
    (ok : ∀ e ∈ (u.story k).entries, e.outlet = o → (f e).Ok (u.story k)) :
    (u.modStory k (fun st => st.modEntry o f)).Consistent := by
  refine ⟨h.table.modStory ((h.table.stories k).modEntry outlet ok
    (fun _ e a => by rwa [state] at a)) Iff.rfl rfl ?_ ?_, h.framers.links (Links.refl u).modStory⟩
  all_goals
    intro o'
    refine Story.has_map (g := fun e => if e.outlet = o then f e else e) rfl ?_ ?_ <;> intro e <;>
      split <;> simp [outlet, state]

theorem State.Consistent.modCarried (h : u.Consistent) {o : Fin 24} {k : Fin 48} :
    (u.modCarried o k Entry.noticed).Consistent := by
  unfold State.modCarried
  split
  · refine h.modEntry (by intro; unfold Entry.noticed; split <;> rfl)
      (by intro; unfold Entry.noticed; split <;> rfl) (fun e he _ => ?_)
    have ok := (h.table.stories k).entries e he
    unfold Entry.noticed
    split
    · exact ⟨ok.startLe, ok.readLe, ok.counted, ok.reach, ok.marked⟩
    · exact ok
  · exact h

theorem State.Consistent.arbitrate (h : u.Consistent) {o : Fin 24} : (arbitrate o u).Consistent :=
  ⟨h.table.arbitrate, h.framers.links (Links.refl u).arbitrate⟩

theorem State.Consistent.suspendCaughtUp (h : u.Consistent) {o : Fin 24} :
    (suspendCaughtUp o u).Consistent :=
  ⟨h.table.suspendCaughtUp, h.framers.links (Links.refl u).suspendCaughtUp⟩

theorem State.Consistent.beginUnit (h : u.Consistent) {o : Fin 24} {kind : UnitKind}
    {l : List Office} : (beginUnit o kind l u).Consistent := h.aside (Aside.refl _).beginUnit

/-- The oldest owed item begun (R131). -/
theorem State.Consistent.beginItem (h : u.Consistent) {o : Fin 24} {i : OwedItem}
    {rest : List OwedItem} (owed : (u.outlet o).owed = i :: rest) :
    (beginItem o i rest u).Consistent := by
  unfold Machine.beginItem
  refine State.Consistent.beginUnit ⟨h.table.setOwed ?_ ?_,
    h.framers.links (Links.refl u).modOutlet⟩
  · intro j hj
    exact (h.table.outlets o).owes j (by rw [owed]; exact List.mem_cons_of_mem _ hj)
  · have := (h.table.outlets o).owesOnce
    rw [owed, List.map_cons, List.nodup_cons] at this
    exact this.2

/-- The holder's next character begun (R122). -/
theorem State.Consistent.beginText (h : u.Consistent) {o : Fin 24} {k : Fin 48} {ch : Office}
    {e : Entry} (he : u.entry o k = some e) (read : e.read < (u.story k).taken) :
    (beginText o k ch u).Consistent := by
  obtain ⟨hm, ho⟩ := State.entry_some he
  unfold Machine.beginText
  refine State.Consistent.offerWrite (State.Consistent.beginUnit (h.modEntry
    (by intro; unfold Entry.advance; split <;> rfl)
    (by intro; unfold Entry.advance; split <;> rfl) ?_))
  intro d hd hdo
  have hs := h.table.stories k
  have := entry_unique hs.sorted hd hm (hdo.trans ho.symm)
  subst this
  have ok := hs.entries d hd
  unfold Entry.advance
  split
  · exact
    { startLe := by have := ok.startLe; show d.start ≤ d.read + 1; omega
      readLe := read
      counted := by have := ok.counted; show d.start + (d.delivered + 1) = d.read + 1; omega
      reach := fun hl => by
        have := ok.reach hl
        show _ ≤ d.read + 1 + _
        omega
      marked := ok.marked }
  · exact ok

theorem State.Consistent.beginHolder (h : u.Consistent) {o : Fin 24} {k : Fin 48} {e : Entry}
    (he : u.entry o k = some e) : (beginHolder o k e u).Consistent := by
  unfold Machine.beginHolder
  dsimp only
  split
  · exact h.beginUnit
  · split
    · rename_i hr
      split
      · exact h.beginText he hr
      · exact h
    · split
      · exact h.beginUnit
      · exact h

theorem State.Consistent.beginCarried (h : u.Consistent) {o : Fin 24} :
    (beginCarried o u).Consistent := by
  have ha := h.arbitrate (o := o)
  unfold Machine.beginCarried
  dsimp only
  split
  · rename_i e
    exact ha.beginItem e
  · split
    · exact ha
    · split
      · rename_i e
        exact ha.beginHolder e
      · exact ha

theorem State.Consistent.takeBoundary (h : u.Consistent) {o : Fin 24} :
    (takeBoundary o u).Consistent := by
  have ha := h.suspendCaughtUp (o := o)
  unfold Machine.takeBoundary
  dsimp only
  split
  · exact ha.beginUnit
  · split
    · rename_i e
      exact ha.beginItem e
    · split
      · exact ha.beginUnit
      · exact ha.beginCarried

/-- A caught-up entry of a CLOSING story goes DONE (R87, R123). -/
theorem State.Consistent.claimDone (h : u.Consistent) {o : Fin 24} {k : Fin 48} :
    (claimDone o k u).Consistent := by
  unfold Machine.claimDone
  split
  · rename_i due
    unfold State.doneDue at due
    simp only [Bool.and_eq_true, decide_eq_true_eq] at due
    obtain ⟨⟨hold, closing⟩, _⟩ := due
    have hs := h.table.stories k
    obtain ⟨e, he, ho, hc⟩ := h.table.holderEntry hold
    have place : ∀ a : Entry, a.finish.outlet = a.outlet := by
      intro a; unfold Entry.finish; split <;> rfl
    have finished : e.finish = { e with state := .done, lost := 0, owed := .none } := if_pos hc
    have hh : ∀ p, ((u.story k).modEntry o Entry.finish).has o p = p .done := by
      intro p
      rw [← ho, Story.has_modEntry hs place he, finished]
    refine State.Consistent.afterCut ⟨?_, h.framers.links (Links.refl u).modStory.modOutlet⟩
    refine h.table.update ?_ Iff.rfl rfl
      (fun o' ne p => Story.has_modEntry_other place ne) (h.table.outlets o).once ?_ ?_ ?_
      ?_ rfl
    · refine hs.modEntry place ?_ ?_
      · intro d hd _
        have ok := hs.entries d hd
        unfold Entry.finish
        split
        · exact ⟨ok.startLe, ok.readLe, ok.counted, fun a => by simp [EntryState.live] at a,
            fun a => absurd (ok.marked a).2 (by simp [closing])⟩
        · exact ok
      · intro x
        exact absurd x (by simp [closing])
    · rw [hh]
      simp only [EntryState.waits, Bool.false_eq_true, iff_false]
      intro a
      have := ((h.table.outlets o).waits k).1 a
      rw [← ho, Story.has_entry hs he] at this
      rw [hc] at this
      simp [EntryState.waits] at this
    · intro j _; exact Iff.rfl
    · rw [hh]; simp
    · intro j hj
      simp only [hold, reduceCtorEq, Option.some.injEq, false_iff]
      exact fun a => hj a.symm
  · exact h

theorem State.Consistent.completeUnit (h : u.Consistent) {o : Fin 24} {x : OutUnit} :
    (completeUnit o x u).Consistent := by
  have hm : (u.modOutlet o (fun y => { y.dropMore x.chars.length with unit := none })).Consistent :=
    h.aside (Aside.refl _).modOutlet
  unfold Machine.completeUnit
  dsimp only
  split
  · exact hm
  · exact hm
  · exact hm.modCarried
  · exact hm.claimDone
  · exact hm.aside (Aside.refl _).emptyReply
  · exact hm.aside (Aside.refl _).modOutlet

theorem State.Consistent.drive {n : Nat} {o : Fin 24} (h : u.Consistent) :
    (drive n o u).Consistent := by
  induction n generalizing u with
  | zero => exact h
  | succ n ih =>
    unfold Machine.drive
    dsimp only
    split
    · split
      · exact h.aside (Aside.refl _).pauseOutlet
      · split
        · exact ih (h.takeBoundary.aside (Aside.refl _).setOutletState)
        · exact h.takeBoundary.aside (Aside.refl _).fallIdle
    · split
      · exact ih h.completeUnit
      · split
        · exact h.aside (Aside.refl _).pauseOutlet
        · split
          · exact h.aside (Aside.refl _).setOutletState
          · split
            · exact ih (h.aside (Aside.refl _).setOutletState.convertNext)
            · exact h.aside (Aside.refl _).setOutletState.handOver

theorem State.Consistent.goOn (h : u.Consistent) {o : Fin 24} : (goOn o u).Consistent := by
  unfold Machine.goOn
  exact h.drive

theorem State.Consistent.lineGainsWork (h : u.Consistent) {o : Fin 24} {c : Fin 16} :
    (lineGainsWork o c u).Consistent := by
  have key : (Machine.arbitrate o (setOutletState o .starting
      (u.modControl c (fun x => x.motorLead (u.circuit c).config.motorLead)))).Consistent :=
    (h.aside (Aside.refl _).modControl.setOutletState).arbitrate
  unfold Machine.lineGainsWork
  dsimp only
  split
  · split
    · exact (key.aside (Aside.refl _).modControl).goOn
    · exact key
  · exact (h.aside (Aside.refl _).modControl).goOn

theorem State.Consistent.react (h : u.Consistent) {o : Fin 24} : (react o u).Consistent := by
  unfold Machine.react
  split
  · exact h
  · exact h
  · unfold gainWork
    dsimp only
    split
    · exact (h.aside (Aside.refl _).clearFill).lineGainsWork
    · exact (h.aside (Aside.refl _).clearFill).goOn
  · exact h.goOn
  · exact h.goOn
  · unfold leavePause
    split
    · split
      · exact h.completeUnit
      · exact h
    · split
      · exact h.aside (Aside.refl _).setOutletState
      · exact h.goOn

theorem State.Consistent.reactAll {n : Nat} (h : u.Consistent) : (reactAll n u).Consistent := by
  induction n generalizing u with
  | zero => exact h
  | succ n ih =>
    unfold Machine.reactAll
    split
    · exact h
    · exact ih h.react

/-- Everything that follows a step's own effect keeps the invariants. -/
theorem State.Consistent.settle (h : u.Consistent) : (settle u).Consistent := by
  unfold Machine.settle
  exact h.reactAll.aside (Aside.refl _).settled

end Sys2Proof.Machine
end

