-- ==== Sys2Proof/Laws/Claims.lean ====
section
/-! SUPPORT. Claims on stories keep the invariants: hold and release, kill, lost source, priority, add and
drop, the story timers, outlets going OFF (R86 to R95, R109 to R111, R118). -/

namespace Sys2Proof.Machine

variable {u : State}

/-- The framers' invariant where the stories' states change into ones that still fit. -/
theorem State.FramersOk.restate {v : State} (h : u.FramersOk)
    (framers : ∀ src, (framerOf src v).slot = (framerOf src u).slot
      ∧ (framerOf src v).state = (framerOf src u).state)
    (source : ∀ k, (v.story k).source = (u.story k).source)
    (state : ∀ k f, fits f (u.story k).state = true → fits f (v.story k).state = true) :
    v.FramersOk := by
  intro src k hk
  obtain ⟨a, b⟩ := framers src
  rw [a] at hk
  obtain ⟨c, d⟩ := h src k hk
  rw [b, source]
  exact ⟨c, state k _ d⟩

/-! ## Hold and release -/

theorem Entry.hold_same (e : Entry) : e.hold.outlet = e.outlet
    ∧ e.hold.state.waits = e.state.waits
    ∧ decide (e.hold.state = .carrying) = decide (e.state = .carrying)
    ∧ e.hold.state.live = e.state.live := by
  unfold Entry.hold
  cases h : e.state with
  | suspended c => cases c <;> simp [h, EntryState.waits, EntryState.live]
  | _ => simp [h, EntryState.waits, EntryState.live]

theorem Entry.release_same (e : Entry) : e.release.outlet = e.outlet
    ∧ e.release.state.waits = e.state.waits
    ∧ decide (e.release.state = .carrying) = decide (e.state = .carrying)
    ∧ e.release.state.live = e.state.live := by
  unfold Entry.release
  cases h : e.state with
  | suspended c => cases c <;> simp [h, EntryState.waits, EntryState.live]
  | _ => simp [h, EntryState.waits, EntryState.live]

/-- The positions of an entry are not what a hold or a release changes. -/
theorem Entry.hold_places (e : Entry) :
    e.hold.start = e.start ∧ e.hold.read = e.read ∧ e.hold.delivered = e.delivered := by
  unfold Entry.hold
  split <;> simp

theorem Entry.release_places (e : Entry) :
    e.release.start = e.start ∧ e.release.read = e.read ∧ e.release.delivered = e.delivered := by
  unfold Entry.release
  split <;> simp

theorem sorted_map {l : List Entry} {g : Entry → Entry} (hg : ∀ e, (g e).outlet = e.outlet)
    (h : l.Pairwise (fun a b => a.outlet < b.outlet)) :
    (l.map g).Pairwise (fun a b => a.outlet < b.outlet) := by
  rw [List.pairwise_map]
  exact h.imp (fun hab => by simpa [hg] using hab)

/-- Hold keeps the invariants (R90). -/
theorem State.Consistent.holdStory (h : u.Consistent) {k : Fin 48} {x : Holder}
    (run : (u.story k).state = .running) (terminal : (u.story k).source.isTerminal = true) :
    (holdStory k x u).Consistent := by
  have hs := h.table.stories k
  unfold Machine.holdStory
  refine State.Consistent.keepSlot ⟨h.table.modStory ?_ (by simp [run]) rfl ?_ ?_, ?_⟩ rfl rfl
  · exact
      { window := hs.window, takenLe := hs.takenLe, linesLe := hs.linesLe
        sorted := sorted_map (fun e => (Entry.hold_same e).1) hs.sorted
        entries := by
          intro d hd
          obtain ⟨e, he, rfl⟩ := List.mem_map.1 hd
          have ok := hs.entries e he
          obtain ⟨a, b, c⟩ := Entry.hold_places e
          exact
            { startLe := by rw [a, b]; exact ok.startLe
              readLe := by rw [b]; exact ok.readLe
              counted := by rw [a, b, c]; exact ok.counted
              reach := by rw [(Entry.hold_same e).2.2.2, b]; exact ok.reach
              marked := by
                intro m
                refine ⟨?_, rfl⟩
                unfold Entry.hold at m ⊢
                split at m
                · assumption
                · exact absurd (ok.marked m).2 (by simp [run])
                · exact absurd (ok.marked m).2 (by simp [run])
                all_goals exact absurd (ok.marked m).2 (by simp [run]) }
        bare := by simp
        closed := by simp
        number := fun _ => hs.number (by simp [run])
        holder := by simp
        heldSource := fun _ => terminal
        idle := by simp
        blocked := rfl
        blocking := by simp
        closedAt := by have := hs.closedAt; simpa [run] using this
        ended := by have := hs.ended; simpa [run] using this }
  · exact fun o => Story.has_map rfl (fun e => (Entry.hold_same e).1)
      (fun e => (Entry.hold_same e).2.1)
  · exact fun o => Story.has_map rfl (fun e => (Entry.hold_same e).1)
      (fun e => (Entry.hold_same e).2.2.1)
  · refine h.framers.restate (fun _ => ⟨rfl, rfl⟩) ?_ ?_
    · intro j
      simp only [State.story_modStory]
      split
      · rename_i e; rw [e]
      · rfl
    · intro j f hf
      simp only [State.story_modStory]
      split
      · rename_i e
        rw [e, run] at hf
        cases f <;> simp_all [fits]
      · exact hf

theorem State.Consistent.reclaimWrite (h : u.Consistent) {src : Source} :
    (reclaimWrite src u).Consistent := by
  unfold Machine.reclaimWrite
  split
  · exact h
  · split
    · exact (h.keepSlot rfl rfl).takeHead
    · exact h

/-- Release keeps the invariants (R91). -/
theorem State.Consistent.releaseStory (h : u.Consistent) {k : Fin 48}
    (held : (u.story k).state = .held) : (releaseStory k u).Consistent := by
  have hs := h.table.stories k
  unfold Machine.releaseStory
  refine State.Consistent.reclaimWrite ⟨h.table.modStory ?_ (by simp [held]) rfl ?_ ?_, ?_⟩
  · exact
      { window := hs.window, takenLe := hs.takenLe, linesLe := hs.linesLe
        sorted := sorted_map (fun e => (Entry.release_same e).1) hs.sorted
        entries := by
          intro d hd
          obtain ⟨e, he, rfl⟩ := List.mem_map.1 hd
          have ok := hs.entries e he
          obtain ⟨a, b, c⟩ := Entry.release_places e
          exact
            { startLe := by rw [a, b]; exact ok.startLe
              readLe := by rw [b]; exact ok.readLe
              counted := by rw [a, b, c]; exact ok.counted
              reach := by rw [(Entry.release_same e).2.2.2, b]; exact ok.reach
              marked := by
                intro m
                exfalso
                unfold Entry.release at m
                split at m
                · simp at m
                · rename_i hst
                  have := (ok.marked m).1
                  rw [hst] at this
                  simp at this
                all_goals
                  rename_i hst
                  have := (ok.marked m).1
                  rw [hst] at this
                  simp at this }
        bare := by simp
        closed := by simp
        number := fun _ => hs.number (by simp [held])
        holder := by simp
        heldSource := by simp
        idle := by simp
        blocked := hs.blocked
        blocking := fun _ => rfl
        closedAt := by have := hs.closedAt; simpa [held] using this
        ended := by have := hs.ended; simpa [held] using this }
  · exact fun o => Story.has_map rfl (fun e => (Entry.release_same e).1)
      (fun e => (Entry.release_same e).2.1)
  · exact fun o => Story.has_map rfl (fun e => (Entry.release_same e).1)
      (fun e => (Entry.release_same e).2.2.1)
  · refine h.framers.restate (fun _ => ⟨rfl, rfl⟩) ?_ ?_
    · intro j
      simp only [State.story_modStory]
      split
      · rename_i e; rw [e]
      · rfl
    · intro j f hf
      simp only [State.story_modStory]
      split
      · rename_i e
        rw [e, held] at hf
        cases f <;> simp_all [fits]
      · exact hf

/-! ## Closing at once -/

/-- The outlets of the live entries of a story. -/
theorem mem_outletsWhere {st : Story} {o : Fin 24} :
    o ∈ st.outletsWhere (fun e => e.state.live) ↔ st.liveOn o = true := by
  unfold Story.outletsWhere
  rw [Story.liveOn_iff, List.mem_map]
  constructor
  · rintro ⟨e, he, rfl⟩
    exact ⟨e, (List.mem_filter.1 he).1, rfl, (List.mem_filter.1 he).2⟩
  · rintro ⟨e, he, rfl, hl⟩
    exact ⟨e, List.mem_filter.2 ⟨he, hl⟩, rfl⟩

theorem closeNow_ok (h : u.TableOk) {k : Fin 48} {why : CloseReason}
    (free : (u.story k).state ≠ .free) (none : (u.story k).anyLive = false) :
    (closeNow k why u).TableOk := by
  have hs := h.stories k
  unfold closeNow
  refine h.modStory ?_ (by simp [free]) rfl (fun _ => rfl) (fun _ => rfl)
  exact
    { window := hs.window, takenLe := hs.takenLe, linesLe := hs.linesLe, sorted := hs.sorted
      entries := fun e he =>
        { hs.entries e he with
          reach := (hs.entries e he).reach
          marked := fun m => by
            exfalso
            have hc := ((hs.entries e he).marked m).1
            rw [Bool.eq_false_iff] at none
            exact none ((Story.anyLive_iff _).2 ⟨e, he, by rw [hc]; rfl⟩) }
      bare := by simp
      closed := fun _ => none
      number := fun _ => hs.number free
      holder := by simp
      heldSource := by simp
      idle := by simp
      blocked := rfl
      blocking := by simp
      closedAt := by simp
      ended := by simp }

/-- A story closed at once keeps the table, and nothing but it has changed (R92, R93). -/
theorem closeCut_ok (h : u.TableOk) {k : Fin 48} {why : Fin 24 → CutReason} {r : CloseReason}
    (free : (u.story k).state ≠ .free) :
    (closeCut k why r u).TableOk ∧ OnStory k u (closeCut k why r u) := by
  have cut : ∀ os : List (Fin 24), (forEach os (fun o t => cutRecord k o (why o) t) u).TableOk
      ∧ OnStory k u (forEach os (fun o t => cutRecord k o (why o) t) u)
      ∧ ((forEach os (fun o t => cutRecord k o (why o) t) u).story k).state = (u.story k).state
      ∧ ∀ o ∈ os, ((forEach os (fun o t => cutRecord k o (why o) t) u).story k).liveOn o = false := by
    intro os
    refine ⟨forEach_keeps (fun _ _ h => h.cutRecord) h,
      (OnStory.refl u).forEach (fun _ _ hw => hw.cutRecord), ?_, ?_⟩
    · exact forEach_keeps (P := fun w => (w.story k).state = (u.story k).state)
        (fun o w hw => by rw [cutRecord_story.2.1, hw]) rfl
    · refine forEach_each (Q := fun o w => (w.story k).liveOn o = false)
        (fun o w => cutRecord_story.2.2.2) (fun o o' w hw => ?_) u
      rw [Bool.eq_false_iff]
      intro a
      rw [(OnStory.refl w).cutRecord.fewer o a] at hw
      simp at hw
  obtain ⟨a, b, c, d⟩ := cut ((u.story k).outletsWhere (fun e => e.state.live))
  have dead : ((forEach ((u.story k).outletsWhere (fun e => e.state.live))
      (fun o t => cutRecord k o (why o) t) u).story k).anyLive = false := by
    rw [Bool.eq_false_iff]
    intro al
    obtain ⟨e, he, hl⟩ := (Story.anyLive_iff _).1 al
    have on := (Story.liveOn_iff _ e.outlet).2 ⟨e, he, rfl, hl⟩
    have := d e.outlet (mem_outletsWhere.2 (b.fewer _ on))
    rw [on] at this
    simp at this
  have tail : ∀ w : State, Aside w (forEach ((u.story k).outletsWhere (fun e => e.state.live))
      quietTestOutlet w) := fun w => (Aside.refl w).forEach (fun _ _ hw => hw.quietTestOutlet)
  unfold Machine.closeCut
  dsimp only
  refine ⟨(closeNow_ok a (by rw [c]; exact free) dead).aside (tail _), ?_⟩
  exact OnStory.aside (by unfold closeNow; exact b.modStory) (tail _)

/-- A kill keeps the invariants (R92). -/
theorem State.Consistent.killStory (h : u.Consistent) {k : Fin 48} {asker : Option (Fin 8)}
    (free : (u.story k).state ≠ .free) : (killStory k asker u).Consistent := by
  have h1 : (killFramer k u).Consistent ∧ (∀ j, (killFramer k u).story j = u.story j)
      ∧ ∀ src, (framerOf src (killFramer k u)).slot ≠ some k := by
    unfold killFramer
    dsimp only
    split
    · refine ⟨(h.dropSlot rfl).aside (Aside.refl _).addLoose, ?_, ?_⟩
      · intro j; exact (Aside.refl _).addLoose.stories j
      · intro src a
        rw [framerOf_addLoose, framerOf_modFramerOf] at a
        split at a
        · simp [Framer.killed] at a
        · rename_i n
          exact n (h.framers src k a).1.symm
    · rename_i n
      refine ⟨h, fun _ => rfl, fun src a => ?_⟩
      have := (h.framers src k a).1
      exact n (by rw [this]; exact a)
  obtain ⟨a, b, c⟩ := h1
  obtain ⟨d, e⟩ := closeCut_ok (why := fun _ => .killed) (r := .killed) a.table
    (k := k) (by rw [b]; exact free)
  have key : (quietTestSource (u.story k).source
      ((closeCut k (fun _ => .killed) .killed (killFramer k u)).raise .storyClosed)).Consistent :=
    State.Consistent.aside ⟨d, a.framers.unlinked c e⟩ (Aside.refl _).raise.quietTestSource
  unfold Machine.killStory
  dsimp only
  split
  · split
    · exact key
    · exact key.aside (Aside.refl _).offerReply
  · exact key.aside (Aside.refl _).offerReply
  · exact key

/-! ## Lost sources -/

/-- The framers' invariant but for the framer of one source. -/
def State.FramersBut (s : State) (src : Source) : Prop :=
  ∀ src' k, src' ≠ src → (framerOf src' s).slot = some k →
    (s.story k).source = src' ∧ fits (framerOf src' s).state (s.story k).state = true

theorem State.FramersBut.onStory {v : State} {src : Source} {k : Fin 48} (h : u.FramersBut src)
    (hk : (u.story k).source = src) (s : OnStory k u v) : v.FramersBut src := by
  intro src' j n hj
  have hf : framerOf src' v = framerOf src' u := s.framers _
  rw [hf] at hj ⊢
  obtain ⟨a, b⟩ := h src' j n hj
  have : j ≠ k := by rintro rfl; exact n (a.symm.trans hk)
  rw [s.others j this]
  exact ⟨a, b⟩

/-- The stories of a source among some slots closed (R93). -/
theorem loseStories_ok {src : Source} {l : List (Fin 48)} (h : u.TableOk) (f : u.FramersBut src) :
    (forEach l (fun k t =>
      if (t.story k).source = src ∧ (t.story k).state.live then loseStory k t else t) u).TableOk
    ∧ (forEach l (fun k t =>
      if (t.story k).source = src ∧ (t.story k).state.live then loseStory k t else t) u).FramersBut
        src := by
  refine forEach_keeps (P := fun w => w.TableOk ∧ w.FramersBut src) ?_ ⟨h, f⟩
  rintro k w ⟨hw, fw⟩
  split
  · rename_i c
    unfold loseStory
    dsimp only
    obtain ⟨a, b⟩ := closeCut_ok (k := k)
      (why := fun o => if o = (w.story k).source.index then .outletLost else .killed)
      (r := .sourceLost) hw (by
        intro e
        have := c.2
        rw [e] at this
        simp [StoryState.live] at this)
    exact ⟨a.aside (Aside.refl _).raise, fw.onStory c.1 b.raise⟩
  · exact ⟨hw, fw⟩

/-- The loss of a source keeps the invariants (R71, R93). -/
theorem State.Consistent.loseSource (h : u.TableOk) {src : Source} (f : u.FramersBut src) :
    (loseSource src u).Consistent := by
  obtain ⟨a, b⟩ := loseStories_ok (l := allSlots) h f
  unfold Machine.loseSource resetFramer
  generalize forEach allSlots (fun k t =>
      if (t.story k).source = src ∧ (t.story k).state.live then loseStory k t else t) u = w at a b ⊢
  refine ⟨a.onFramer (OnFramer.refl w).modFramerOf, ?_⟩
  intro src' j hj
  rw [framerOf_modFramerOf] at hj ⊢
  split at hj
  · simp at hj
  · rename_i n
    rw [if_neg n]
    exact b src' j n hj

theorem State.FramersOk.but (h : u.FramersOk) {src : Source} : u.FramersBut src :=
  fun src' k _ => h src' k

/-! ## Priority, add, drop -/

theorem State.Consistent.setPriority (h : u.Consistent) {k : Fin 48} {p : Priority} :
    (setPriority k p u).Consistent := by
  unfold Machine.setPriority
  split
  · exact h
  · have hs := h.table.stories k
    refine ⟨h.table.modStory ?_ Iff.rfl rfl (fun _ => rfl) (fun _ => rfl),
      h.framers.links (Links.refl u).modStory⟩
    exact
      { window := hs.window, takenLe := hs.takenLe, linesLe := hs.linesLe, sorted := hs.sorted
        entries := fun e he => (hs.entries e he).congr rfl rfl
        bare := hs.bare, closed := hs.closed, number := hs.number, holder := hs.holder
        heldSource := hs.heldSource, idle := hs.idle, blocked := hs.blocked
        blocking := hs.blocking, closedAt := hs.closedAt, ended := hs.ended }

/-- An outlet added to a story that may take one keeps the invariants (R110). -/
theorem State.Consistent.addOutlet (h : u.Consistent) {k : Fin 48} {o : Fin 24}
    (state : (u.story k).state.joinable = true) (absent : (u.story k).entryOn o = none) :
    (addOutlet k o u).Consistent := by
  unfold Machine.addOutlet
  refine ⟨h.table.createEntry ?_ ?_ ?_ ?_, h.framers.links ?_⟩
  · cases hk : (u.story k).state <;> rw [hk] at state <;> simp_all [StoryState.joinable]
  · rw [Bool.eq_false_iff]
    intro a
    obtain ⟨e, he, ho, _⟩ := (Story.liveOn_iff _ _).1 a
    have on := (h.table.stories k).entryOn_eq he
    rw [show e.outlet = o from ho, absent] at on
    simp at on
  · show (addedState _).waits = true
    unfold addedState
    split <;> rfl
  · exact ⟨Nat.le_refl _, Nat.le_refl _, by simp [Entry.fresh],
      fun _ => Nat.le_add_right _ _, by simp [Entry.fresh]⟩
  · unfold createEntry
    exact (Links.refl u).modStory.modOutlet

/-! ## Story timers -/

/-- Writing leaves a story's source as it was. -/
theorem completeWrite_source {src : Source} {k : Fin 48} {chs : List Office} :
    ((completeWrite src k chs u).story k).source = (u.story k).source := by
  have h : ((writeText k chs u).2.story k).source = (u.story k).source :=
    (OnStory.refl u).writeText.source
  unfold completeWrite
  dsimp only
  split
  · exact h
  · have t : Taking src (modFramerOf src (fun f => f.giveUp) (writeText k chs u).2)
        (takeLeftover src (writeText k chs u).1
          (modFramerOf src (fun f => f.giveUp) (writeText k chs u).2)) :=
      (Taking.refl _).takeLeftover
    rw [t.only.stories]
    exact h

theorem flushHeld_source {src : Source} {k : Fin 48} :
    ((flushHeld src k u).story k).source = (u.story k).source := by
  unfold flushHeld
  dsimp only
  split
  · split
    · exact completeWrite_source
    · split
      · exact completeWrite_source
      · rw [(Aside.refl u).addLoose.stories]
  · rfl

theorem State.Consistent.flushHeld (h : u.Consistent) {src : Source} {k : Fin 48}
    (run : (u.story k).state = .running) : (flushHeld src k u).Consistent := by
  unfold Machine.flushHeld
  dsimp only
  split
  · rename_i c
    split
    · exact h.completeWrite c.1 run (fun t => by simp [Source.isTerminal] at t)
    · split
      · rename_i hr
        exact h.completeWrite c.1 run (fun _ => room_of_roomFor hr)
      · exact h.aside (Aside.refl _).addLoose
  · exact h

/-- Silence ends a RUNNING story (R69, R88, R89). -/
theorem State.Consistent.endIdle (h : u.Consistent) {k : Fin 48}
    (run : (u.story k).state = .running) : (endIdle k u).Consistent := by
  have h1 : (modFramerOf (u.story k).source
      (fun f => { f with outstanding := none, withdrawn := false }) u).Consistent :=
    h.keepSlot rfl rfl
  have h2 := h1.flushHeld (src := (u.story k).source) (k := k) run
  unfold Machine.endIdle
  dsimp only
  split
  · rename_i r
    have h3 := h2.dropSlot (src := (u.story k).source) (f := fun f => f.giveUp) rfl
    refine ⟨h3.table.toClosing r, ?_⟩
    refine h3.framers.unlinked ?_ (OnStory.refl _).toClosing
    intro src a
    have src_eq := (h3.framers src k a).1
    have same : ((Machine.flushHeld (u.story k).source k (modFramerOf (u.story k).source
        (fun f => { f with outstanding := none, withdrawn := false }) u)).story k).source
        = (u.story k).source := by
      have := (flushHeld_source (u := modFramerOf (u.story k).source
        (fun f => { f with outstanding := none, withdrawn := false }) u)
        (src := (u.story k).source) (k := k))
      exact this
    have : src = (u.story k).source := src_eq.symm.trans same
    rw [this, framerOf_modFramerOf, if_pos rfl] at a
    simp [Framer.giveUp] at a
  · exact h2

theorem State.Consistent.expireIdle (h : u.Consistent) {k : Fin 48} :
    (expireIdle k u).Consistent := by
  unfold Machine.expireIdle
  split
  · rename_i head
    have hon : OnStory k u (rejectStory k .headerFault u) := (OnStory.refl u).rejectStory
    refine ⟨(h.table.rejectStory head).onFramer (OnFramer.refl _).modFramerOf,
      h.framers.one (src := (u.story k).source) rfl ?_ hon.others ?_⟩
    · intro src' n
      rw [framerOf_modFramerOf, if_neg n]
      exact hon.framers _
    · intro j hj
      rw [framerOf_modFramerOf, if_pos rfl] at hj
      simp [Framer.dropHeader] at hj
  · rename_i run
    exact h.endIdle run
  all_goals exact h

theorem State.Consistent.expireBlock (h : u.Consistent) {k : Fin 48} :
    (expireBlock k u).Consistent := by
  unfold Machine.expireBlock
  dsimp only
  split
  · exact h
  · exact State.Consistent.offerWrite
      (forEach_keeps (fun _ _ h => h.cutRecord.aside (Aside.refl _).quietTestOutlet) h)

end Sys2Proof.Machine
end

