-- ==== Sys2Proof/WellFormed.lean ====
section
/-! DEFINITION. What a step's operands must satisfy to be a step of the part at all. Circuit, terminal
and slot numbers, codes and office values are in range by their types. -/

namespace Sys2Proof

/-- The operand checks: a register write names one of the window's 100 words (10.1); the number of an
unknown command is outside 1 to 26 (R165); a survey edge closes a pulse of at least one tick (R21). -/
def Instr.wellFormed : Instr → Bool
  | .registerWrite offset _ => decide (offset < 100)
  | .unknownCommand number => decide (number.toNat = 0 ∨ 26 < number.toNat)
  | .surveyEdge _ _ pulse _ => decide (0 < pulse)
  | .powerOnReset | .storyFind | .storyKill | .storyHold | .storyRelease | .storyPriority
  | .storyAddOutlet | .storyDropOutlet | .retire | .retireClosed | .nextChanged
  | .setNextNumber | .deskWrite | .deskRemove | .circuitSet | .circuitSetSection1
  | .circuitSetSection2 | .circuitOpen | .circuitClose | .surveyStart | .surveyStop
  | .surveyCancel | .counterActionIdle | .counterActionOnce | .counterActionRepeat
  | .counterActionDelayedOnce | .counterActionDelayedRepeat | .counterActionHold
  | .counterActionRelease | .counterActionForceIdle | .outputSet | .terminalSetEnable
  | .terminalSetReconfigure | .terminalSetDisable | .pageWrite | .clockSet | .setBlockLimit
  | .trafficReset | .controlWrite _ | .noticeWrite _ | .noticeEnableWrite _ | .selectWrite _
  | .clockHiRead | .window0Read | .characterReceived _ _ _ | .allSpaceEnded _ _
  | .farBreakBegins _ | .farBreakEnds _ _ | .lostSpaceEdge _ _ | .circuitLost _
  | .circuitRestored _ | .surveyGateExpiry _ | .characterSent _ | .timeFill _
  | .terminalCharacterReceived _ _ _ _ | .terminalCharacterSent _ | .readyInRises _
  | .readyInFalls _ | .framerTake _ | .idleExpiry _ | .blockLimitExpiry _ | .stall _
  | .motorLeadComplete _ | .runOnComplete _ | .delayComplete _ | .countComplete _
  | .counterToggle _ | .sRequest _ | .lRequest _ | .hRequest _ | .gRequest _ | .kRequest _
  | .pRequest _ | .jRequest _ | .xRequest _ | .noForm _ | .requestBusy _ | .lineStartEdge _ _
  | .lineFalseStart _ | .edgeInsideCharacter _ _ _ _ | .lostMarkEdge _ _ | .terminalStartEdge _
  | .terminalFalseStart _ | .terminalMarkReturn _ | .storyClockAdvance
  | .characterTimeCompleted _ _ => true

end Sys2Proof
end

