-- ==== Sys2Proof/Laws/PerInstr.lean ====
section
/-! SUPPORT. Per-instruction lemmas over the step rows as syntax: family `Operands`, which rows' operands
are checked and by what. -/

namespace Sys2Proof.Laws.Operands

open Sys2Proof

/-- What the rows' operands must satisfy, as a proposition: three rows have an operand whose type admits
more than the part does (10.1, R165, R21). -/
def Allowed : Instr → Prop
  | .registerWrite offset _ => offset < 100
  | .unknownCommand number => number.toNat < 1 ∨ 26 < number.toNat
  | .surveyEdge _ _ pulse _ => pulse ≠ 0
  | _ => True

/-- The Boolean check of WellFormed.lean accepts exactly the allowed operands. -/
def Statement (i : Instr) : Prop := i.wellFormed = true ↔ Allowed i

theorem powerOnReset : Statement .powerOnReset :=
  Iff.intro (fun _ => trivial) (fun _ => rfl)
theorem storyFind : Statement .storyFind := Iff.intro (fun _ => trivial) (fun _ => rfl)
theorem storyKill : Statement .storyKill := Iff.intro (fun _ => trivial) (fun _ => rfl)
theorem storyHold : Statement .storyHold := Iff.intro (fun _ => trivial) (fun _ => rfl)
theorem storyRelease : Statement .storyRelease :=
  Iff.intro (fun _ => trivial) (fun _ => rfl)
theorem storyPriority : Statement .storyPriority :=
  Iff.intro (fun _ => trivial) (fun _ => rfl)
theorem storyAddOutlet : Statement .storyAddOutlet :=
  Iff.intro (fun _ => trivial) (fun _ => rfl)
theorem storyDropOutlet : Statement .storyDropOutlet :=
  Iff.intro (fun _ => trivial) (fun _ => rfl)
theorem retire : Statement .retire := Iff.intro (fun _ => trivial) (fun _ => rfl)
theorem retireClosed : Statement .retireClosed :=
  Iff.intro (fun _ => trivial) (fun _ => rfl)
theorem nextChanged : Statement .nextChanged :=
  Iff.intro (fun _ => trivial) (fun _ => rfl)
theorem setNextNumber : Statement .setNextNumber :=
  Iff.intro (fun _ => trivial) (fun _ => rfl)
theorem deskWrite : Statement .deskWrite := Iff.intro (fun _ => trivial) (fun _ => rfl)
theorem deskRemove : Statement .deskRemove := Iff.intro (fun _ => trivial) (fun _ => rfl)
theorem circuitSet : Statement .circuitSet := Iff.intro (fun _ => trivial) (fun _ => rfl)
theorem circuitSetSection1 : Statement .circuitSetSection1 :=
  Iff.intro (fun _ => trivial) (fun _ => rfl)
theorem circuitSetSection2 : Statement .circuitSetSection2 :=
  Iff.intro (fun _ => trivial) (fun _ => rfl)
theorem circuitOpen : Statement .circuitOpen :=
  Iff.intro (fun _ => trivial) (fun _ => rfl)
theorem circuitClose : Statement .circuitClose :=
  Iff.intro (fun _ => trivial) (fun _ => rfl)
theorem surveyStart : Statement .surveyStart :=
  Iff.intro (fun _ => trivial) (fun _ => rfl)
theorem surveyStop : Statement .surveyStop := Iff.intro (fun _ => trivial) (fun _ => rfl)
theorem surveyCancel : Statement .surveyCancel :=
  Iff.intro (fun _ => trivial) (fun _ => rfl)
theorem counterActionIdle : Statement .counterActionIdle :=
  Iff.intro (fun _ => trivial) (fun _ => rfl)
theorem counterActionOnce : Statement .counterActionOnce :=
  Iff.intro (fun _ => trivial) (fun _ => rfl)
theorem counterActionRepeat : Statement .counterActionRepeat :=
  Iff.intro (fun _ => trivial) (fun _ => rfl)
theorem counterActionDelayedOnce : Statement .counterActionDelayedOnce :=
  Iff.intro (fun _ => trivial) (fun _ => rfl)
theorem counterActionDelayedRepeat : Statement .counterActionDelayedRepeat :=
  Iff.intro (fun _ => trivial) (fun _ => rfl)
theorem counterActionHold : Statement .counterActionHold :=
  Iff.intro (fun _ => trivial) (fun _ => rfl)
theorem counterActionRelease : Statement .counterActionRelease :=
  Iff.intro (fun _ => trivial) (fun _ => rfl)
theorem counterActionForceIdle : Statement .counterActionForceIdle :=
  Iff.intro (fun _ => trivial) (fun _ => rfl)
theorem outputSet : Statement .outputSet := Iff.intro (fun _ => trivial) (fun _ => rfl)
theorem terminalSetEnable : Statement .terminalSetEnable :=
  Iff.intro (fun _ => trivial) (fun _ => rfl)
theorem terminalSetReconfigure : Statement .terminalSetReconfigure :=
  Iff.intro (fun _ => trivial) (fun _ => rfl)
theorem terminalSetDisable : Statement .terminalSetDisable :=
  Iff.intro (fun _ => trivial) (fun _ => rfl)
theorem pageWrite : Statement .pageWrite := Iff.intro (fun _ => trivial) (fun _ => rfl)
theorem clockSet : Statement .clockSet := Iff.intro (fun _ => trivial) (fun _ => rfl)
theorem setBlockLimit : Statement .setBlockLimit :=
  Iff.intro (fun _ => trivial) (fun _ => rfl)
theorem trafficReset : Statement .trafficReset :=
  Iff.intro (fun _ => trivial) (fun _ => rfl)
theorem unknownCommand : ∀ x0, Statement (.unknownCommand x0) := by
  intro x0
  simp [Statement, Allowed, Instr.wellFormed]
theorem controlWrite : ∀ x0, Statement (.controlWrite x0) :=
  fun _ => Iff.intro (fun _ => trivial) (fun _ => rfl)
theorem noticeWrite : ∀ x0, Statement (.noticeWrite x0) :=
  fun _ => Iff.intro (fun _ => trivial) (fun _ => rfl)
theorem noticeEnableWrite : ∀ x0, Statement (.noticeEnableWrite x0) :=
  fun _ => Iff.intro (fun _ => trivial) (fun _ => rfl)
theorem selectWrite : ∀ x0, Statement (.selectWrite x0) :=
  fun _ => Iff.intro (fun _ => trivial) (fun _ => rfl)
theorem clockHiRead : Statement .clockHiRead :=
  Iff.intro (fun _ => trivial) (fun _ => rfl)
theorem window0Read : Statement .window0Read :=
  Iff.intro (fun _ => trivial) (fun _ => rfl)
theorem registerWrite : ∀ x0 x1, Statement (.registerWrite x0 x1) := by
  intro x0 x1
  simp [Statement, Allowed, Instr.wellFormed]
theorem characterReceived : ∀ x0 x1 x2, Statement (.characterReceived x0 x1 x2) :=
  fun _ _ _ => Iff.intro (fun _ => trivial) (fun _ => rfl)
theorem allSpaceEnded : ∀ x0 x1, Statement (.allSpaceEnded x0 x1) :=
  fun _ _ => Iff.intro (fun _ => trivial) (fun _ => rfl)
theorem farBreakBegins : ∀ x0, Statement (.farBreakBegins x0) :=
  fun _ => Iff.intro (fun _ => trivial) (fun _ => rfl)
theorem farBreakEnds : ∀ x0 x1, Statement (.farBreakEnds x0 x1) :=
  fun _ _ => Iff.intro (fun _ => trivial) (fun _ => rfl)
theorem lostSpaceEdge : ∀ x0 x1, Statement (.lostSpaceEdge x0 x1) :=
  fun _ _ => Iff.intro (fun _ => trivial) (fun _ => rfl)
theorem circuitLost : ∀ x0, Statement (.circuitLost x0) :=
  fun _ => Iff.intro (fun _ => trivial) (fun _ => rfl)
theorem circuitRestored : ∀ x0, Statement (.circuitRestored x0) :=
  fun _ => Iff.intro (fun _ => trivial) (fun _ => rfl)
theorem surveyEdge : ∀ x0 x1 x2 x3, Statement (.surveyEdge x0 x1 x2 x3) := by
  intro x0 x1 x2 x3
  simp [Statement, Allowed, Instr.wellFormed]; omega
theorem surveyGateExpiry : ∀ x0, Statement (.surveyGateExpiry x0) :=
  fun _ => Iff.intro (fun _ => trivial) (fun _ => rfl)
theorem characterSent : ∀ x0, Statement (.characterSent x0) :=
  fun _ => Iff.intro (fun _ => trivial) (fun _ => rfl)
theorem timeFill : ∀ x0, Statement (.timeFill x0) :=
  fun _ => Iff.intro (fun _ => trivial) (fun _ => rfl)
theorem terminalCharacterReceived : ∀ x0 x1 x2 x3, Statement (.terminalCharacterReceived x0 x1 x2 x3) :=
  fun _ _ _ _ => Iff.intro (fun _ => trivial) (fun _ => rfl)
theorem terminalCharacterSent : ∀ x0, Statement (.terminalCharacterSent x0) :=
  fun _ => Iff.intro (fun _ => trivial) (fun _ => rfl)
theorem readyInRises : ∀ x0, Statement (.readyInRises x0) :=
  fun _ => Iff.intro (fun _ => trivial) (fun _ => rfl)
theorem readyInFalls : ∀ x0, Statement (.readyInFalls x0) :=
  fun _ => Iff.intro (fun _ => trivial) (fun _ => rfl)
theorem framerTake : ∀ x0, Statement (.framerTake x0) :=
  fun _ => Iff.intro (fun _ => trivial) (fun _ => rfl)
theorem idleExpiry : ∀ x0, Statement (.idleExpiry x0) :=
  fun _ => Iff.intro (fun _ => trivial) (fun _ => rfl)
theorem blockLimitExpiry : ∀ x0, Statement (.blockLimitExpiry x0) :=
  fun _ => Iff.intro (fun _ => trivial) (fun _ => rfl)
theorem stall : ∀ x0, Statement (.stall x0) :=
  fun _ => Iff.intro (fun _ => trivial) (fun _ => rfl)
theorem motorLeadComplete : ∀ x0, Statement (.motorLeadComplete x0) :=
  fun _ => Iff.intro (fun _ => trivial) (fun _ => rfl)
theorem runOnComplete : ∀ x0, Statement (.runOnComplete x0) :=
  fun _ => Iff.intro (fun _ => trivial) (fun _ => rfl)
theorem delayComplete : ∀ x0, Statement (.delayComplete x0) :=
  fun _ => Iff.intro (fun _ => trivial) (fun _ => rfl)
theorem countComplete : ∀ x0, Statement (.countComplete x0) :=
  fun _ => Iff.intro (fun _ => trivial) (fun _ => rfl)
theorem counterToggle : ∀ x0, Statement (.counterToggle x0) :=
  fun _ => Iff.intro (fun _ => trivial) (fun _ => rfl)
theorem sRequest : ∀ x0, Statement (.sRequest x0) :=
  fun _ => Iff.intro (fun _ => trivial) (fun _ => rfl)
theorem lRequest : ∀ x0, Statement (.lRequest x0) :=
  fun _ => Iff.intro (fun _ => trivial) (fun _ => rfl)
theorem hRequest : ∀ x0, Statement (.hRequest x0) :=
  fun _ => Iff.intro (fun _ => trivial) (fun _ => rfl)
theorem gRequest : ∀ x0, Statement (.gRequest x0) :=
  fun _ => Iff.intro (fun _ => trivial) (fun _ => rfl)
theorem kRequest : ∀ x0, Statement (.kRequest x0) :=
  fun _ => Iff.intro (fun _ => trivial) (fun _ => rfl)
theorem pRequest : ∀ x0, Statement (.pRequest x0) :=
  fun _ => Iff.intro (fun _ => trivial) (fun _ => rfl)
theorem jRequest : ∀ x0, Statement (.jRequest x0) :=
  fun _ => Iff.intro (fun _ => trivial) (fun _ => rfl)
theorem xRequest : ∀ x0, Statement (.xRequest x0) :=
  fun _ => Iff.intro (fun _ => trivial) (fun _ => rfl)
theorem noForm : ∀ x0, Statement (.noForm x0) :=
  fun _ => Iff.intro (fun _ => trivial) (fun _ => rfl)
theorem requestBusy : ∀ x0, Statement (.requestBusy x0) :=
  fun _ => Iff.intro (fun _ => trivial) (fun _ => rfl)
theorem lineStartEdge : ∀ x0 x1, Statement (.lineStartEdge x0 x1) :=
  fun _ _ => Iff.intro (fun _ => trivial) (fun _ => rfl)
theorem lineFalseStart : ∀ x0, Statement (.lineFalseStart x0) :=
  fun _ => Iff.intro (fun _ => trivial) (fun _ => rfl)
theorem edgeInsideCharacter : ∀ x0 x1 x2 x3, Statement (.edgeInsideCharacter x0 x1 x2 x3) :=
  fun _ _ _ _ => Iff.intro (fun _ => trivial) (fun _ => rfl)
theorem lostMarkEdge : ∀ x0 x1, Statement (.lostMarkEdge x0 x1) :=
  fun _ _ => Iff.intro (fun _ => trivial) (fun _ => rfl)
theorem terminalStartEdge : ∀ x0, Statement (.terminalStartEdge x0) :=
  fun _ => Iff.intro (fun _ => trivial) (fun _ => rfl)
theorem terminalFalseStart : ∀ x0, Statement (.terminalFalseStart x0) :=
  fun _ => Iff.intro (fun _ => trivial) (fun _ => rfl)
theorem terminalMarkReturn : ∀ x0, Statement (.terminalMarkReturn x0) :=
  fun _ => Iff.intro (fun _ => trivial) (fun _ => rfl)
theorem storyClockAdvance : Statement .storyClockAdvance :=
  Iff.intro (fun _ => trivial) (fun _ => rfl)
theorem characterTimeCompleted : ∀ x0 x1, Statement (.characterTimeCompleted x0 x1) :=
  fun _ _ => Iff.intro (fun _ => trivial) (fun _ => rfl)

end Sys2Proof.Laws.Operands
end

