-- ==== Sys2Proof/Laws/Reacting.lean ====
section
/-! SUPPORT. The tests the outlets and the quiet point go by, said in plain terms; the cases of an outlet's
reaction and of its going on; an outstanding write offered again (R9, R10, R67, R85, R115 to R119). -/

namespace Sys2Proof.Machine

/-! ## Outlets by kind -/

theorem lineOutlet_inj {a b : Fin 16} : lineOutlet a = lineOutlet b ↔ a = b := by revert a b; decide

theorem terminalOutlet_inj {a b : Fin 8} : terminalOutlet a = terminalOutlet b ↔ a = b := by
  revert a b; decide

@[simp] theorem outletCircuit_line (c : Fin 16) : outletCircuit (lineOutlet c) = some c := by
  revert c; decide

@[simp] theorem outletTerminal_line (c : Fin 16) : outletTerminal (lineOutlet c) = none := by
  revert c; decide

@[simp] theorem outletCircuit_terminal (t : Fin 8) : outletCircuit (terminalOutlet t) = none := by
  revert t; decide

@[simp] theorem outletTerminal_terminal (t : Fin 8) : outletTerminal (terminalOutlet t) = some t := by
  revert t; decide

theorem lineOutlet_ne_terminalOutlet (c : Fin 16) (t : Fin 8) : lineOutlet c ≠ terminalOutlet t := by
  revert c t; decide

/-- Every outlet is a line's or a terminal's. -/
theorem line_or_terminal (o : Fin 24) : (∃ c, o = lineOutlet c) ∨ ∃ t, o = terminalOutlet t := by
  revert o; decide

/-! ## The quiet point -/

/-- The test for the quiet point is the quiet point. -/
theorem quiet_iff (s : State) (c : Fin 16) : s.quiet c = true ↔ s.AtQuietPoint c := by
  simp [State.quiet, State.sourceLive, State.outletLive, State.AtQuietPoint, allSlots]

/-- A configuration replaced is the record with that configuration in place. -/
theorem apply_eq_configured (x : Circuit) (cfg : CircuitConfig) : x.apply cfg = x.configured cfg := by
  have reads : ∀ p l, (Polarity.reads p l = .mark) ∨ (Polarity.reads p l = .space) := by
    intro p l
    cases p <;> cases l <;> simp [Polarity.reads]
  unfold Circuit.apply Circuit.configured Circuit.reconfigureLost Circuit.reads
  cases hs : x.state <;> cases hv : x.survey <;>
    rcases reads cfg.polarity x.rxLine with h | h <;> simp [Circuit.hunt, h]

/-- What a test for the quiet point does: the pending configuration put in place at the quiet point, and
otherwise nothing. -/
theorem quietTest_circuit (s : State) (c d : Fin 16) :
    ((s.AtQuietPoint c → ∀ cfg, (s.circuit c).pendingConfig = some cfg →
        quietTest c s = s.modCircuit c (fun x => x.configured cfg))
      ∧ (¬s.AtQuietPoint c ∨ (s.circuit c).pendingConfig = none → quietTest c s = s))
    ∧ (d ≠ c → (quietTest c s).circuit d = s.circuit d) := by
  have apply_eq : ∀ cfg : CircuitConfig,
      (fun x : Circuit => x.apply cfg) = fun x => x.configured cfg :=
    fun cfg => funext fun x => apply_eq_configured x cfg
  unfold quietTest applyConfig
  cases hp : (s.circuit c).pendingConfig with
  | none => simp
  | some cfg =>
    simp only [apply_eq]
    refine ⟨⟨fun h cfg' e => ?_, fun h => ?_⟩, fun hd => ?_⟩
    · cases e
      rw [if_pos ((quiet_iff s c).2 h)]
    · rcases h with h | h
      · rw [if_neg (fun q => h ((quiet_iff s c).1 q))]
      · cases h
    · split
      · simp [hd]
      · rfl

/-! ## What holds an outlet -/

@[simp] theorem pauseCause_line (s : State) (c : Fin 16) : s.pauseCause (lineOutlet c)
    = ((s.control c).breaking
      || (decide ((s.circuit c).rxPhase = .farBreak) && (s.circuit c).config.breakStopsSending)) := by
  simp [State.pauseCause]

@[simp] theorem pauseCause_terminal (s : State) (t : Fin 8) :
    s.pauseCause (terminalOutlet t) = decide ((s.port t).readyIn = .low) := by
  simp [State.pauseCause]

@[simp] theorem lineBusy_line (s : State) (c : Fin 16) :
    s.lineBusy (lineOutlet c) = (s.circuit c).sending.isSome := by simp [State.lineBusy]

@[simp] theorem lineBusy_terminal (s : State) (t : Fin 8) :
    s.lineBusy (terminalOutlet t) = (s.port t).sending.isSome := by simp [State.lineBusy]

@[simp] theorem ownBusy_line (s : State) (c : Fin 16) :
    s.ownBusy (lineOutlet c) = (s.circuit c).sending.any (fun x => x.owner = .unit) := by
  simp [State.ownBusy]

@[simp] theorem ownBusy_terminal (s : State) (t : Fin 8) :
    s.ownBusy (terminalOutlet t) = (s.port t).sending.any (fun x => !x.orphan) := by
  simp [State.ownBusy]

@[simp] theorem leadDone_line (s : State) (c : Fin 16) :
    s.leadDone (lineOutlet c) = decide ((s.control c).motor = .running) := by simp [State.leadDone]

@[simp] theorem leadDone_terminal (s : State) (t : Fin 8) : s.leadDone (terminalOutlet t) = true := by
  simp [State.leadDone]

/-- Line outlets are the outlets of a circuit. -/
theorem outletCircuit_isSome_iff (o : Fin 24) :
    (outletCircuit o).isSome = true ↔ ∃ c, o = lineOutlet c := by
  rcases line_or_terminal o with ⟨c, rfl⟩ | ⟨t, rfl⟩
  · simp [lineOutlet_inj]
  · simp [fun c => (lineOutlet_ne_terminalOutlet c t).symm]

/-- A pause waits exactly for a character on the line of a line outlet in SENDING (R115). -/
theorem pauseWaits_iff (s : State) (o : Fin 24) : s.pauseWaits o = true
    ↔ (∃ c, o = lineOutlet c) ∧ (s.outlet o).state = .sending ∧ s.lineBusy o = true := by
  simp [State.pauseWaits, outletCircuit_isSome_iff, and_assoc]

/-- A pause that waits leaves the outlet as it is. -/
theorem pauseOutlet_waits {s : State} {o : Fin 24} (h : s.pauseWaits o = true) :
    pauseOutlet o s = s := if_pos h

/-- A pause that does not wait is PAUSED at once. -/
theorem pauseOutlet_paused {s : State} {o : Fin 24} (h : s.pauseWaits o = false) :
    pauseOutlet o s = setOutletState o .paused s := if_neg (by simp [h])

/-- A SENDING outlet waits where its line is busy, and a pause waits there or a unit is in progress. -/
theorem sendingGoesOn_eq_false_iff {s : State} {o : Fin 24} (e : (s.outlet o).state = .sending) :
    s.sendingGoesOn o = false ↔ s.lineBusy o = true
      ∧ (s.pauseCause o = true → ∃ c, o = lineOutlet c)
      ∧ (s.pauseCause o = false → (s.outlet o).unit ≠ none) := by
  unfold State.sendingGoesOn
  cases s.pauseCause o
  · simp [and_comm, Option.isSome_iff_ne_none]
  · simp [pauseWaits_iff, e, and_comm]

/-- An outlet has nothing to do exactly where it is calm. -/
theorem stirs_eq_false_iff (s : State) (o : Fin 24) : s.stirs o = false ↔ s.CalmOn o := by
  have paused : ∀ a b : Bool, (a || !b) = false ↔ b = true ∧ a = false := by decide
  have starting : s.leadDone o = false ↔ ∃ c, o = lineOutlet c ∧ (s.control c).motor ≠ .running := by
    rcases line_or_terminal o with ⟨c, rfl⟩ | ⟨t, rfl⟩
    · simp [lineOutlet_inj]
    · have ne : ∀ c, terminalOutlet t ≠ lineOutlet c := fun c =>
        (lineOutlet_ne_terminalOutlet c t).symm
      simp [ne]
  unfold State.stirs State.CalmOn
  cases e : (s.outlet o).state
  · simp
  · rfl
  · exact starting
  · simp only [Bool.and_eq_false_iff, Bool.not_eq_false', Bool.or_eq_false_iff,
      sendingGoesOn_eq_false_iff e]
  · exact paused _ _
  · simp

/-- Reacting stops where every outlet is calm. -/
theorem reactAll_calm {s : State} (h : ∀ o, s.CalmOn o) (n : Nat) : reactAll n s = s := by
  cases n with
  | zero => rfl
  | succ n =>
    have none : allOutlets.find? s.stirs = none := List.find?_eq_none.2 fun o _ => by
      rw [(stirs_eq_false_iff s o).2 (h o)]
      decide
    simp only [reactAll, none]

/-! ## Going on -/

/-- Without a unit and with a pause cause an outlet pauses (R116, R117). -/
theorem drive_none_paused {s : State} {o : Fin 24} (n : Nat) (hu : (s.outlet o).unit = none)
    (hp : s.pauseCause o = true) : drive (n + 1) o s = pauseOutlet o s := by
  simp only [drive, hu, hp, if_true]

/-- Without a unit or a pause an outlet takes its boundary, and goes on or falls idle (R115). -/
theorem drive_none {s : State} {o : Fin 24} (n : Nat) (hu : (s.outlet o).unit = none)
    (hp : s.pauseCause o = false) : drive (n + 1) o s
      = if ((takeBoundary o s).outlet o).unit.isSome
        then drive n o (setOutletState o .sending (takeBoundary o s))
        else fallIdle o (takeBoundary o s) := by
  simp only [drive, hu, hp, Bool.false_eq_true, if_false]

/-- A unit that yields no code completes (R119). -/
theorem drive_silent {s : State} {o : Fin 24} {u : OutUnit} (n : Nat)
    (hu : (s.outlet o).unit = some u) (hs : s.silent o u = true) :
    drive (n + 1) o s = drive n o (completeUnit o u s) := by
  simp only [drive, hu, hs, if_true]

/-- A unit with a code to come waits for a pause to end (R116, R117). -/
theorem drive_unit_paused {s : State} {o : Fin 24} {u : OutUnit} (n : Nat)
    (hu : (s.outlet o).unit = some u) (hs : s.silent o u = false) (hp : s.pauseCause o = true) :
    drive (n + 1) o s = pauseOutlet o s := by
  simp only [drive, hu, hs, hp, Bool.false_eq_true, if_false, if_true]

/-- A unit with a code to come waits for its line, and then converts or hands over (R18, R53, R119). -/
theorem drive_unit {s : State} {o : Fin 24} {u : OutUnit} (n : Nat)
    (hu : (s.outlet o).unit = some u) (hs : s.silent o u = false) (hp : s.pauseCause o = false) :
    drive (n + 1) o s
      = let v := setOutletState o .sending s
        if v.lineBusy o then v
        else if needsConversion o u then drive n o (convertNext o u v)
        else handOver o u v := by
  simp only [drive, hu, hs, hp, Bool.false_eq_true, if_false]

/-! ## An outstanding write -/

/-- The idle timer restarted, as a record update. -/
theorem restartIdle_eq (k : Fin 48) (s : State) : restartIdle k s
    = { s with stories := s.stories.set k { s.story k with
        idleTimer := (s.story k).idleTimer.map (fun _ => 0) } } := by
  unfold restartIdle
  cases h : (s.story k).idleTimer with
  | none =>
    rw [if_pos rfl]
    have same : ({ s.story k with idleTimer := none } : Story) = s.story k := by rw [← h]
    rw [Option.map_none, same]
    exact (congrArg (fun w => { s with stories := w }) (vector_set_same _ _)).symm
  | some e => rfl

/-- The room of a window, in plain terms (R85). -/
theorem roomFor_iff (st : Story) (n : Nat) : roomFor st n = true ↔ ∀ e ∈ st.entries,
    e.state.live = true → st.taken + min n (65535 - st.taken) ≤ e.read + 128 := by
  simp only [roomFor, List.all_eq_true, Bool.or_eq_true, Bool.not_eq_true', Config.takenMax,
    Config.windowSize]
  exact forall₂_congr fun e _ => by
    cases e.state.live
    · simp
    · simp only [true_implies, Bool.true_eq_false, false_or]
      exact ⟨fun h => of_decide_eq_true h, fun h => decide_eq_true h⟩

/-- An outstanding write offered again is taken whole where the window has room (R67, R85). -/
theorem offerWrite_taken {s : State} {k : Fin 48} {t : Fin 8} {chs : List Office}
    (hs : (s.story k).source = .terminal t) (ho : (framerOf (.terminal t) s).outstanding = some chs)
    (hf : (framerOf (.terminal t) s).slot = some k) (hr : (s.story k).state = .running)
    (hw : roomFor (s.story k) chs.length = true) :
    offerWrite k s = completeWrite (.terminal t) k chs (restartIdle k (popQueue t s)) := by
  simp only [offerWrite, hs, ho]
  rw [if_pos ⟨hf, hr, hw⟩]

/-- With no write outstanding there is nothing to offer. -/
theorem offerWrite_none {s : State} {k : Fin 48}
    (h : ∀ t, (s.story k).source = .terminal t → (framerOf (.terminal t) s).outstanding = none) :
    offerWrite k s = s := by
  unfold offerWrite
  cases hs : (s.story k).source with
  | circuit c => rfl
  | terminal t => simp [h t hs]

/-! ## Samples and drives -/

/-- A sample reads the last edge accepted by its moment, and space before any (R13, R14). -/
theorem sampleAt_eq (x : Circuit) (moment : Nat) : x.sampleAt moment
    = (((x.edges.filter (fun e => decide (e.ticks + x.config.filterWidth ≤ moment))).getLast?).map
        (·.level)).getD .space := by
  unfold Circuit.sampleAt
  cases (x.edges.filter (fun e => decide (e.ticks + x.config.filterWidth ≤ moment))).getLast? <;> rfl

/-- With no edge accepted every sample reads the space of the start edge. -/
@[simp] theorem sampleAt_none {x : Circuit} (h : x.edges = []) (moment : Nat) :
    x.sampleAt moment = .space := by simp [sampleAt_eq, h]

/-- A circuit's send output between characters. -/
theorem lineDrive_idle {s : State} {c : Fin 16} (h : (s.circuit c).sending = none) :
    s.lineDrive c = .steady ((s.circuit c).config.polarity.drives (s.restSignal c)) := by
  simp [State.lineDrive, h]

/-- A circuit's send output during a character. -/
theorem lineDrive_sending {s : State} {c : Fin 16} {x : LineChar} (h : (s.circuit c).sending = some x) :
    s.lineDrive c = .elements x.elements := by simp [State.lineDrive, h]

/-- A terminal's send output between characters. -/
theorem terminalDrive_idle {s : State} {t : Fin 8} (h : (s.port t).sending = none) :
    s.terminalDrive t = .steady .mark := by simp [State.terminalDrive, h]

/-- A terminal's send output during a character. -/
theorem terminalDrive_sending {s : State} {t : Fin 8} {x : PortChar} (h : (s.port t).sending = some x) :
    s.terminalDrive t = .elements x.elements := by simp [State.terminalDrive, h]

/-- A character on a circuit's line is seven elements. -/
theorem LineChar.elements_length (x : LineChar) : x.elements.length = 7 := by
  simp [LineChar.elements, LineChar.signals]

end Sys2Proof.Machine
end

