-- ==== Sys2Proof/Laws/Service.lean ====
section
/-! SUPPORT. Outlets and sources out of service, stalls, requests, retiring, resets and the second keep the
invariants (R2 to R5, R47, R98, R118, R138, R154 to R162, R176, R177). -/

namespace Sys2Proof.Machine

variable {u : State}

/-! ## No entry comes alive -/

/-- Every live entry was one before. -/
def Fewer (u v : State) : Prop := ∀ k o, (v.story k).liveOn o = true → (u.story k).liveOn o = true

namespace Fewer

variable {v : State}

theorem aside {w : State} (h : Fewer u v) (a : Aside v w) : Fewer u w := by
  intro k o
  rw [a.stories]
  exact h k o

theorem onStory {w : State} {k : Fin 48} (h : Fewer u v) (s : OnStory k v w) : Fewer u w := by
  intro j o a
  by_cases e : j = k
  · subst e; exact h j o (s.fewer o a)
  · rw [s.others j e] at a; exact h j o a

theorem onFramer {w : State} {src : Source} (h : Fewer u v) (f : OnFramer src v w) :
    Fewer u w := by
  intro k o
  rw [f.stories]
  exact h k o

theorem completeWrite (h : Fewer u v) {src : Source} {k : Fin 48} {chs : List Office} :
    Fewer u (completeWrite src k chs v) := by
  have h1 : Fewer u (writeText k chs v).2 := h.onStory (OnStory.refl v).writeText
  unfold Machine.completeWrite
  dsimp only
  split
  · exact h1.onFramer (OnFramer.refl _).modFramerOf
  · exact (h1.onFramer (OnFramer.refl _).modFramerOf).onFramer (Taking.refl _).takeLeftover.only

theorem offerWrite (h : Fewer u v) {k : Fin 48} : Fewer u (offerWrite k v) := by
  unfold Machine.offerWrite
  split
  · exact h
  · dsimp only
    split
    · exact h
    · split
      · exact ((h.aside (Aside.refl v).popQueue).onStory (OnStory.refl _).restartIdle).completeWrite
      · exact h

theorem afterCut (h : Fewer u v) {k : Fin 48} {o : Fin 24} : Fewer u (afterCut k o v) :=
  ((h.onStory (OnStory.refl v).closeIfDone).aside (Aside.refl _).quietTestOutlet).offerWrite

theorem cutEntry (h : Fewer u v) {k : Fin 48} {o : Fin 24} {why : CutReason} :
    Fewer u (cutEntry k o why v) := by
  unfold Machine.cutEntry
  split
  · exact (h.onStory (OnStory.refl v).cutRecord).afterCut
  · exact h

end Fewer

/-- A cut entry is not live. -/
theorem cutEntry_dead {k : Fin 48} {o : Fin 24} {why : CutReason} :
    ((cutEntry k o why u).story k).liveOn o = false := by
  unfold cutEntry
  split
  · rw [Bool.eq_false_iff]
    intro a
    have h : Fewer (cutRecord k o why u) (cutRecord k o why u) := fun _ _ => id
    have := h.afterCut (k := k) (o := o) k o a
    rw [cutRecord_story.2.2.2] at this
    simp at this
  · rename_i h
    simpa using h

/-- After its entries are cut an outlet has no live entry (R94). -/
theorem cutOutlet_dead {o : Fin 24} {why : CutReason} (k : Fin 48) :
    ((cutOutlet o why u).story k).liveOn o = false := by
  refine forEach_each (Q := fun k w => (w.story k).liveOn o = false) (fun _ _ => cutEntry_dead)
    (fun k j w h => ?_) u k (List.mem_finRange k)
  rw [Bool.eq_false_iff]
  intro a
  have f : Fewer w w := fun _ _ => id
  have := f.cutEntry (k := j) (o := o) (why := why) k o a
  rw [h] at this
  simp at this

/-- An outlet on which no entry is live gives up its holder and its lists. -/
theorem State.Consistent.emptyOutlet (h : u.Consistent) {o : Fin 24} {g : Outlet → Outlet}
    (dead : ∀ k, (u.story k).liveOn o = false) (waiting : (g (u.outlet o)).waiting = [])
    (holder : (g (u.outlet o)).holder = none) (owed : (g (u.outlet o)).owed = []) :
    (u.modOutlet o g).Consistent := by
  have noW : ∀ k, (u.story k).has o EntryState.waits ≠ true := by
    intro k a
    have := dead k
    rw [Story.liveOn_of_waits a] at this
    simp at this
  have noC : ∀ k, (u.story k).has o (fun y => decide (y = .carrying)) ≠ true := by
    intro k a
    have := dead k
    rw [Story.liveOn_of_carrying a] at this
    simp at this
  refine ⟨⟨h.table.stories, h.table.order, h.table.ordered, h.table.numbers, h.table.next, ?_⟩,
    h.framers.links (Links.refl u).modOutlet⟩
  intro o'
  by_cases e : o' = o
  · subst e
    refine ⟨?_, ?_, ?_, ?_, ?_⟩
    · simp [waiting]
    · intro k; simp [waiting, noW]
    · intro k
      simp only [State.outlet_modOutlet, if_true, holder, State.story_modOutlet]
      exact ⟨fun a => by simp at a, fun a => absurd a (noC k)⟩
    · intro i hi; simp [owed] at hi
    · simp [owed]
  · have hp := h.table.outlets o'
    refine ⟨?_, ?_, ?_, ?_, ?_⟩
    · simpa [e] using hp.once
    · intro k; simpa [e] using hp.waits k
    · intro k; simpa [e] using hp.holds k
    · intro i hi; simp [e] at hi; simpa using hp.owes i hi
    · simpa [e] using hp.owesOnce

/-- An outlet OFF keeps the invariants (R118). -/
theorem State.Consistent.outletOff (h : u.Consistent) {o : Fin 24} : (outletOff o u).Consistent := by
  unfold Machine.outletOff
  exact State.Consistent.aside (h.cutOutlet.emptyOutlet cutOutlet_dead rfl rfl rfl)
    (Aside.refl _).clearFill

/-- A stall keeps the invariants (R138). -/
theorem State.Consistent.stallOutlet (h : u.Consistent) {t : Fin 8} :
    (stallOutlet t u).Consistent := by
  unfold Machine.stallOutlet
  exact State.Consistent.aside (h.cutOutlet.emptyOutlet cutOutlet_dead rfl rfl rfl)
    (Aside.refl _).modPort.raise

theorem State.Consistent.leaveService (h : u.Consistent) {c : Fin 16} :
    (leaveService c u).Consistent := by
  unfold Machine.leaveService
  exact State.Consistent.aside
    (State.Consistent.outletOff (State.Consistent.loseSource h.table h.framers.but))
    (Aside.refl _).modControl.quietTest

theorem State.Consistent.disablePort (h : u.Consistent) {t : Fin 8} {cfg : PortConfig} :
    (disablePort t cfg u).Consistent := by
  unfold Machine.disablePort
  exact State.Consistent.aside
    (State.Consistent.outletOff (State.Consistent.loseSource h.table h.framers.but))
    (Aside.refl _).modPort.modParser

theorem State.Consistent.resetFramer (h : u.Consistent) {src : Source} :
    (resetFramer src u).Consistent := h.dropSlot rfl

/-! ## Requests -/

/-- A request judged keeps the invariants (R156 to R162). -/
theorem State.Consistent.judge {t : Fin 8} {r : Request} {line : List Office} {b : Bool} {v : State}
    (e : judge t r u = .ok (line, b, v)) (h : u.Consistent) : v.Consistent := by
  have named : ∀ {n k}, u.findNumber n = some k → (u.story k).state ≠ .free :=
    fun e => (findNumber_some e).1
  unfold Machine.judge at e
  cases r <;> simp only [needs, onNumber, judgeStatus] at e <;> split at e <;> try split at e
  all_goals first
    | (simp only [reduceCtorEq] at e)
    | (simp only [Except.ok.injEq, Prod.mk.injEq] at e; obtain ⟨_, _, rfl⟩ := e; exact h)
    | skip
  · unfold judgeHold accepted at e
    split at e <;> try split at e
    all_goals simp at e
    rename_i a c
    obtain ⟨_, _, rfl⟩ := e
    simp only [ne_eq, Decidable.not_not] at a c
    exact h.holdStory c (by rw [a]; rfl)
  · unfold judgeRelease accepted at e
    split at e <;> try split at e
    all_goals simp at e
    rename_i c
    obtain ⟨_, _, rfl⟩ := e
    simp only [ne_eq, Decidable.not_not] at c
    exact h.releaseStory c
  · unfold judgeKill accepted at e
    rename_i k hk
    split at e <;> try split at e
    all_goals simp at e
    obtain ⟨_, _, rfl⟩ := e
    exact h.killStory (named hk)
  · unfold judgePriority at e
    split at e
    all_goals simp at e
    obtain ⟨_, _, rfl⟩ := e
    exact h.setPriority
  · unfold judgeJoin accepted at e
    dsimp only at e
    split at e <;> try split at e <;> try split at e
    all_goals simp at e
    rename_i a c _
    obtain ⟨_, _, rfl⟩ := e
    exact h.addOutlet (by simpa using a) (by simpa using c)
  · unfold judgeLeave accepted at e
    dsimp only at e
    split at e <;> try split at e <;> try split at e
    all_goals simp at e
    obtain ⟨_, _, rfl⟩ := e
    exact h.cutEntry

theorem State.Consistent.judgeRequest (h : u.Consistent) {t : Fin 8} :
    (judgeRequest t u).Consistent := by
  unfold Machine.judgeRequest
  split
  · exact h.aside (Aside.refl _).offerReply
  · unfold carryOut
    split
    · exact h.aside (Aside.refl _).offerReply
    · rename_i e
      exact (State.Consistent.judge e h).aside (Aside.refl _).offerReply.raiseIf

theorem State.Consistent.completeRequest (h : u.Consistent) {t : Fin 8} :
    (completeRequest t u).Consistent := by
  unfold Machine.completeRequest
  dsimp only
  refine State.Consistent.aside ?_ (Aside.refl _).modParser
  split
  · exact h.aside (Aside.refl _).modPort
  · exact h.judgeRequest

/-! ## Retiring, time, resets -/

theorem State.retirable_iff {k : Fin 48} :
    u.retirable k = true ↔ (u.story k).state = .closed ∧ u.owedAnywhere k = false := by
  simp [State.retirable]

/-- Records freed one after the other that could be freed at the start (R98). -/
theorem freeRecords_ok {l : List (Fin 48)} (once : l.Nodup) (h : u.Consistent)
    (ok : ∀ k ∈ l, u.retirable k = true) : (forEach l freeRecord u).Consistent := by
  induction l generalizing u with
  | nil => exact h
  | cons a l ih =>
    rw [forEach_cons]
    rw [List.nodup_cons] at once
    obtain ⟨c, d⟩ := State.retirable_iff.1 (ok a (by simp))
    refine ih once.2 (h.freeRecord c d) (fun k hk => ?_)
    obtain ⟨e, f⟩ := State.retirable_iff.1 (ok k (List.mem_cons_of_mem _ hk))
    have ne : k ≠ a := by rintro rfl; exact once.1 hk
    refine State.retirable_iff.2 ⟨?_, f⟩
    show ((u.setStory a {}).story k).state = _
    simpa [ne] using e

theorem State.Consistent.setNumber (h : u.Consistent) {n : Nat} (a : 1 ≤ n) (b : n ≤ 9999) :
    ({ u with nextNumber := n } : State).Consistent :=
  ⟨⟨h.table.stories, h.table.order, h.table.ordered, h.table.numbers, ⟨a, b⟩, fun o =>
    ⟨(h.table.outlets o).once, (h.table.outlets o).waits, (h.table.outlets o).holds,
      (h.table.outlets o).owes, (h.table.outlets o).owesOnce⟩⟩, h.framers⟩

/-- The changed mark of a record cleared (R168, R171). -/
theorem State.Consistent.marked (h : u.Consistent) {k : Fin 48} {b : Bool} :
    (u.setStory k { u.story k with changed := b }).Consistent :=
  ⟨h.table.setStory (h.table.stories k).marked Iff.rfl rfl (fun _ => rfl) (fun _ => rfl),
    h.framers.links ((Links.refl u).setStory rfl (fun _ => rfl))⟩

theorem tick_isSome (x : Option Nat) : (tick x).isSome = x.isSome := by cases x <;> rfl

/-- A second keeps the invariants (R176). -/
theorem State.Consistent.secondPasses (h : u.Consistent) : (secondPasses u).Consistent := by
  unfold Machine.secondPasses
  dsimp only
  refine State.Consistent.aside (forEach_keeps (P := State.Consistent) (fun k w hw => ?_)
    (State.Consistent.aside h ((Aside.refl u).modRegs.forEach (fun _ _ hw => hw.modCircuit))))
    ((Aside.refl _).forEach (fun _ _ hw => hw.modOutlet))
  have hs := hw.table.stories k
  refine ⟨hw.table.setStory ?_ Iff.rfl rfl (fun _ => rfl) (fun _ => rfl),
    hw.framers.links ((Links.refl w).setStory rfl (fun _ => rfl))⟩
  exact
    { window := hs.window, takenLe := hs.takenLe, linesLe := hs.linesLe, sorted := hs.sorted
      entries := fun e he => (hs.entries e he).congr rfl rfl
      bare := hs.bare, closed := hs.closed, number := hs.number, holder := hs.holder
      heldSource := hs.heldSource
      idle := by
        show (tick (w.story k).idleTimer).isSome = true ↔ _
        rw [tick_isSome]; exact hs.idle
      blocked := by
        show (tick (w.story k).blockTimer).isSome = _
        rw [tick_isSome]; exact hs.blocked
      blocking := hs.blocking, closedAt := hs.closedAt, ended := hs.ended }

/-- A table with every record FREE and every outlet empty is consistent. -/
theorem State.Consistent.empty (story : ∀ k, u.story k = {}) (framer : ∀ i, u.framer i = {})
    (order : u.openOrder = []) (next : 1 ≤ u.nextNumber ∧ u.nextNumber ≤ 9999)
    (outlet : ∀ o, (u.outlet o).waiting = [] ∧ (u.outlet o).holder = none ∧ (u.outlet o).owed = []) :
    u.Consistent := by
  refine ⟨⟨?_, ?_, ?_, ?_, next, ?_⟩, ?_⟩
  · intro k; rw [story]; exact Story.free_ok
  · rw [order]; exact List.nodup_nil
  · intro k; rw [order, story]; simp
  · intro j k hj; rw [story] at hj; simp at hj
  · intro o
    obtain ⟨a, b, c⟩ := outlet o
    refine ⟨?_, ?_, ?_, ?_, ?_⟩
    · rw [a]; exact List.nodup_nil
    · intro k; rw [a, story]; simp [Story.has]
    · intro k; rw [b, story]; simp [Story.has]
    · intro i hi; rw [c] at hi; simp at hi
    · rw [c]; exact List.nodup_nil
  · intro src k hk
    unfold framerOf at hk
    rw [framer] at hk
    simp at hk

/-! ## Traffic reset -/

/-- An outlet is a circuit's or a terminal's. -/
theorem outlet_cases (o : Fin 24) : (∃ c, o = lineOutlet c) ∨ ∃ t, o = terminalOutlet t := by
  by_cases h : o.val < 16
  · exact .inl ⟨⟨o.val, h⟩, rfl⟩
  · refine .inr ⟨⟨o.val - 16, by omega⟩, ?_⟩
    apply Fin.ext
    show o.val = 16 + (o.val - 16)
    omega

/-- An outlet's holder and lists are empty. -/
def Outlet.bare (x : Outlet) : Prop := x.waiting = [] ∧ x.holder = none ∧ x.owed = []

theorem resetCircuit_outlet (c : Fin 16) (w : State) :
    ((resetCircuit c w).outlet (lineOutlet c)).bare
      ∧ ∀ o, (w.outlet o).bare → ((resetCircuit c w).outlet o).bare := by
  have key : ∀ x st, (Outlet.lineReset x st).bare := by
    intro x st; cases st <;> exact ⟨rfl, rfl, rfl⟩
  unfold resetCircuit
  dsimp only
  constructor
  · simp only [State.outlet_modCircuit, State.outlet_modOutlet, if_true]; exact key _ _
  · intro o ho
    simp only [State.outlet_modCircuit, State.outlet_modOutlet]
    split
    · exact key _ _
    · exact ho

theorem resetTerminal_outlet (t : Fin 8) (w : State) :
    ((resetTerminal t w).outlet (terminalOutlet t)).bare
      ∧ ∀ o, (w.outlet o).bare → ((resetTerminal t w).outlet o).bare := by
  have key : ∀ x p, (Outlet.terminalReset x p).bare := by
    intro x p
    unfold Outlet.terminalReset
    split <;> exact ⟨rfl, rfl, rfl⟩
  unfold resetTerminal
  dsimp only
  constructor
  · simp only [State.outlet_modParser, State.outlet_modPort, State.outlet_modOutlet, if_true]
    exact key _ _
  · intro o ho
    simp only [State.outlet_modParser, State.outlet_modPort, State.outlet_modOutlet]
    split
    · exact key _ _
    · exact ho

/-- What a traffic reset has made of the part before its outlets settle. -/
def trafficCleared (s : State) : State :=
  let s := { s with
    stories := Vector.replicate 48 {}
    openOrder := []
    framers := Vector.replicate 24 {}
    notices := s.notices.withFlags 0#11 }
  let s := forEach allCircuits resetCircuit s
  let s := forEach allTerminals resetTerminal s
  let s := forEach allCircuits (fun c t => t.modControl c (fun x => x.trafficReset)) s
  s.modRegs (fun r => r.trafficReset)

theorem trafficReset_eq (s : State) : trafficReset s = settle (trafficCleared s) := rfl

/-- Nothing is in transit after a traffic reset (R100, R139). -/
theorem trafficCleared_empty (s : State) :
    (∀ k, (trafficCleared s).story k = {}) ∧ (∀ i, (trafficCleared s).framer i = {})
      ∧ (trafficCleared s).openOrder = [] ∧ (trafficCleared s).nextNumber = s.nextNumber
      ∧ ∀ o, ((trafficCleared s).outlet o).bare := by
  have get : ∀ {α : Type} {n : Nat} (x : α) (i : Fin n), (Vector.replicate n x).get i = x := by
    intro α n x i
    show (Vector.replicate n x)[i.val] = x
    simp
  have start : ∀ P : State → Prop, (∀ c w, P w → P (resetCircuit c w)) →
      (∀ t w, P w → P (resetTerminal t w)) →
      (∀ c w, P w → P (w.modControl c (fun x => x.trafficReset))) →
      (∀ w, P w → P (w.modRegs (fun r => r.trafficReset))) →
      P { s with
        stories := Vector.replicate 48 {}
        openOrder := []
        framers := Vector.replicate 24 {}
        notices := s.notices.withFlags 0#11 } → P (trafficCleared s) := by
    intro P a b c d h
    unfold trafficCleared
    dsimp only
    refine d _ (forEach_keeps (P := P) c (forEach_keeps (P := P) b (forEach_keeps (P := P) a ?_)))
    exact h
  refine ⟨fun k => ?_, fun i => ?_, ?_, ?_, fun o => ?_⟩
  · exact start (fun w => w.story k = {}) (fun _ _ => id) (fun _ _ => id) (fun _ _ => id)
      (fun _ => id) (get _ _)
  · exact start (fun w => w.framer i = {}) (fun _ _ => id) (fun _ _ => id) (fun _ _ => id)
      (fun _ => id) (get _ _)
  · exact start (fun w => w.openOrder = []) (fun _ _ => id) (fun _ _ => id) (fun _ _ => id)
      (fun _ => id) rfl
  · exact start (fun w => w.nextNumber = s.nextNumber) (fun _ _ => id) (fun _ _ => id)
      (fun _ _ => id) (fun _ => id) rfl
  · have tail : ∀ w, (w.outlet o).bare → (((forEach allCircuits
        (fun c t => t.modControl c (fun x => x.trafficReset)) w).modRegs
          (fun r => r.trafficReset)).outlet o).bare := by
      intro w hw
      rw [State.outlet_modRegs]
      refine forEach_keeps (P := fun w => (w.outlet o).bare) (fun a w hw => ?_) hw
      exact hw
    unfold trafficCleared
    dsimp only
    refine tail _ ?_
    rcases outlet_cases o with ⟨c, rfl⟩ | ⟨t, rfl⟩
    · refine forEach_keeps (P := fun w => (w.outlet (lineOutlet c)).bare)
        (fun t w => (resetTerminal_outlet t w).2 _) ?_
      exact forEach_each (Q := fun c w => (w.outlet (lineOutlet c)).bare)
        (fun c w => (resetCircuit_outlet c w).1) (fun c d w => (resetCircuit_outlet d w).2 _) _ c
        (List.mem_finRange c)
    · exact forEach_each (Q := fun t w => (w.outlet (terminalOutlet t)).bare)
        (fun t w => (resetTerminal_outlet t w).1) (fun t d w => (resetTerminal_outlet d w).2 _) _ t
        (List.mem_finRange t)

theorem State.Consistent.trafficReset (h : u.Consistent) : (trafficReset u).Consistent := by
  rw [trafficReset_eq]
  obtain ⟨a, b, c, d, e⟩ := trafficCleared_empty u
  exact (State.Consistent.empty a b c (by rw [d]; exact h.table.next) e).settle

end Sys2Proof.Machine
end

