-- ==== Sys2Proof/Laws/Traffic.lean ====
section
/-! SUPPORT. What no step of traffic touches: one lemma per shared operation, in the form "if t differs
from s in traffic alone, so does the operation's result". -/

namespace Sys2Proof.Machine

/-- A desk entry without its routed count. -/
def Desk.fixed (d : Desk) : Desk := { d with routed := 0 }

/-- What a step of traffic leaves as it is, and the records it keeps in their bounds. -/
structure Traffic (s t : State) : Prop where
  regs : t.regs = s.regs
  pages : ∀ p, t.page p = s.page p
  pending : t.pending = s.pending
  enables : t.notices.enables = s.notices.enables
  interrupt : s.InterruptOk → t.InterruptOk
  circuits : ∀ c, (s.circuit c).ConfigOk → (t.circuit c).ConfigOk
  ports : ∀ u, (t.port u).config = (s.port u).config
  queues : ∀ u, (s.port u).QueueOk → (t.port u).QueueOk
  settings : ∀ c, (t.control c).settings = (s.control c).settings
  parsers : ∀ u, (s.parser u).buffer.length ≤ 32 → (t.parser u).buffer.length ≤ 32
  desks : ∀ i, (t.desk i).map Desk.fixed = (s.desk i).map Desk.fixed

namespace Traffic

variable {s u : State}

theorem refl (s : State) : Traffic s s := by constructor <;> simp

theorem trans {t : State} (h : Traffic s t) (g : Traffic t u) : Traffic s u where
  regs := g.regs.trans h.regs
  pages p := (g.pages p).trans (h.pages p)
  pending := g.pending.trans h.pending
  enables := g.enables.trans h.enables
  interrupt x := g.interrupt (h.interrupt x)
  circuits c x := g.circuits c (h.circuits c x)
  ports t := (g.ports t).trans (h.ports t)
  queues t x := g.queues t (h.queues t x)
  settings c := (g.settings c).trans (h.settings c)
  parsers t x := g.parsers t (h.parsers t x)
  desks i := (g.desks i).trans (h.desks i)

/-! ## The named updates -/

theorem modOutlet (h : Traffic s u) {o : Fin 24} {f : Outlet → Outlet} :
    Traffic s (u.modOutlet o f) := h.trans (by constructor <;> simp [State.InterruptOk])

theorem modFramer (h : Traffic s u) {i : Fin 24} {f : Framer → Framer} :
    Traffic s (u.modFramer i f) := h.trans (by constructor <;> simp [State.InterruptOk])

theorem setStory (h : Traffic s u) {k : Fin 48} {x : Story} : Traffic s (u.setStory k x) :=
  h.trans (by constructor <;> simp [State.InterruptOk])

theorem modStory (h : Traffic s u) {k : Fin 48} {f : Story → Story} :
    Traffic s (u.modStory k f) := h.setStory

theorem modControl (h : Traffic s u) {c : Fin 16} {f : Control → Control}
    (e : ∀ x, (f x).settings = x.settings) : Traffic s (u.modControl c f) := by
  refine h.trans ⟨?_, ?_, ?_, ?_, ?_, ?_, ?_, ?_, ?_, ?_, ?_⟩ <;> simp [State.InterruptOk]
  intro d
  split <;> simp_all

theorem modCircuit (h : Traffic s u) {c : Fin 16} {f : Circuit → Circuit}
    (e : (u.circuit c).ConfigOk → (f (u.circuit c)).ConfigOk) : Traffic s (u.modCircuit c f) := by
  refine h.trans ⟨?_, ?_, ?_, ?_, ?_, ?_, ?_, ?_, ?_, ?_, ?_⟩ <;> simp [State.InterruptOk]
  intro d
  split <;> simp_all

theorem modPort (h : Traffic s u) {t : Fin 8} {f : Port → Port}
    (e : ∀ x, (f x).config = x.config) (q : (u.port t).QueueOk → (f (u.port t)).QueueOk) :
    Traffic s (u.modPort t f) := by
  refine h.trans ⟨?_, ?_, ?_, ?_, ?_, ?_, ?_, ?_, ?_, ?_, ?_⟩ <;> simp [State.InterruptOk]
  · intro d
    split <;> simp_all
  · intro d
    split <;> simp_all

theorem modParser (h : Traffic s u) {t : Fin 8} {f : Parser → Parser}
    (e : ∀ x : Parser, x.buffer.length ≤ 32 → (f x).buffer.length ≤ 32) :
    Traffic s (u.modParser t f) := by
  refine h.trans ⟨?_, ?_, ?_, ?_, ?_, ?_, ?_, ?_, ?_, ?_, ?_⟩ <;> simp [State.InterruptOk]
  intro d
  split <;> simp_all

theorem setDesk (h : Traffic s u) {i : Fin 32} {d : Option Desk}
    (e : d.map Desk.fixed = (u.desk i).map Desk.fixed) : Traffic s (u.setDesk i d) := by
  refine h.trans ⟨?_, ?_, ?_, ?_, ?_, ?_, ?_, ?_, ?_, ?_, ?_⟩ <;> simp [State.InterruptOk]
  intro j
  split <;> simp_all

theorem raise (h : Traffic s u) {f : Flag} : Traffic s (u.raise f) :=
  h.trans (by constructor <;> simp [State.InterruptOk, Notices.withFlags])

theorem raiseIf (h : Traffic s u) {b : Bool} {f : Flag} : Traffic s (u.raiseIf b f) := by
  unfold State.raiseIf
  split
  · exact h.raise
  · exact h

theorem table (h : Traffic s u) {l : List (Fin 48)} {n : Nat} :
    Traffic s { u with openOrder := l, nextNumber := n } := h.trans (by
  constructor <;> first | rfl | exact fun _ => rfl | exact id | exact fun _ => id)

theorem forEach {α : Type} {l : List α} {f : α → State → State}
    (e : ∀ a, ∀ v, Traffic s v → Traffic s (f a v)) (h : Traffic s u) :
    Traffic s (Machine.forEach l f u) := by
  unfold Machine.forEach
  induction l generalizing u with
  | nil => exact h
  | cons a l ih => exact ih (e a _ h)

/-! ## Counts, replies, queues -/

theorem modCounts (h : Traffic s u) {c : Fin 16} {f : CircuitCounts → CircuitCounts} :
    Traffic s (u.modCounts c f) := h.modCircuit id

theorem modPortCounts (h : Traffic s u) {t : Fin 8} {f : PortCounts → PortCounts} :
    Traffic s (u.modPortCounts t f) := h.modPort (fun _ => rfl) id

theorem addLoose (h : Traffic s u) {src : Source} {k : Nat} : Traffic s (u.addLoose src k) := by
  unfold State.addLoose
  split
  · exact h.modCounts
  · exact h.modPortCounts

theorem addRefusedOpen (h : Traffic s u) {src : Source} : Traffic s (u.addRefusedOpen src) := by
  unfold State.addRefusedOpen
  split
  · exact h.modCounts
  · exact h.modPortCounts

theorem offerReply (h : Traffic s u) {t : Fin 8} {l : List Office} :
    Traffic s (u.offerReply t l) := by
  unfold State.offerReply
  split
  · exact h.modPort (fun _ => rfl) id
  · exact h

theorem offerSource (h : Traffic s u) {src : Source} {l : List Office} :
    Traffic s (u.offerSource src l) := by
  cases src
  · exact h
  · exact h.offerReply

/-- A queue no longer than before, or within its bound, keeps the port's queue law. -/
theorem withQueue_ok {p : Port} {q : List Office} (hq : q.length ≤ 16) (e : p.QueueOk) :
    (p.withQueue q).QueueOk := by
  obtain ⟨_, _, _⟩ := e
  refine ⟨hq, ?_, ?_⟩ <;> simp only [Port.withQueue, readyFor] <;> intros <;> split <;> try rfl
  all_goals omega

theorem popQueue (h : Traffic s u) {t : Fin 8} : Traffic s (popQueue t u) := by
  refine h.modPort (fun _ => rfl) (fun hx => withQueue_ok ?_ hx)
  have := hx.1
  simp only [List.length_tail]
  omega

/-! ## Circuits -/

theorem apply_config {x : Circuit} {cfg : CircuitConfig} (h : cfg.valid = true) :
    (x.apply cfg).ConfigOk := by
  have key : (x.apply cfg).config = cfg ∧ (x.apply cfg).pendingConfig = none := by
    unfold Circuit.apply Circuit.hunt Circuit.reconfigureLost
    cases x.state <;> cases x.survey <;> simp <;> split <;> simp
  unfold Circuit.ConfigOk
  rw [key.1, key.2]
  exact ⟨h, by simp⟩

theorem quietTest (h : Traffic s u) {c : Fin 16} : Traffic s (quietTest c u) := by
  unfold Machine.quietTest
  split
  · rename_i cfg hp
    split
    · exact h.modCircuit (fun ok => apply_config (ok.2 _ hp))
    · exact h
  · exact h

theorem quietTestOutlet (h : Traffic s u) {o : Fin 24} : Traffic s (quietTestOutlet o u) := by
  unfold Machine.quietTestOutlet
  split
  · exact h.quietTest
  · exact h

theorem quietTestSource (h : Traffic s u) {src : Source} :
    Traffic s (quietTestSource src u) := by
  cases src
  · exact h.quietTest
  · exact h

/-! ## The story table -/

theorem freeRecord (h : Traffic s u) {k : Fin 48} : Traffic s (freeRecord k u) :=
  h.setStory.table

theorem allocate (h : Traffic s u) {src : Source} {k : Fin 48} :
    Traffic s (allocate src k u) := h.setStory.table

theorem claimSlot (h : Traffic s u) : Traffic s (claimSlot u).2 := by
  unfold Machine.claimSlot
  split
  · exact h
  · split
    · exact h.freeRecord
    · exact h

theorem openClaim (h : Traffic s u) {src : Source} : Traffic s (openClaim src u).2 := by
  have hc := h.claimSlot
  unfold Machine.openClaim
  split <;> rename_i e <;> rw [e] at hc
  · exact hc.allocate
  · exact hc.raise

theorem rejectStory (h : Traffic s u) {k : Fin 48} {why : CloseReason} :
    Traffic s (rejectStory k why u) := h.modStory.raise.offerSource.quietTestSource

theorem oweItem (h : Traffic s u) {o : Fin 24} {kind : OwedKind} {k : Fin 48} :
    Traffic s (oweItem o kind k u) := by
  unfold Machine.oweItem
  split
  · exact h.modOutlet
  · exact h

theorem oweCut (h : Traffic s u) {o : Fin 24} {k : Fin 48} {why : CutReason} :
    Traffic s (oweCut o k why u) := by
  unfold Machine.oweCut
  split
  · exact h.oweItem
  · exact h

theorem cutRecord (h : Traffic s u) {k : Fin 48} {o : Fin 24} {why : CutReason} :
    Traffic s (cutRecord k o why u) := by
  unfold Machine.cutRecord
  split
  · exact h.modStory.modOutlet.oweCut.raiseIf
  · exact h

theorem closeIfDone (h : Traffic s u) {k : Fin 48} : Traffic s (closeIfDone k u) := by
  unfold Machine.closeIfDone
  split
  · exact h.modStory.raise
  · exact h

theorem toClosing (h : Traffic s u) {k : Fin 48} {why : CloseReason} :
    Traffic s (toClosing k why u) := h.modStory.quietTestSource.closeIfDone

/-! ## The framer outside a story -/

theorem modFramerOf (h : Traffic s u) {src : Source} {f : Framer → Framer} :
    Traffic s (modFramerOf src f u) := h.modFramer

theorem takeIdle (h : Traffic s u) {src : Source} {ch : Office} :
    Traffic s (takeIdle src ch u) := by
  unfold Machine.takeIdle
  dsimp only
  split
  · exact h.modFramerOf
  · split
    · exact h.modFramerOf
    · split
      · exact h.modFramerOf
      · exact h.modFramerOf.addLoose

theorem takeDiscard (h : Traffic s u) {src : Source} {ch : Office} :
    Traffic s (takeDiscard src ch u) := by
  unfold Machine.takeDiscard
  dsimp only
  split
  · exact h.modFramerOf
  · split
    · exact h.modFramerOf
    · split
      · exact h.modFramerOf
      · exact h.modFramerOf.addLoose

theorem completeOpener (h : Traffic s u) {src : Source} :
    Traffic s (completeOpener src u) := by
  have hc := h.openClaim (src := src)
  unfold Machine.completeOpener
  split <;> rename_i e <;> rw [e] at hc
  · exact hc.modFramerOf
  · exact hc.modFramerOf.addRefusedOpen.addLoose

theorem failMatch (h : Traffic s u) {src : Source} {ch : Office} :
    Traffic s (failMatch src ch u) := by
  unfold Machine.failMatch
  dsimp only
  split
  · exact h.modFramerOf.addLoose.takeDiscard
  · exact h.modFramerOf.addLoose.takeIdle

theorem extendOpener (h : Traffic s u) {src : Source} {ch : Office} :
    Traffic s (extendOpener src ch u) := by
  unfold Machine.extendOpener
  split
  · exact h.modFramerOf
  · exact h.failMatch

theorem takeOpenerMatch (h : Traffic s u) {src : Source} {ch : Office} :
    Traffic s (takeOpenerMatch src ch u) := by
  unfold Machine.takeOpenerMatch
  dsimp only
  split
  · exact h.extendOpener.completeOpener
  · exact h.extendOpener

theorem takeCloserDiscard (h : Traffic s u) {src : Source} {ch : Office} :
    Traffic s (takeCloserDiscard src ch u) := by
  unfold Machine.takeCloserDiscard
  dsimp only
  split
  · split
    · exact h.modFramerOf.addLoose
    · exact h.modFramerOf
  · exact h.failMatch

theorem takeLeftover (h : Traffic s u) {src : Source} {chs : List Office} :
    Traffic s (takeLeftover src chs u) := by
  refine h.forEach fun ch v hv => ?_
  split
  · exact hv.extendOpener
  · exact hv.takeIdle

theorem resetFramer (h : Traffic s u) {src : Source} : Traffic s (resetFramer src u) :=
  h.modFramerOf

/-! ## Writing -/

theorem lapCuts (h : Traffic s u) {k : Fin 48} : Traffic s (lapCuts k u) :=
  h.forEach fun _ _ hv => hv.cutRecord.quietTestOutlet

theorem writeOne (h : Traffic s u) {k : Fin 48} {ch : Office} : Traffic s (writeOne k ch u) := by
  unfold Machine.writeOne
  dsimp only
  split
  · exact h.lapCuts.modStory
  · exact h.modStory

theorem writeChars {k : Fin 48} {chs : List Office} (h : Traffic s u) :
    Traffic s (writeChars k chs u).2 := by
  induction chs generalizing u with
  | nil => exact h
  | cons ch rest ih =>
    unfold Machine.writeChars
    split
    · exact ih h.writeOne
    · exact h

theorem writeText (h : Traffic s u) {k : Fin 48} {chs : List Office} :
    Traffic s (writeText k chs u).2 := by
  have key : ∀ v, Traffic s v → Traffic s
      (if ((Machine.writeChars k chs v).2.story k).taken = Config.takenMax then
        ((Machine.writeChars k chs v).1, Machine.toClosing k .tooLong (Machine.writeChars k chs v).2)
        else Machine.writeChars k chs v).2 := by
    intro v hv
    split
    · exact hv.writeChars.toClosing
    · exact hv.writeChars
  unfold Machine.writeText
  dsimp only
  refine key _ ?_
  split
  · exact h
  · exact h.modStory

theorem completeWrite (h : Traffic s u) {src : Source} {k : Fin 48} {chs : List Office} :
    Traffic s (completeWrite src k chs u) := by
  unfold Machine.completeWrite
  dsimp only
  split
  · exact h.writeText.modFramerOf
  · exact h.writeText.modFramerOf.takeLeftover

theorem restartIdle (h : Traffic s u) {k : Fin 48} : Traffic s (restartIdle k u) := by
  unfold Machine.restartIdle
  split
  · exact h
  · exact h.setStory

theorem offerWrite (h : Traffic s u) {k : Fin 48} : Traffic s (offerWrite k u) := by
  unfold Machine.offerWrite
  split
  · exact h
  · dsimp only
    split
    · exact h
    · split
      · exact h.popQueue.restartIdle.completeWrite
      · exact h

theorem afterCut (h : Traffic s u) {k : Fin 48} {o : Fin 24} : Traffic s (afterCut k o u) :=
  h.closeIfDone.quietTestOutlet.offerWrite

theorem cutEntry (h : Traffic s u) {k : Fin 48} {o : Fin 24} {why : CutReason} :
    Traffic s (cutEntry k o why u) := by
  unfold Machine.cutEntry
  split
  · exact h.cutRecord.afterCut
  · exact h

theorem cutOutlet (h : Traffic s u) {o : Fin 24} {why : CutReason} :
    Traffic s (cutOutlet o why u) := h.forEach fun _ _ hv => hv.cutEntry

theorem takeInStory (h : Traffic s u) {src : Source} {k : Fin 48} {ch : Office} :
    Traffic s (takeInStory src k ch u) := by
  unfold Machine.takeInStory
  dsimp only
  split
  · exact h.modFramerOf
  · split
    · exact h.modFramerOf
    · exact h.completeWrite

theorem takeCloserStory (h : Traffic s u) {src : Source} {k : Fin 48} {ch : Office} :
    Traffic s (takeCloserStory src k ch u) := by
  unfold Machine.takeCloserStory
  dsimp only
  split
  · split
    · exact h.modFramerOf.toClosing
    · exact h.modFramerOf
  · exact h.completeWrite

/-! ## Headers and routing -/

theorem countRouted (h : Traffic s u) {i : Fin 32} : Traffic s (countRouted i u) := by
  refine h.setDesk ?_
  cases u.desk i <;> rfl

theorem createEntry (h : Traffic s u) {k : Fin 48} {e : Entry} :
    Traffic s (createEntry k e u) := h.modStory.modOutlet

theorem routed (h : Traffic s u) {k : Fin 48} {r : Route} : Traffic s (routed k r u) := by
  unfold Machine.routed
  dsimp only
  refine Traffic.raise (Traffic.forEach (fun _ _ hv => hv.createEntry) (Traffic.modStory ?_))
  split
  · exact h.countRouted
  · exact h

theorem completeHeader (h : Traffic s u) {k : Fin 48} {x : HeaderFields} :
    Traffic s (completeHeader k x u).2 := by
  unfold Machine.completeHeader
  dsimp only
  split
  · exact h.modStory.routed
  · exact h.modStory.rejectStory

theorem judgeHeader (h : Traffic s u) {src : Source} {k : Fin 48} {b : Bool} :
    Traffic s (judgeHeader src k b u) := by
  unfold Machine.judgeHeader
  split
  · exact h.rejectStory.modFramerOf
  · rename_i x _
    have hc := h.completeHeader (k := k) (x := x)
    split <;> rename_i e <;> rw [e] at hc <;> exact hc.modFramerOf

theorem takeHeader (h : Traffic s u) {src : Source} {k : Fin 48} {ch : Office} :
    Traffic s (takeHeader src k ch u) := by
  unfold Machine.takeHeader
  split
  · exact h.judgeHeader
  · split
    · exact h.modFramerOf
    · exact h.rejectStory.modFramerOf.addLoose

theorem takeChar (h : Traffic s u) {src : Source} {ch : Office} :
    Traffic s (takeChar src ch u) := by
  unfold Machine.takeChar
  dsimp only
  split
  · split
    · exact h.takeIdle
    · exact h.takeOpenerMatch
    · exact h.takeCloserDiscard
    · exact h.takeDiscard
    all_goals exact h
  · split
    · exact h.restartIdle.takeHeader
    · exact h.restartIdle.takeInStory
    · exact h.restartIdle.takeCloserStory
    all_goals exact h.restartIdle

theorem refuseWrite (h : Traffic s u) {t : Fin 8} {k : Fin 48} {chs : List Office} :
    Traffic s (refuseWrite t k chs u) := by
  unfold Machine.refuseWrite
  dsimp only
  split
  · exact h.modFramerOf.modStory
  · exact h.modFramerOf

theorem takeHead (h : Traffic s u) {t : Fin 8} : Traffic s (takeHead t u) := by
  unfold Machine.takeHead
  split
  · exact h
  · split
    · dsimp only
      split
      · split
        · exact h.popQueue.takeChar
        · exact h.refuseWrite
      · exact h.popQueue.takeChar
    · exact h

/-! ## Claims on stories -/

theorem holdStory (h : Traffic s u) {k : Fin 48} {x : Holder} : Traffic s (holdStory k x u) :=
  h.modStory.modFramerOf

theorem reclaimWrite (h : Traffic s u) {src : Source} : Traffic s (reclaimWrite src u) := by
  unfold Machine.reclaimWrite
  split
  · exact h
  · split
    · exact h.modFramerOf.takeHead
    · exact h

theorem releaseStory (h : Traffic s u) {k : Fin 48} : Traffic s (releaseStory k u) :=
  h.modStory.reclaimWrite

theorem killFramer (h : Traffic s u) {k : Fin 48} : Traffic s (killFramer k u) := by
  unfold Machine.killFramer
  dsimp only
  split
  · exact h.modFramerOf.addLoose
  · exact h

theorem closeCut (h : Traffic s u) {k : Fin 48} {why : Fin 24 → CutReason} {r : CloseReason} :
    Traffic s (closeCut k why r u) :=
  Traffic.forEach (fun _ _ hv => hv.quietTestOutlet)
    (Traffic.modStory (h.forEach fun _ _ hv => hv.cutRecord))

theorem killStory (h : Traffic s u) {k : Fin 48} {a : Option (Fin 8)} :
    Traffic s (killStory k a u) := by
  have key := (h.killFramer (k := k)).closeCut (why := fun _ => .killed) (r := .killed) (k := k)
    |>.raise (f := .storyClosed) |>.quietTestSource (src := (u.story k).source)
  unfold Machine.killStory
  dsimp only
  split
  · split
    · exact key
    · exact key.offerReply
  · exact key.offerReply
  · exact key

theorem loseStory (h : Traffic s u) {k : Fin 48} : Traffic s (loseStory k u) := h.closeCut.raise

theorem loseSource (h : Traffic s u) {src : Source} : Traffic s (loseSource src u) := by
  refine Traffic.resetFramer (h.forEach fun k v hv => ?_)
  split
  · exact hv.loseStory
  · exact hv

theorem setPriority (h : Traffic s u) {k : Fin 48} {p : Priority} :
    Traffic s (setPriority k p u) := by
  unfold Machine.setPriority
  split
  · exact h
  · exact h.modStory

theorem addOutlet (h : Traffic s u) {k : Fin 48} {o : Fin 24} : Traffic s (addOutlet k o u) :=
  h.createEntry

theorem flushHeld (h : Traffic s u) {src : Source} {k : Fin 48} :
    Traffic s (flushHeld src k u) := by
  unfold Machine.flushHeld
  dsimp only
  split
  · split
    · exact h.completeWrite
    · split
      · exact h.completeWrite
      · exact h.addLoose
  · exact h

theorem endIdle (h : Traffic s u) {k : Fin 48} : Traffic s (endIdle k u) := by
  unfold Machine.endIdle
  dsimp only
  split
  · exact h.modFramerOf.flushHeld.modFramerOf.toClosing
  · exact h.modFramerOf.flushHeld

theorem expireIdle (h : Traffic s u) {k : Fin 48} : Traffic s (expireIdle k u) := by
  unfold Machine.expireIdle
  split
  · exact h.rejectStory.modFramerOf
  · exact h.endIdle
  all_goals exact h

theorem expireBlock (h : Traffic s u) {k : Fin 48} : Traffic s (expireBlock k u) := by
  unfold Machine.expireBlock
  dsimp only
  split
  · exact h
  · exact Traffic.offerWrite (h.forEach fun _ _ hv => hv.cutRecord.quietTestOutlet)

end Traffic

end Sys2Proof.Machine
end

