-- ==== Sys2Proof/Laws/TrafficOutlets.lean ====
section
/-! SUPPORT. What the outlets, the requests and the end of service leave as it is, in the form of
Laws/Traffic.lean. -/

namespace Sys2Proof.Machine

/-! ## The control record's operations keep its settings -/

theorem Control.settings_motorStop (x : Control) : x.motorStop.settings = x.settings := rfl

theorem Control.settings_motorRunOn (x : Control) (n : Nat) :
    (x.motorRunOn n).settings = x.settings := by
  unfold Control.motorRunOn
  split <;> rfl

theorem Control.settings_motorTick (x : Control) : x.motorTick.settings = x.settings := by
  unfold Control.motorTick
  dsimp only
  split <;> try split
  all_goals rfl

theorem Control.settings_enterDelay (x : Control) : x.enterDelay.settings = x.settings := by
  unfold Control.enterDelay
  split <;> rfl

theorem Control.settings_afterCount (x : Control) : x.afterCount.settings = x.settings := by
  unfold Control.afterCount
  split <;> try split
  all_goals first | rfl | exact Control.settings_enterDelay x

theorem Control.settings_countTick (x : Control) (b : Bool) :
    (x.countTick b).settings = x.settings := by
  unfold Control.countTick
  dsimp only
  split <;> try split
  all_goals first | rfl | exact Control.settings_afterCount _

namespace Traffic

variable {s u : State}

/-! ## Arbitration and units -/

theorem grant (h : Traffic s u) {o : Fin 24} {k : Fin 48} : Traffic s (grant o k u) :=
  h.modStory.modOutlet

theorem preempt (h : Traffic s u) {o : Fin 24} {k : Fin 48} : Traffic s (preempt o k u) := by
  unfold Machine.preempt
  dsimp only
  split
  · exact h.modStory.modOutlet.oweItem
  · exact h.modStory.modOutlet

theorem arbitrate (h : Traffic s u) {o : Fin 24} : Traffic s (arbitrate o u) := by
  unfold Machine.arbitrate
  split
  · exact h
  · exact h.grant
  · exact h.preempt.grant

theorem suspendCaughtUp (h : Traffic s u) {o : Fin 24} : Traffic s (suspendCaughtUp o u) := by
  unfold Machine.suspendCaughtUp
  split
  · exact h
  · split
    · exact h.modStory.modOutlet.oweItem
    · exact h

theorem beginUnit (h : Traffic s u) {o : Fin 24} {kind : UnitKind} {l : List Office} :
    Traffic s (beginUnit o kind l u) := h.modOutlet

theorem beginItem (h : Traffic s u) {o : Fin 24} {i : OwedItem} {l : List OwedItem} :
    Traffic s (beginItem o i l u) := h.modOutlet.beginUnit

theorem beginText (h : Traffic s u) {o : Fin 24} {k : Fin 48} {ch : Office} :
    Traffic s (beginText o k ch u) := h.modStory.beginUnit.offerWrite

theorem beginHolder (h : Traffic s u) {o : Fin 24} {k : Fin 48} {e : Entry} :
    Traffic s (beginHolder o k e u) := by
  unfold Machine.beginHolder
  dsimp only
  split
  · exact h.beginUnit
  · split
    · split
      · exact h.beginText
      · exact h
    · split
      · exact h.beginUnit
      · exact h

theorem beginCarried (h : Traffic s u) {o : Fin 24} : Traffic s (beginCarried o u) := by
  have ha := h.arbitrate (o := o)
  unfold Machine.beginCarried
  dsimp only
  split
  · exact ha.beginItem
  · split
    · exact ha
    · split
      · exact ha.beginHolder
      · exact ha

theorem takeBoundary (h : Traffic s u) {o : Fin 24} : Traffic s (takeBoundary o u) := by
  have ha := h.suspendCaughtUp (o := o)
  unfold Machine.takeBoundary
  dsimp only
  split
  · exact ha.beginUnit
  · split
    · exact ha.beginItem
    · split
      · exact ha.beginUnit
      · exact ha.beginCarried

theorem modCarried (h : Traffic s u) {o : Fin 24} {k : Fin 48} {f : Entry → Entry} :
    Traffic s (u.modCarried o k f) := by
  unfold State.modCarried
  split
  · exact h.modStory
  · exact h

theorem claimDone (h : Traffic s u) {o : Fin 24} {k : Fin 48} : Traffic s (claimDone o k u) := by
  unfold Machine.claimDone
  split
  · exact h.modStory.modOutlet.afterCut
  · exact h

theorem emptyReply (h : Traffic s u) {o : Fin 24} : Traffic s (emptyReply o u) := by
  unfold Machine.emptyReply
  split
  · exact h.modPort (by intro; rfl) (by intro q; exact q)
  · exact h

theorem completeUnit (h : Traffic s u) {o : Fin 24} {x : OutUnit} :
    Traffic s (completeUnit o x u) := by
  have hm := h.modOutlet (o := o) (f := fun y => { y.dropMore x.chars.length with unit := none })
  unfold Machine.completeUnit
  dsimp only
  split
  · exact hm
  · exact hm
  · exact hm.modCarried
  · exact hm.claimDone
  · exact hm.emptyReply
  · exact hm.modOutlet

/-! ## Driving an outlet -/

theorem setOutletState (h : Traffic s u) {o : Fin 24} {st : OutletState} :
    Traffic s (setOutletState o st u) := h.modOutlet

theorem pauseOutlet (h : Traffic s u) {o : Fin 24} : Traffic s (pauseOutlet o u) := by
  unfold Machine.pauseOutlet
  split
  · exact h
  · exact h.setOutletState

theorem clearFill (h : Traffic s u) {o : Fin 24} : Traffic s (clearFill o u) := by
  unfold Machine.clearFill
  split
  · exact h.modControl (by intro; rfl)
  · exact h

theorem fallIdle (h : Traffic s u) {o : Fin 24} : Traffic s (fallIdle o u) := by
  unfold Machine.fallIdle
  dsimp only
  split
  · exact h.setOutletState.modControl (by intro; apply Control.settings_motorRunOn)
  · exact h.setOutletState

theorem handOver (h : Traffic s u) {o : Fin 24} {x : OutUnit} : Traffic s (handOver o x u) := by
  unfold Machine.handOver
  split
  · split
    · exact (h.modCircuit (by intro q; exact q)).modOutlet
    · exact h
  · split
    · exact (h.modPort (by intro; rfl) (by intro q; exact q)).modOutlet
    · exact h
  · exact h

theorem convertNext (h : Traffic s u) {o : Fin 24} {x : OutUnit} :
    Traffic s (convertNext o x u) := by
  unfold Machine.convertNext
  split
  · exact h.modOutlet
  · exact h

theorem drive {n : Nat} {o : Fin 24} (h : Traffic s u) : Traffic s (drive n o u) := by
  induction n generalizing u with
  | zero => exact h
  | succ n ih =>
    unfold Machine.drive
    dsimp only
    split
    · split
      · exact h.pauseOutlet
      · split
        · exact ih h.takeBoundary.setOutletState
        · exact h.takeBoundary.fallIdle
    · split
      · exact ih h.completeUnit
      · split
        · exact h.pauseOutlet
        · split
          · exact h.setOutletState
          · split
            · exact ih h.setOutletState.convertNext
            · exact h.setOutletState.handOver

theorem goOn (h : Traffic s u) {o : Fin 24} : Traffic s (goOn o u) := by
  unfold Machine.goOn
  exact h.drive

theorem lineGainsWork (h : Traffic s u) {o : Fin 24} {c : Fin 16} :
    Traffic s (lineGainsWork o c u) := by
  have key : Traffic s (Machine.arbitrate o (Machine.setOutletState o .starting
      (u.modControl c (fun x => x.motorLead (u.circuit c).config.motorLead)))) :=
    (h.modControl (by intro; rfl)).setOutletState.arbitrate
  unfold Machine.lineGainsWork
  dsimp only
  split
  · split
    · exact (key.modControl (by intro; rfl)).goOn
    · exact key
  · exact (h.modControl (by intro; rfl)).goOn

theorem gainWork (h : Traffic s u) {o : Fin 24} : Traffic s (gainWork o u) := by
  unfold Machine.gainWork
  dsimp only
  split
  · exact h.clearFill.lineGainsWork
  · exact h.clearFill.goOn

theorem leavePause (h : Traffic s u) {o : Fin 24} : Traffic s (leavePause o u) := by
  unfold Machine.leavePause
  split
  · split
    · exact h.completeUnit
    · exact h
  · split
    · exact h.setOutletState
    · exact h.goOn

theorem react (h : Traffic s u) {o : Fin 24} : Traffic s (react o u) := by
  unfold Machine.react
  split
  · exact h
  · exact h
  · exact h.gainWork
  · exact h.goOn
  · exact h.goOn
  · exact h.leavePause

theorem reactAll {n : Nat} (h : Traffic s u) : Traffic s (reactAll n u) := by
  induction n generalizing u with
  | zero => exact h
  | succ n ih =>
    unfold Machine.reactAll
    split
    · exact h
    · exact ih h.react

theorem settle (h : Traffic s u) : Traffic s (settle u) := by
  unfold Machine.settle
  refine Traffic.forEach (fun c v hv => ?_) (Traffic.forEach (fun t v hv => ?_) h.reactAll)
  · unfold driveOutputs showCauses
    exact hv.modOutlet.modControl (by intro; rfl)
  · unfold stallTimer
    exact hv.modOutlet

/-! ## Service -/

theorem outletOff (h : Traffic s u) {o : Fin 24} : Traffic s (outletOff o u) :=
  h.cutOutlet.modOutlet.clearFill

theorem leaveService (h : Traffic s u) {c : Fin 16} : Traffic s (leaveService c u) := by
  unfold Machine.leaveService
  exact Traffic.quietTest (Traffic.modControl h.loseSource.outletOff (by intro; rfl))

theorem cancelSurvey (h : Traffic s u) {c : Fin 16} : Traffic s (cancelSurvey c u) := by
  refine (h.modCircuit fun ok => ?_).raise
  unfold Circuit.endSurvey
  dsimp only
  split <;> exact ok

/-! ## Requests -/

theorem judge {t : Fin 8} {r : Request} {line : List Office} {b : Bool} {v : State}
    (e : judge t r u = .ok (line, b, v)) (h : Traffic s u) : Traffic s v := by
  unfold Machine.judge at e
  cases r <;> simp only [needs, onNumber, judgeStatus] at e <;> split at e <;> try split at e
  all_goals first
    | (simp only [reduceCtorEq] at e)
    | (simp only [Except.ok.injEq, Prod.mk.injEq] at e; obtain ⟨_, _, rfl⟩ := e; exact h)
    | skip
  · unfold judgeHold accepted at e
    split at e <;> try split at e
    all_goals simp at e
    obtain ⟨_, _, rfl⟩ := e
    exact h.holdStory
  · unfold judgeRelease accepted at e
    split at e <;> try split at e
    all_goals simp at e
    obtain ⟨_, _, rfl⟩ := e
    exact h.releaseStory
  · unfold judgeKill accepted at e
    split at e <;> try split at e
    all_goals simp at e
    obtain ⟨_, _, rfl⟩ := e
    exact h.killStory
  · unfold judgePriority at e
    split at e
    all_goals simp at e
    obtain ⟨_, _, rfl⟩ := e
    exact h.setPriority
  · unfold judgeJoin accepted at e
    dsimp only at e
    split at e <;> try split at e <;> try split at e
    all_goals simp at e
    obtain ⟨_, _, rfl⟩ := e
    exact h.addOutlet
  · unfold judgeLeave accepted at e
    dsimp only at e
    split at e <;> try split at e <;> try split at e
    all_goals simp at e
    obtain ⟨_, _, rfl⟩ := e
    exact h.cutEntry

theorem judgeRequest (h : Traffic s u) {t : Fin 8} : Traffic s (judgeRequest t u) := by
  unfold Machine.judgeRequest
  split
  · exact h.offerReply
  · unfold carryOut
    split
    · exact h.offerReply
    · rename_i e
      exact (judge e h).offerReply.raiseIf

theorem completeRequest (h : Traffic s u) {t : Fin 8} : Traffic s (completeRequest t u) := by
  unfold Machine.completeRequest
  dsimp only
  refine Traffic.modParser ?_ (fun _ _ => Nat.zero_le _)
  split
  · exact h.modPortCounts
  · exact h.judgeRequest

end Traffic

end Sys2Proof.Machine
end

