-- ==== Sys2Proof/Tests/Slice0.lean ====
section
/-! SUPPORT. The package's own tests: ill-formed rows the check refuses; the effect of each row on small
states; and for each statement a state and operands that meet its hypotheses, its clauses at the values
where they begin and end. -/

namespace Sys2Proof.Tests

open Sys2Proof Sys2Proof.Machine

set_option Elab.async false

/-! ## Helpers -/

/-- A step answers a next state that satisfies a test. -/
def after (s : State) (i : Instr) (p : State → Bool) : Bool :=
  match exec i s with
  | .next t => p t
  | .fault _ | .refused _ => false

/-- The next state of a step, or the state itself where it stops. -/
def ran (i : Instr) (s : State) : State :=
  match exec i s with
  | .next t => t
  | .fault _ | .refused _ => s

/-- Two states agree but for the pages, which are long to compare. -/
def sameButPages (s t : State) : Bool :=
  decide (t.circuits = s.circuits ∧ t.ports = s.ports ∧ t.parsers = s.parsers
    ∧ t.framers = s.framers ∧ t.stories = s.stories ∧ t.openOrder = s.openOrder
    ∧ t.nextNumber = s.nextNumber ∧ t.desks = s.desks ∧ t.outlets = s.outlets
    ∧ t.controls = s.controls ∧ t.notices = s.notices ∧ t.regs = s.regs ∧ t.pending = s.pending)

/-- A step changes nothing. -/
def still (s : State) (i : Instr) : Bool := after s i (sameButPages s)

/-- A host command is refused with a code and changes nothing else. -/
def refuses (s : State) (i : Instr) (n : Nat) (code : ResultCode) : Bool :=
  after s i (sameButPages (s.refuse n code))

/-- A host command is answered OK in a state that satisfies a test. -/
def accepts (s : State) (i : Instr) (p : State → Bool) : Bool :=
  after s i (fun t => decide (t.regs.result = .ok) && p t)

/-- A state with the first argument words written. -/
def asked (l : List Nat) (s : State) : State :=
  s.modRegs (fun r => { r with args := Vector.ofFn (fun k => word ((l[k.val]?).getD 0)) })

/-- Two letters in a word. -/
def pair (a b : Char) : Nat := 256 * a.toNat + b.toNat

/-- A circuit in service. -/
def opened (c : Fin 16) (s : State) : State :=
  (s.modCircuit c (fun x => { x with state := .opened, rxPhase := .hunting })).modOutlet
    (lineOutlet c) (fun x => { x with state := .idle })

/-- A terminal in service with its ready input high. -/
def enabled (t : Fin 8) (a : Authority) (s : State) : State :=
  (s.modPort t (fun x => { x with
    enabled := true, config := { x.config with authority := a, enable := true }, rxPhase := .hunting,
    readyOut := .high, readyIn := .high, readyPin := .high })).modOutlet
    (terminalOutlet t) (fun x => { x with state := .idle })

/-- A record placed in a slot, last in the open order. -/
def placed (k : Fin 48) (x : Story) (s : State) : State :=
  { s.setStory k x with openOrder := s.openOrder ++ [k] }

/-- A desk entry at a position. -/
def withDesk (i : Fin 32) (a b : Char) (outlets : BitVec 24) (floor : Priority) (s : State) : State :=
  s.setDesk i (some { code := ⟨office a, office b⟩, outlets := outlets, floor := floor,
                      fallback := none, isDefault := false, echo := false })

/-- Two circuits and two terminals in service: 4, 9, 2 (CHIEF) and 5 (DESK). -/
def office_ : State := enabled 5 .desk (enabled 2 .chief (opened 9 (opened 4 State.reset)))

/-- An entry with its outlet and state, its notice owed and nothing read. -/
def entryOf (o : Fin 24) (st : EntryState) : Entry :=
  { outlet := o, state := st, start := 0, read := 0, owed := .header }

/-- The RUNNING story 7 of terminal 5: carried on line outlet 4, waiting on terminal outlet 18. -/
def running : Story :=
  { state := .running, number := 7, priority := some .r, desk := some ⟨office 'F', office 'N'⟩,
    routedDesk := some ⟨office 'F', office 'N'⟩, slug := some [office 'W'], source := .terminal 5,
    taken := 3, window := text ['A', 'B', 'C'], idleTimer := some 4,
    entries := [{ outlet := 4, state := .carrying, start := 0, read := 1, delivered := 1,
                  owed := .none }, entryOf 18 .waiting] }

/-- The HELD story 8 of terminal 2, suspended on outlet 4. -/
def held : Story :=
  { state := .held, number := 8, priority := some .d, desk := some ⟨office 'F', office 'N'⟩,
    slug := some [office 'X'], source := .terminal 2, heldBy := some .host,
    entries := [entryOf 4 (.suspended .held)] }

/-- The CLOSED story 9 of circuit 4, done on outlet 9. -/
def closed : Story :=
  { state := .closed, number := 9, source := .circuit 4, reason := some .closer, closed := some 5,
    slug := some [office 'W'],
    entries := [{ outlet := 9, state := .done, start := 0, read := 0, owed := .none }] }

/-- The RUNNING flash story 10 of circuit 9, waiting on outlet 4. -/
def flash : Story :=
  { state := .running, number := 10, priority := some .f, desk := some ⟨office 'F', office 'L'⟩,
    slug := some [office 'Y'], source := .circuit 9, idleTimer := some 0, changed := true,
    entries := [entryOf 4 .waiting] }

/-- The story 11 of circuit 4 in HEADER. -/
def opening : Story := { state := .header, number := 11, source := .circuit 4, idleTimer := some 0 }

/-- The office at work: five stories, circuit 4 sending the text of story 7. -/
def busy : State :=
  let s := placed 4 opening (placed 3 flash (placed 1 held (placed 0 running (placed 2 closed office_))))
  let s := { s with nextNumber := 12 }
  let s := (s.modFramer 21 (fun f => { f with state := .inStory, slot := some 0 })).modFramer 18
    (fun f => { f with state := .inStory, slot := some 1 })
  let s := (s.modFramer 9 (fun f => { f with state := .inStory, slot := some 3 })).modFramer 4
    (fun f => { f with state := .header, slot := some 4, header := opener })
  let s := s.modOutlet 4 (fun x => { x with
    state := .sending, holder := some 0, waiting := [1, 3], unit := some ⟨.text, [], []⟩ })
  let s := (s.modOutlet 18 (fun x => { x with waiting := [0] })).modCircuit 4
    (fun x => { x with sending := some (x.startChar 3#5 .unit) })
  let s := s.modControl 4 (fun x => { x with motor := .running, motorOut := .high, signalOut := .low })
  withDesk 3 'F' 'L' 0x000210#24 .d (withDesk 0 'F' 'N' 0x040010#24 .d s)

/-! ## The busy office is a well-kept state -/

/-- What Story.Ok asks, as one decidable proposition. -/
abbrev storyCheck (st : Story) : Prop :=
  st.window.length = min st.taken 128 ∧ st.taken ≤ 65535 ∧ st.lines ≤ st.taken
    ∧ st.entries.Pairwise (fun a b => a.outlet < b.outlet)
    ∧ (∀ e ∈ st.entries, e.start ≤ e.read ∧ e.read ≤ st.taken ∧ e.start + e.delivered = e.read
        ∧ (e.state.live = true → st.taken ≤ e.read + 128)
        ∧ (e.holdMark = true → e.state = .carrying ∧ st.state = .held))
    ∧ (st.state = .free ∨ st.state = .header → st.entries = [] ∧ st.taken = 0)
    ∧ (st.state = .closed → st.anyLive = false)
    ∧ (st.state ≠ .free → 1 ≤ st.number ∧ st.number ≤ 9999)
    ∧ (st.heldBy.isSome = true ↔ st.state = .held)
    ∧ (st.state = .held → st.source.isTerminal = true)
    ∧ (st.idleTimer.isSome = true ↔ st.state = .header ∨ st.state = .running)
    ∧ st.blockTimer.isSome = st.blockedSince.isSome
    ∧ (st.blockedSince.isSome = true → st.state = .running)
    ∧ (st.closed.isSome = true ↔ st.state = .closed)
    ∧ (st.reason.isSome = true ↔ st.state = .closing ∨ st.state = .closed)

/-- A record that passes the check is well kept. -/
theorem story_ok {st : Story} (h : storyCheck st) : st.Ok := by
  obtain ⟨h1, h2, h3, h4, h5, h6, h7, h8, h9, h10, h11, h12, h13, h14, h15⟩ := h
  exact ⟨h1, h2, h3, h4, fun e he => by
    obtain ⟨a, b, c, d, m⟩ := h5 e he
    exact ⟨a, b, c, d, m⟩, h6, h7, h8, h9, h10, h11, h12, h13, h14, h15⟩

/-- What TableOk asks of the open order and the numbers. -/
abbrev orderCheck (s : State) : Prop :=
  s.openOrder.Nodup ∧ (∀ k, k ∈ s.openOrder ↔ (s.story k).state ≠ .free)
    ∧ (∀ j ∈ s.openOrder, ∀ k ∈ s.openOrder, (s.story j).number = (s.story k).number → j = k)
    ∧ 1 ≤ s.nextNumber ∧ s.nextNumber ≤ 9999

/-- What TableOk asks of an outlet. -/
abbrev outletCheck (s : State) (o : Fin 24) : Prop :=
  (s.outlet o).waiting.Nodup
    ∧ (∀ k, k ∈ (s.outlet o).waiting ↔ (s.story k).has o EntryState.waits = true)
    ∧ (∀ k, (s.outlet o).holder = some k ↔
        (s.story k).has o (fun x => decide (x = .carrying)) = true)
    ∧ (∀ i ∈ (s.outlet o).owed, (s.story i.slot).state ≠ .free)
    ∧ ((s.outlet o).owed.map (·.slot)).Nodup

/-- A table that passes the checks is well kept. -/
theorem table_ok {s : State} (h1 : ∀ k, storyCheck (s.story k)) (h2 : orderCheck s)
    (h3 : ∀ o, outletCheck s o) : s.TableOk := by
  obtain ⟨a, b, c, d⟩ := h2
  exact ⟨fun k => story_ok (h1 k), a, b,
    fun j k x y e => c j ((b j).2 x) k ((b k).2 y) e, d, fun o => by
      obtain ⟨p, q, r, x, y⟩ := h3 o
      exact ⟨p, q, r, x, y⟩⟩

/-- What FramersOk asks, as one decidable proposition. -/
abbrev framerCheck (s : State) : Prop :=
  (∀ (c : Fin 16) k, (framerOf (.circuit c) s).slot = some k → (s.story k).source = .circuit c
      ∧ fits (framerOf (.circuit c) s).state (s.story k).state = true)
    ∧ ∀ (t : Fin 8) k, (framerOf (.terminal t) s).slot = some k → (s.story k).source = .terminal t
      ∧ fits (framerOf (.terminal t) s).state (s.story k).state = true

/-- Framers that pass the check are well kept. -/
theorem framers_ok {s : State} (h : framerCheck s) : s.FramersOk
  | .circuit i, k, e => h.1 i k e
  | .terminal i, k, e => h.2 i k e

/-- The busy office is consistent, as the traffic's statements suppose. -/
theorem test_busy_consistent : busy.Consistent :=
  ⟨table_ok (by decide +kernel) (by decide +kernel) (by decide +kernel), framers_ok (by decide +kernel)⟩

theorem test_busy_registers : busy.RegistersOk ∧ busy.InterruptOk ∧ busy.PageZeroOk := by
  unfold State.RegistersOk State.InterruptOk State.PageZeroOk; decide +kernel

theorem test_busy_configs : busy.ConfigsOk ∧ busy.ControlsOk := by
  unfold State.ConfigsOk State.ControlsOk Control.RestOk Circuit.ConfigOk
  refine ⟨⟨fun c => ⟨?_, ?_⟩, ?_, ?_⟩, ?_⟩
  · exact (by decide +kernel : ∀ c, (busy.circuit c).config.valid = true) c
  · intro p hp
    rw [(by decide +kernel : ∀ c, (busy.circuit c).pendingConfig = none) c] at hp
    cases hp
  all_goals decide +kernel

theorem test_busy_queues : busy.QueuesOk ∧ busy.ParsersOk := by
  unfold State.QueuesOk State.ParsersOk Port.QueueOk; decide +kernel

theorem test_busy_outputs : busy.OutputsOk ∧ busy.StallTimersOk := by
  unfold State.OutputsOk State.StallTimersOk; decide +kernel

theorem test_busy_directory : busy.DirectoryOk := by
  have at_ : ∀ i d, busy.desk i = some d → (i = 0 ∧ busy.desk 0 = some d)
      ∨ (i = 3 ∧ busy.desk 3 = some d) := by
    intro i d h
    have e := (by decide +kernel : ∀ i : Fin 32, i ≠ 0 → i ≠ 3 → busy.desk i = none) i
    by_cases a : i = 0
    · exact Or.inl ⟨a, a ▸ h⟩
    · by_cases b : i = 3
      · exact Or.inr ⟨b, b ▸ h⟩
      · rw [e a b] at h; cases h
  have c0 : (busy.desk 0).map (fun d => (d.code, d.isDefault, d.fallback))
      = some (⟨office 'F', office 'N'⟩, false, none) := by decide +kernel
  have c3 : (busy.desk 3).map (fun d => (d.code, d.isDefault, d.fallback))
      = some (⟨office 'F', office 'L'⟩, false, none) := by decide +kernel
  have ne : (⟨office 'F', office 'N'⟩ : DeskCode) ≠ ⟨office 'F', office 'L'⟩ := by decide
  constructor
  · intro i j d e hi hj same
    rcases at_ i d hi with ⟨rfl, a⟩ | ⟨rfl, a⟩ <;> rcases at_ j e hj with ⟨rfl, b⟩ | ⟨rfl, b⟩ <;>
      simp_all
  · intro i j d e hi hj x y
    rcases at_ i d hi with ⟨rfl, a⟩ | ⟨rfl, a⟩ <;> simp_all
  · intro i d hi
    rcases at_ i d hi with ⟨rfl, a⟩ | ⟨rfl, a⟩ <;> simp_all

/-- The busy office once its outlets have reacted: outlet 4 still sends, and outlet 18 sends story 7's
header. -/
def atWork : State := settle busy

/-- What CalmOn asks of an outlet, as a check. -/
def calmCheck (s : State) (o : Fin 24) : Bool :=
  match (s.outlet o).state with
  | .off | .stalled => true
  | .idle => !s.hasWork o
  | .starting => (List.finRange 16).any (fun c =>
      decide (o = lineOutlet c) && decide ((s.control c).motor ≠ .running))
  | .sending => s.ownBusy o || (!s.unitOver o && s.lineBusy o
      && (if s.pauseCause o then (outletCircuit o).isSome else (s.outlet o).unit.isSome))
  | .paused => s.pauseCause o && !s.unitOver o

/-- An outlet that passes the check has nothing left to do. -/
theorem calm_ok {s : State} {o : Fin 24} (h : calmCheck s o = true) : s.CalmOn o := by
  unfold calmCheck at h
  unfold State.CalmOn
  split <;> try (simp_all [and_assoc]; done)
  cases p : s.pauseCause o <;> simp_all [and_assoc, ← outletCircuit_isSome_iff, Option.isSome_iff_ne_none]

/-- The premises of StepLeavesNoOutletWithWork hold together, and then no outlet reacts. -/
theorem test_at_work_calm : atWork.Consistent ∧ atWork.OutletsCalm
    ∧ allOutlets.find? atWork.stirs = none ∧ (atWork.outlet 18).state = .sending :=
  ⟨⟨table_ok (by decide +kernel) (by decide +kernel) (by decide +kernel),
      framers_ok (by decide +kernel)⟩,
    ⟨fun o => calm_ok ((by decide +kernel : ∀ o, calmCheck atWork o = true) o), by
      have h : ∀ t, ((atWork.outlet (terminalOutlet t)).unit.map (·.codes)).getD [] = [] := by
        decide +kernel
      intro t u e
      have := h t
      rwa [e] at this⟩,
    by decide +kernel, by decide +kernel⟩

/-- A queue of commands whose first one answers a next state: what the invariants' statements suppose. -/
theorem test_busy_steps : ∃ t, step (busy.withPending [.storyClockAdvance, .characterSent 4]) = .next t
    ∧ t.pending = [.characterSent 4] ∧ t.regs.clock = 1 := ⟨_, rfl, by decide +kernel, by decide +kernel⟩

/-! ## Ill-formed rows -/

theorem test_wellFormed_registerWrite : Instr.wellFormed (.registerWrite 99 0#16) = true
    ∧ Instr.wellFormed (.registerWrite 100 0#16) = false := by decide

theorem test_wellFormed_unknownCommand : Instr.wellFormed (.unknownCommand 0#16) = true
    ∧ Instr.wellFormed (.unknownCommand 27#16) = true
    ∧ Instr.wellFormed (.unknownCommand 1#16) = false
    ∧ Instr.wellFormed (.unknownCommand 26#16) = false := by decide

theorem test_wellFormed_surveyEdge : Instr.wellFormed (.surveyEdge 0 .mark 1 9) = true
    ∧ Instr.wellFormed (.surveyEdge 0 .mark 0 9) = false := by decide

theorem test_no_row_has_bits : decodeTableWord 16 0 = none
    ∧ busy.withFetchWord 16 0 = busy := ⟨rfl, rfl⟩

/-! ## The queue, resets, the register window -/

theorem test_empty_queue_idles : step State.reset = .next State.reset := rfl

theorem test_powerOnReset :
    (after busy .powerOnReset (fun t => decide (t.openOrder = [] ∧ t.nextNumber = 1
      ∧ (t.circuit 4).state = .closed ∧ (t.port 2).readyIn = .high ∧ t.desk 0 = none))
    && still State.reset .powerOnReset) = true := by decide +kernel

theorem test_trafficReset :
    (accepts busy .trafficReset (fun t => decide (t.openOrder = [] ∧ t.nextNumber = 12
      ∧ (t.circuit 4).state = .opened ∧ (t.outlet 4).holder = none ∧ (t.port 2).enabled = true
      ∧ (t.desk 0).isSome = true ∧ t.regs.resetCause = .traffic))
    && after busy (.controlWrite 1#16) (fun t => decide (t.openOrder = []))
    && after busy (.controlWrite 0xFFFF#16) (fun t => decide (t.openOrder = []))
    && still busy (.controlWrite 0#16) && still busy (.controlWrite 0xFFFE#16)) = true := by
  decide +kernel

theorem test_registerWrite :
    (after busy (.registerWrite 3 7#16) (fun t => decide (t.arg 0 = 7#16))
    && after busy (.registerWrite 10 7#16) (fun t => decide (t.arg 7 = 7#16))
    && still busy (.registerWrite 0 7#16) && still busy (.registerWrite 0x0B 7#16)
    && still busy (.registerWrite 0x0E 7#16) && still busy (.registerWrite 0x12 7#16)
    && still busy (.registerWrite 0x15 7#16) && still busy (.registerWrite 99 7#16)
    && after (asked [0, 0] busy) (.registerWrite 1 1#16) (fun t => decide (t.regs.result = .ok))
    && after busy (.registerWrite 1 26#16) (fun t => decide (t.regs.result = .ok))) = true := by
  decide +kernel

theorem test_registerWrite_outside :
    exec (.registerWrite 100 0#16) State.reset = .fault (.outsideWindow 100) := rfl

theorem test_unknownCommand :
    (after busy (.unknownCommand 0#16) (fun t => decide (t.regs.result = .unknownCommand))
    && after busy (.unknownCommand 27#16) (fun t => decide (t.regs.result = .unknownCommand
      ∧ t.regs.command = 27#16))
    && still busy (.unknownCommand 1#16) && still busy (.unknownCommand 26#16)) = true := by
  decide +kernel

theorem test_notices :
    let s := (busy.raise .slip).raise .storyOpened
    (after s (.noticeWrite 1#16) (fun t => decide (t.notices.flags = 0x80#11))
    && after s (.noticeEnableWrite 0x80#16) (fun t => decide (t.notices.interrupt = .high))
    && after s (.noticeEnableWrite 0x400#16) (fun t => decide (t.notices.interrupt = .low))) = true := by
  decide +kernel

theorem test_selectWrite :
    let s := busy.modRegs (fun r => { r with select := 0x1002#15, snapshot := [5#16] })
    (after s (.selectWrite 0x1102#16) (fun t => decide (t.regs.snapshot = [5#16]))
    && after s (.selectWrite 0x1003#16) (fun t => decide (t.regs.snapshot = []))
    && after s (.selectWrite 0x2002#16) (fun t => decide (t.regs.snapshot = []))) = true := by
  decide +kernel

theorem test_window0Read :
    let at_ := fun n : Nat =>
      busy.modRegs (fun r => { r with select := BitVec.ofNat 15 n, snapshot := [5#16] })
    (after (at_ 0x7000) .window0Read (fun t => decide (t.regs.readData = 0#16))
    && after (at_ 0x0003) .window0Read (fun t => decide ((t.story 3).changed = false
      ∧ t.regs.readData ≠ 0#16))
    && after (at_ 0x2004) .window0Read (fun t => decide ((t.circuit 4).slipFlag = false))
    && after (at_ 0x0103) .window0Read (fun t => decide (t.regs.snapshot = [5#16]))) = true := by
  decide +kernel

/-- A few words of the views of the busy office, the last of each section among them. -/
theorem test_views :
    let story := busy.viewOf (.story 0)
    let circuit := busy.viewOf (.circuit 4)
    let outlet := busy.viewOf (.outlet 4)
    (story.take 6 = [2#16, 7#16, 0xFFFF#16, 4#16, word (pair 'F' 'N'), word (pair 'F' 'N')]
      ∧ story[6]? = some (word (23 * 1444)) ∧ story[14]? = some 21#16 ∧ story.length = 128
      ∧ story[32]? = some (word (2048 * 4 + 256)) ∧ story[127]? = some 0xFFFF#16)
    ∧ (circuit.take 4 = [1#16, 0#16, 2#16, 24576#16] ∧ circuit.length = 128
      ∧ circuit[64]? = some 2#16)
    ∧ (outlet.take 3 = [3#16, 0#16, 1#16] ∧ outlet.length = 128)
    ∧ (busy.viewOf (.terminal 5)).take 5 = [1#16, 2#16, 0#16, 80#16, 1#16]
    ∧ (busy.viewOf (.desk 3)).take 3 = [1#16, word (pair 'F' 'L'), 0x0210#16]
    ∧ busy.viewOf (.story 47) = List.replicate 128 0#16
    ∧ (busy.viewOf .table).take 9 = [12#16, 30#16, 43#16, 5#16, 2#16, 0#16, 1#16, 3#16, 4#16]
    ∧ selected 0x6000#15 = some .table ∧ selected 0x6001#15 = none
    ∧ selected 0x102F#15 = none ∧ selected 0x002F#15 = some (.story 47) := by decide +kernel

/-! ## Clock, block limit, table commands -/

theorem test_clock :
    (accepts (asked [1, 20863] busy) .clockSet (fun t => decide (t.regs.clock = 86399))
    && refuses (asked [1, 20864] busy) .clockSet 24 .badArgument
    && accepts (asked [0, 0] busy) .clockSet (fun t => decide (t.regs.clock = 0))
    && after (busy.modRegs (fun r => { r with clock := 65537 })) .clockHiRead (fun t => decide
      (t.regs.capture = 65537 ∧ t.regs.readData = 1#16))) = true := by decide +kernel

theorem test_storyClockAdvance :
    let at_ := fun n : Nat => busy.modRegs (fun r => { r with clock := n })
    (after (at_ 86399) .storyClockAdvance (fun t => decide (t.regs.clock = 0
      ∧ (t.story 0).idleTimer = some 5))
    && after (at_ 86398) .storyClockAdvance (fun t => decide (t.regs.clock = 86399))) = true := by
  decide +kernel

theorem test_setBlockLimit :
    (refuses (asked [4] busy) .setBlockLimit 25 .badArgument
    && accepts (asked [5] busy) .setBlockLimit (fun t => decide (t.regs.blockLimit = 5))
    && accepts (asked [300] busy) .setBlockLimit (fun t => decide (t.regs.blockLimit = 300))
    && refuses (asked [301] busy) .setBlockLimit 25 .badArgument) = true := by decide +kernel

theorem test_nextChanged :
    let at_ := fun k : Fin 48 => State.reset.setStory k { changed := true }
    (accepts State.reset .nextChanged (fun t => decide (t.regs.rvals = { r1 := 0xFFFF#16 }))
    && accepts (at_ 0) .nextChanged (fun t => decide (t.regs.rvals = { r0 := 1#16 }))
    && accepts (at_ 47) .nextChanged
      (fun t => decide (t.regs.rvals = { r0 := 1#16, r1 := 47#16 }))) = true := by decide +kernel

theorem test_setNextNumber :
    (refuses (asked [0] busy) .setNextNumber 11 .badArgument
    && refuses (asked [10000] busy) .setNextNumber 11 .badArgument
    && refuses (asked [7] busy) .setNextNumber 11 .numberInUse
    && accepts (asked [1] busy) .setNextNumber (fun t => decide (t.nextNumber = 1))
    && accepts (asked [9999] busy) .setNextNumber (fun t => decide (t.nextNumber = 9999))) = true := by
  decide +kernel

theorem test_storyFind_slot_and_number :
    (refuses (asked [0, 48] busy) .storyFind 1 .badArgument
    && accepts (asked [0, 47] busy) .storyFind (fun t => decide
      (t.regs.rvals = { r0 := 47#16, r1 := 0xFFFF#16 }))
    && accepts (asked [0, 0] busy) .storyFind (fun t => decide
      (t.regs.rvals = { r0 := 0#16, r1 := 7#16, r2 := 2#16 }))
    && refuses (asked [1, 0] busy) .storyFind 1 .badArgument
    && refuses (asked [1, 10000] busy) .storyFind 1 .badArgument
    && refuses (asked [1, 1] busy) .storyFind 1 .noSuchStory
    && refuses (asked [1, 9999] busy) .storyFind 1 .noSuchStory
    && accepts (asked [1, 8] busy) .storyFind (fun t => decide
      (t.regs.rvals = { r0 := 1#16, r1 := 8#16, r2 := 3#16 }))
    && refuses (asked [3] busy) .storyFind 1 .badArgument) = true := by decide +kernel

/-- Two records carry the slug W; the latest in the open order is found. -/
theorem test_storyFind_slug :
    (refuses (asked [2, 0] busy) .storyFind 1 .badArgument
    && refuses (asked [2, 1444] busy) .storyFind 1 .noSuchStory
    && accepts (asked [2, 33212] busy) .storyFind (fun t => decide (t.regs.rvals.r0 = 0#16))) = true
    ∧ busy.openOrder = [2, 0, 1, 3, 4] := by decide +kernel

theorem test_retire :
    let owing := busy.modOutlet 4 (fun x => { x with owed := [⟨.cut, 2⟩] })
    (refuses (asked [48] busy) .retire 8 .badArgument
    && refuses (asked [0] busy) .retire 8 .badState
    && refuses (asked [47] busy) .retire 8 .badState
    && refuses (asked [2] owing) .retire 8 .noticePending
    && accepts (asked [2] busy) .retire (fun t => decide ((t.story 2).state = .free
      ∧ t.openOrder = [0, 1, 3, 4]))
    && accepts busy .retireClosed (fun t => decide (t.regs.rvals.r0 = 1#16
      ∧ (t.story 2).state = .free ∧ (t.story 0).state = .running))
    && accepts owing .retireClosed (fun t => decide (t.regs.rvals.r0 = 0#16))) = true := by
  decide +kernel

/-! ## Directory, pages, configurations -/

/-- A directory whose 32 positions are all taken. -/
def fullDirectory : State :=
  (List.finRange 32).foldl (fun s i => withDesk i (Char.ofNat (65 + i.val / 26))
    (Char.ofNat (65 + i.val % 26)) 1#24 .d s) State.reset

theorem test_deskWrite :
    (refuses (asked [pair 'F' '1', 1, 0, 4, 0, 0] busy) .deskWrite 12 .badArgument
    && refuses (asked [pair 'F' 'N', 1, 0, 5, 0, 0] busy) .deskWrite 12 .badArgument
    && refuses (asked [pair 'F' 'N', 1, 0, 4, pair 'F' 'N', 0] busy) .deskWrite 12 .badArgument
    && refuses (asked [pair 'Z' 'Z', 1, 0, 4, 0, 0] fullDirectory) .deskWrite 12 .tableFull
    && accepts (asked [pair 'F' 'N', 1, 2, 0, pair 'F' 'L', 0x0101] busy) .deskWrite (fun t => decide
      ((t.desk 0).map (fun d => (d.outlets, d.isDefault, d.echo)) = some (0x020001#24, true, true)))
    && accepts (asked [pair 'A' 'A', 1, 0, 4, 0, 0x0100] busy) .deskWrite (fun t => decide
      ((t.desk 1).map (·.isDefault) = some true ∧ (t.desk 0).map (·.isDefault) = some false))) = true := by
  decide +kernel

theorem test_deskRemove :
    (refuses (asked [0] busy) .deskRemove 13 .badArgument
    && refuses (asked [pair 'Q' 'Q'] busy) .deskRemove 13 .badState
    && accepts (asked [pair 'F' 'N'] busy) .deskRemove (fun t => decide (t.desk 0 = none))
    && accepts (asked [pair 'F' 'L'] busy) .deskRemove (fun t => decide (t.desk 3 = none))) = true := by
  decide +kernel

theorem test_pageWrite_refusals :
    let used := busy.modCircuit 4 (fun x => { x with config := { x.config with page := 2 } })
    (refuses (asked [4] busy) .pageWrite 23 .badArgument
    && refuses (asked [0, 0, 0, 1, 65] busy) .pageWrite 23 .pageFixed
    && refuses (asked [1, 4, 0, 1, 65] busy) .pageWrite 23 .badArgument
    && refuses (asked [1, 0, 0, 0, 65] busy) .pageWrite 23 .badArgument
    && refuses (asked [1, 0, 29, 4, 65, 65, 65, 65] busy) .pageWrite 23 .badArgument
    && refuses (asked [1, 0, 0, 1, 127] busy) .pageWrite 23 .badArgument
    && refuses (asked [1, 2, 0, 1, 32 + 27] busy) .pageWrite 23 .badArgument
    && refuses (asked [2, 0, 0, 1, 65] used) .pageWrite 23 .pageInUse) = true := by decide +kernel

theorem test_pageWrite :
    (accepts (asked [1, 0, 28, 4, 32, 126, 10, 133] busy) .pageWrite (fun t => decide
      ((t.page 1).rxLetters.get 28 = .char 32#7 ∧ (t.page 1).rxLetters.get 31 = .subst))
    && accepts (asked [3, 1, 0, 1, 128] busy) .pageWrite (fun t => decide
      ((t.page 3).rxFigures.get 0 = .planeLetters))
    && accepts (asked [1, 2, 127, 1, 127 - 1] busy) .pageWrite (fun t => decide
      ((t.page 1).send.get 127 = .code 30#5 .both))
    && accepts (asked [1, 3, 0, 1, 45] busy) .pageWrite (fun t => decide
      ((t.page 1).substitute = 45#7))) = true := by decide +kernel

/-- The words of a configuration for a circuit, in a section. -/
def configWords (c : Nat) : List Nat := [c, 0x2102, 24576, 0x0010, 69 * 256 + 8, 10 * 256 + 5, 120, 30]

/-- A draft of letters for circuit 4. -/
def drafted (length : Nat) (section2 : Bool) : State :=
  let d : Draft := { circuit := 4, length := length, chars := Vector.replicate 20 65#8, section2 := section2 }
  busy.modRegs (fun r => { r with draft := some d })

theorem test_circuitSet_sections :
    (refuses (asked [0x0304] busy) .circuitSet 14 .badArgument
    && refuses (asked [0x0304] busy) .circuitSetSection1 14 .badArgument
    && refuses (asked [0x0304] busy) .circuitSetSection2 14 .badArgument
    && still (asked [0x0204] busy) .circuitSetSection1 && still (asked [0x0004] busy) .circuitSetSection2
    && refuses (asked [0x0110, 0] busy) .circuitSetSection1 14 .badArgument
    && refuses (asked [0x0210, 0] busy) .circuitSetSection2 14 .badArgument
    && refuses (asked [0x0104, 21] busy) .circuitSetSection1 14 .badArgument
    && refuses (asked [0x0104, 1, 0x0700] busy) .circuitSetSection1 14 .badArgument
    && accepts (asked [0x0104, 0, 0x0700] busy) .circuitSetSection1 (fun t => decide
      (t.regs.draft.map (·.length) = some 0))
    && accepts (asked [0x0104, 12, 0x4142, 0x4142, 0x4142, 0x4142, 0x4142, 0x4142] busy)
      .circuitSetSection1 (fun t => decide (t.regs.draft.map (·.length) = some 12))
    && refuses (asked [0x0204, 0x0700] (drafted 20 false)) .circuitSetSection2 14 .badArgument
    && accepts (asked [0x0204, 0x4142, 0x4142, 0x4142, 0x4142] (drafted 20 false)) .circuitSetSection2 (fun t =>
      decide (t.regs.draft.map (·.section2) = some true))) = true := by decide +kernel

theorem test_circuitSet_submits :
    (refuses (asked (configWords 16) busy) .circuitSet 14 .badArgument
    && refuses (asked [4, 0x2102, 8191, 0x0010, 69 * 256, 10 * 256 + 5, 120, 30] busy) .circuitSet 14
      .badArgument
    && refuses (asked (configWords 4) (drafted 13 false)) .circuitSet 14 .badArgument
    && accepts (asked (configWords 4) (drafted 20 true)) .circuitSet (fun t => decide (t.regs.rvals.r0 = 2#16
      ∧ (t.circuit 4).pendingConfig.isSome = true ∧ t.regs.draft = none))
    && accepts (asked (configWords 15) busy) .circuitSet (fun t => decide (t.regs.rvals.r0 = 1#16
      ∧ (t.circuit 15).config.runOn = 30))
    && accepts (asked (configWords 9) office_) .circuitSet (fun t => decide (t.regs.rvals.r0 = 1#16
      ∧ (t.circuit 9).rxPhase = .hunting))
    && accepts (asked (configWords 8) (busy.modCircuit 8 (fun x => { x with state := .lost })))
      .circuitSet (fun t => decide ((t.circuit 8).restoreTimer = some 0))) = true := by decide +kernel

/-! ## Claims on stories -/

theorem test_storyKill :
    (refuses (asked [12] busy) .storyKill 2 .noSuchStory
    && refuses (asked [9] busy) .storyKill 2 .badState
    && accepts (asked [7] busy) .storyKill (fun t => decide ((t.story 0).state = .closed
      ∧ (t.story 0).reason = some .killed ∧ (t.framer 21).state = .discard
      ∧ (t.outlet 4).holder ≠ some 0 ∧ ⟨.kill, 0⟩ ∈ (t.outlet 4).owed
      ∧ (t.port 5).replySlot = some (text ['K', 'I', 'L', 'L', 'E', 'D', ' ', '0', '0', '0', '7'])))
    && accepts (asked [11] busy) .storyKill (fun t => decide ((t.story 4).state = .closed
      ∧ (t.circuit 4).counts.looseCopy = 4))) = true := by decide +kernel

theorem test_storyHold :
    (refuses (asked [12] busy) .storyHold 3 .noSuchStory
    && refuses (asked [10] busy) .storyHold 3 .notTerminalSource
    && refuses (asked [8] busy) .storyHold 3 .badState
    && accepts (asked [7] busy) .storyHold (fun t => decide ((t.story 0).state = .held
      ∧ (t.story 0).heldBy = some .host ∧ (t.story 0).idleTimer = none
      ∧ (t.story 0).entries.map (fun e => (e.state, e.holdMark))
        = [(.carrying, true), (.suspended .held, false)]))) = true := by decide +kernel

theorem test_storyRelease :
    let withdrawn := (busy.modFramer 18 (fun f => { f with withdrawn := true })).modPort 2
      (fun p => { p with queue := [65#7] })
    (refuses (asked [12] busy) .storyRelease 4 .noSuchStory
    && refuses (asked [7] busy) .storyRelease 4 .badState
    && accepts (asked [8] busy) .storyRelease (fun t => decide ((t.story 1).state = .running
      ∧ (t.story 1).entries.map (·.state) = [.waiting] ∧ (t.story 1).idleTimer = some 0))
    && accepts (asked [8] withdrawn) .storyRelease (fun t => decide ((t.port 2).queue = []
      ∧ (t.story 1).taken = 1))) = true := by decide +kernel

theorem test_storyPriority :
    (refuses (asked [7, 5] busy) .storyPriority 5 .badArgument
    && refuses (asked [12, 4] busy) .storyPriority 5 .noSuchStory
    && refuses (asked [9, 4] busy) .storyPriority 5 .badState
    && refuses (asked [11, 4] busy) .storyPriority 5 .badState
    && accepts (asked [7, 0] busy) .storyPriority (fun t => decide
      ((t.story 0).priority = some .f ∧ (t.story 0).changed = true))
    && accepts (asked [7, 4] busy) .storyPriority (fun t => decide ((t.story 0).priority = some .d))
    && accepts (asked [8, 4] busy) .storyPriority (fun t => decide
      ((t.story 1).changed = false))) = true := by decide +kernel

theorem test_storyAddOutlet :
    let fast := opened 6 (busy.modCircuit 9 (fun x => { x with config := { x.config with speedClass := 6 } }))
    (refuses (asked [7, 24] busy) .storyAddOutlet 6 .badArgument
    && refuses (asked [12, 9] busy) .storyAddOutlet 6 .noSuchStory
    && refuses (asked [9, 9] busy) .storyAddOutlet 6 .badState
    && refuses (asked [7, 4] busy) .storyAddOutlet 6 .duplicate
    && refuses (asked [7, 0] busy) .storyAddOutlet 6 .outletUnavailable
    && refuses (asked [10, 6] fast) .storyAddOutlet 6 .slowPath
    && accepts (asked [8, 21] busy) .storyAddOutlet (fun t => decide
      ((t.story 1).entries.map (fun e => (e.outlet, e.state))
        = [(4, .suspended .held), (21, .suspended .held)] ∧ (t.outlet 21).waiting = [1]))
    && accepts (asked [10, 9] busy) .storyAddOutlet (fun t => decide
      ((t.story 3).entries.map (·.outlet) = [4, 9]))) = true := by decide +kernel

theorem test_storyDropOutlet :
    (refuses (asked [7, 24] busy) .storyDropOutlet 7 .badArgument
    && refuses (asked [12, 4] busy) .storyDropOutlet 7 .noSuchStory
    && refuses (asked [7, 9] busy) .storyDropOutlet 7 .badState
    && refuses (asked [9, 9] busy) .storyDropOutlet 7 .badState
    && accepts (asked [7, 4] busy) .storyDropOutlet (fun t => decide
      ((t.story 0).entries.map (fun e => (e.state, e.lost)) = [(.cut .removed, 2), (.carrying, 0)]
      ∧ (t.outlet 4).holder ≠ some 0))
    && accepts (asked [7, 18] busy) .storyDropOutlet (fun t => decide
      ((t.outlet 18).waiting = []))) = true := by decide +kernel

/-- Circuit 9's flash story alone, waiting on outlet 4, both circuits with a configuration pending. -/
def awaiting : State :=
  let s := (placed 3 flash office_).modOutlet 4 (fun x => { x with waiting := [3] })
  let s := s.modFramer 9 (fun f => { f with state := .inStory, slot := some 3 })
  let pending := fun x : Circuit => { x with pendingConfig := some { x.config with runOn := 7 } }
  (s.modCircuit 4 pending).modCircuit 9 pending

/-- The run-ons of circuits 4 and 9. -/
def runOns (s : State) : Nat × Nat := ((s.circuit 4).config.runOn, (s.circuit 9).config.runOn)

/-- Circuit 9's story CLOSING, its closer the last thing on outlet 4's line. -/
def closerLeaving : State :=
  let s := awaiting.setStory 3 { flash with
    state := .closing, reason := some .closer, idleTimer := none
    entries := [{ entryOf 4 .carrying with owed := .none }] }
  let s := (s.modFramer 9 (fun _ => {})).modControl 4 (fun x => { x with motor := .running })
  (s.modOutlet 4 (fun x => { x with
    waiting := [], holder := some 3, state := .sending
    unit := some { kind := .notice (.closer 3), chars := [] } })).modCircuit 4
    (fun x => { x with sending := some (x.startChar 8#5 .unit) })

/-- A pending configuration is applied when the last story or entry ends: by a kill, by a drop, by DONE. -/
theorem test_quiet_point :
    (accepts (asked [10] awaiting) .storyKill (fun t => decide (runOns t = (7, 7)))
    && accepts (asked [10, 4] awaiting) .storyDropOutlet (fun t => decide (runOns t = (7, 30)))
    && after closerLeaving (.characterSent 4) (fun t => decide (runOns t = (7, 30)
      ∧ (t.story 3).state = .closed ∧ (t.story 3).entries.map (·.state) = [.done]
      ∧ (t.outlet 4).state = .idle ∧ (t.control 4).motor = .runOn))) = true := by decide +kernel

theorem test_quiet_point_tables : awaiting.Consistent ∧ closerLeaving.Consistent :=
  ⟨⟨table_ok (by decide +kernel) (by decide +kernel) (by decide +kernel),
      framers_ok (by decide +kernel)⟩,
    table_ok (by decide +kernel) (by decide +kernel) (by decide +kernel), framers_ok (by decide +kernel)⟩

/-! ## Circuits in and out of service, surveys -/

/-- A circuit out of service whose configuration no command can write. -/
def unset : State := State.reset.modCircuit 3 (fun x => { x with config := { x.config with runOn := 8192 } })

theorem test_circuitOpen :
    (refuses (asked [16] busy) .circuitOpen 15 .badArgument
    && refuses (asked [3] unset) .circuitOpen 15 .badArgument
    && refuses (asked [4] busy) .circuitOpen 15 .badState
    && accepts (asked [0] busy) .circuitOpen (fun t => decide ((t.circuit 0).state = .opened
      ∧ (t.circuit 0).rxPhase = .hunting ∧ (t.outlet 0).state = .idle))
    && accepts (asked [15] busy) .circuitOpen (fun t => decide ((t.circuit 15).state = .opened))) = true := by
  decide +kernel

/-- A circuit out of service with a survey running. -/
def surveyed (gate : SurveyGate) (edges pulse elapsed : Nat) (adopt : Bool) : State :=
  busy.modCircuit 3 (fun x => { x with
    survey := true
    surveyRec := { gate := gate, adopt := adopt, edges := edges, elapsed := elapsed,
                   shortestMark := pulse, shortestSpace := pulse } })

theorem test_circuitClose :
    (refuses (asked [16] busy) .circuitClose 16 .badArgument
    && accepts (asked [3] busy) .circuitClose (fun t => decide ((t.circuit 3).state = .closed))
    && accepts (asked [3] (surveyed .untimed 0 0 0 false)) .circuitClose (fun t => decide
      ((t.circuit 3).surveyRec.result = some .cancelled ∧ t.flagSet .surveyDone = true))
    && accepts (asked [4] busy) .circuitClose (fun t => decide ((t.circuit 4).state = .closed
      ∧ (t.story 4).reason = some .sourceLost ∧ (t.outlet 4).state = .off
      ∧ (t.story 0).entries.map (·.state) = [.cut .outletLost, .carrying]
      ∧ (t.control 4).motor = .off))
    && accepts (asked [9] busy) .circuitClose (fun t => decide ((t.story 3).state = .closed
      ∧ (t.story 3).entries.map (·.state) = [.cut .killed] ∧ ⟨.kill, 3⟩ ∈ (t.outlet 4).owed))) = true := by
  decide +kernel

theorem test_farBreak_loss_restore :
    let spacing := busy.modCircuit 9 (fun x => { x with rxLine := .low })
    let breaking := fun e : Nat => busy.modCircuit 9
      (fun x => { x with rxPhase := .farBreak, rxLine := .low, lossTimer := some e })
    let lost := fun e : Nat => State.reset.modCircuit 9
      (fun x => { x with state := .lost, restoreTimer := some e })
    (after spacing (.farBreakBegins 9) (fun t => decide ((t.circuit 9).rxPhase = .farBreak
      ∧ (t.circuit 9).lossTimer = some 0 ∧ (t.circuit 9).counts.farBreaks = 1))
    && still busy (.farBreakBegins 9)
    && still (breaking 9) (.circuitLost 9)
    && after (breaking 10) (.circuitLost 9) (fun t => decide ((t.circuit 9).state = .lost
      ∧ (t.outlet 9).state = .off ∧ t.flagSet .circuitLost = true
      ∧ (t.story 3).reason = some .sourceLost))
    && still (lost 4) (.circuitRestored 9)
    && after (lost 5) (.circuitRestored 9) (fun t => decide ((t.circuit 9).state = .opened
      ∧ (t.outlet 9).state = .idle))) = true := by decide +kernel

theorem test_surveyStart :
    (refuses (asked [16, 0] busy) .surveyStart 17 .badArgument
    && refuses (asked [15, 4] busy) .surveyStart 17 .badArgument
    && refuses (asked [3, 0] (surveyed .untimed 0 0 0 false)) .surveyStart 17 .badState
    && refuses (asked [4, 0] busy) .surveyStart 17 .circuitBusy
    && accepts (asked [15, 3, 1] busy) .surveyStart (fun t => decide ((t.circuit 15).survey = true
      ∧ (t.circuit 15).surveyRec.adopt = true ∧ (t.circuit 15).surveyRec.gate = .untimed))
    && accepts (asked [4, 0, 0] office_) .surveyStart (fun t => decide
      ((t.circuit 4).rxPhase = .idle ∧ (t.circuit 4).surveyRec.adopt = false))) = true := by
  decide +kernel

theorem test_survey_ends :
    (refuses (asked [16] busy) .surveyStop 18 .badArgument
    && refuses (asked [3] busy) .surveyStop 18 .badState
    && refuses (asked [16] busy) .surveyCancel 19 .badArgument
    && refuses (asked [3] busy) .surveyCancel 19 .badState
    && accepts (asked [3] (surveyed .untimed 7 20000 0 false)) .surveyStop (fun t => decide
      ((t.circuit 3).surveyRec.result = some .noSignal ∧ (t.circuit 3).survey = false))
    && accepts (asked [3] (surveyed .untimed 8 40000 0 false)) .surveyStop (fun t => decide
      ((t.circuit 3).surveyRec.result = some .noMatch))
    && accepts (asked [3] (surveyed .untimed 8 22000 0 true)) .surveyStop (fun t => decide
      ((t.circuit 3).surveyRec.result.isSome = true ∧ (t.circuit 3).surveyRec.adopted = true))
    && accepts (asked [3] (surveyed .untimed 8 22000 0 true)) .surveyCancel (fun t => decide
      ((t.circuit 3).surveyRec.result = some .cancelled))
    && still (surveyed .fourSeconds 0 65535 3 false) (.surveyGateExpiry 3)
    && after (surveyed .fourSeconds 0 65535 4 false) (.surveyGateExpiry 3) (fun t => decide
      (t.flagSet .surveyDone = true))
    && still (surveyed .untimed 0 65535 65535 false) (.surveyGateExpiry 3)) = true := by decide +kernel

/-- A circuit that leaves service takes its own pending configuration and brings another to its quiet point;
one closed under a survey is back in letters. -/
theorem test_leaving_service :
    let due := awaiting.modCircuit 9 (fun x => { x with
      lossTimer := some 10, pendingConfig := some { x.config with polarity := .markLow, runOn := 7 } })
    let under := office_.modCircuit 9 (fun x => { x with
      survey := true, rxPlane := .figures, rxPhase := .idle })
    (accepts (asked [9] awaiting) .circuitClose (fun t => decide (runOns t = (7, 7)
      ∧ (t.circuit 9).pendingConfig = none ∧ (t.story 3).reason = some .sourceLost))
    && after due (.circuitLost 9) (fun t => decide (runOns t = (7, 7)
      ∧ (t.circuit 9).state = .lost ∧ (t.circuit 9).restoreTimer = none))
    && accepts (asked [9] under) .circuitClose (fun t => decide ((t.circuit 9).rxPlane = .letters
      ∧ (t.circuit 9).state = .closed ∧ (t.circuit 9).surveyRec.result = some .cancelled))) = true := by
  decide +kernel

/-- A class matches within 6 % of its unit interval, that included, and the lowest class wins a tie; the
class adopted goes into the configuration pending, in place at the quiet point, or becomes pending. -/
theorem test_survey_classes :
    let result := fun (s : State) (y : SurveyResult) => accepts (asked [3] s) .surveyStop (fun t =>
      decide ((t.circuit 3).surveyRec.result = some y))
    let adopts := fun (f : State → State) (p : Circuit → Bool) =>
      accepts (asked [3] (f (surveyed .untimed 8 12288 0 true))) .surveyStop (fun t => p (t.circuit 3))
    (result (surveyed .untimed 8 20301 0 false) (.speedClass 3)
    && result (surveyed .untimed 8 20300 0 false) .noMatch
    && result (surveyed .untimed 8 24576 0 false) (.speedClass 2)
    && result (surveyed .untimed 7 24576 0 false) .noSignal
    && adopts id (fun x => decide (x.config.speedClass = 6 ∧ x.pendingConfig = none))
    && adopts (fun s => s.modCircuit 3 (fun x => { x with
        pendingConfig := some { x.config with runOn := 7 } })) (fun x => decide
      (x.config.speedClass = 2 ∧ x.pendingConfig.map (fun c => (c.speedClass, c.runOn)) = some (6, 7)))
    && adopts (fun s => s.setStory 4 { opening with source := .circuit 3 }) (fun x => decide
      (x.config.speedClass = 2 ∧ x.pendingConfig.map (·.speedClass) = some 6))) = true := by
  decide +kernel

/-! ## Receiving and sending on a circuit -/

/-- Circuit 9 with its receiver in a phase and its line at a level. -/
def receiving (ph : RxPhase) (l : Level) : State :=
  office_.modCircuit 9 (fun x => { x with rxPhase := ph, rxLine := l })

/-- The edges of a character whose units 1 to 6 read as given: one at each boundary where they change. -/
def edgesOf (n : Nat) (units : List Signal) : List LineEdge :=
  (List.range units.length).filterMap (fun i =>
    let before := if i = 0 then .space else units[i - 1]?.getD .space
    let here := units[i]?.getD .space
    if here = before then none else some ⟨here, (i + 1) * n⟩)

/-- Circuit 9 at the stop sample of a character whose units 1 to 6 are marks where a letter is M. -/
def heard (units : String) : State :=
  (receiving .inCharacter .low).modCircuit 9 (fun x => { x with
    edges := edgesOf x.config.n (units.toList.map (fun u => if u = 'M' then .mark else .space)) })

theorem test_line_edges :
    let lost := office_.modCircuit 9 (fun x => { x with state := .lost, rxPhase := .idle })
    let lostLow := lost.modCircuit 9 (fun x => { x with rxLine := .low, restoreTimer := none })
    let counting := (receiving .farBreak .low).modCircuit 9 (fun x => { x with lossTimer := some 3 })
    let allSpace := (receiving .hunting .low).modCircuit 9 (fun x => { x with allSpace := true })
    let glitch := fun accepted : Nat => (receiving .inCharacter .low).modCircuit 9
      (fun x => { x with edges := [⟨.mark, accepted - x.config.filterWidth⟩] })
    (after office_ (.lineStartEdge 9 99999) (fun t => decide ((t.circuit 9).rxPhase = .inCharacter
      ∧ (t.circuit 9).rxLine = .low))
    && still office_ (.lineStartEdge 9 0) && still (receiving .hunting .low) (.lineStartEdge 9 99999)
    && after lost (.lostSpaceEdge 9 99999) (fun t => decide ((t.circuit 9).restoreTimer = none))
    && after lostLow (.lostMarkEdge 9 99999) (fun t => decide ((t.circuit 9).restoreTimer = some 0))
    && after counting (.farBreakEnds 9 99999) (fun t => decide ((t.circuit 9).rxPhase = .hunting
      ∧ (t.circuit 9).lossTimer = none))
    && after allSpace (.allSpaceEnded 9 99999) (fun t => decide ((t.circuit 9).allSpace = false
      ∧ (t.circuit 9).counts.framingErrors = 1))
    && still office_ (.allSpaceEnded 9 99999)
    && after (glitch 12288) (.lineFalseStart 9) (fun t => decide
      ((t.circuit 9).rxPhase = .hunting ∧ (t.circuit 9).edges = [] ∧ (t.circuit 9).rxLine = .low))
    && still (glitch 12289) (.lineFalseStart 9) && still (receiving .inCharacter .low) (.lineFalseStart 9)
    && still office_ (.lineFalseStart 9)) = true := by decide +kernel

/-- An edge is on time within three tenths of a unit of a boundary, those included, and one whose filter
width ends after the stop sample is not the character's. -/
theorem test_edge_inside_character :
    let n := office_.circuit 9 |>.config.n
    let w := office_.circuit 9 |>.config.filterWidth
    let s := receiving .inCharacter .low
    (after s (.edgeInsideCharacter 9 .mark (n + 3 * n / 10) 99999) (fun t => decide
      ((t.circuit 9).slipFlag = false ∧ (t.circuit 9).rxLine = .high
      ∧ (t.circuit 9).edges = [⟨.mark, n + 3 * n / 10⟩]))
    && after s (.edgeInsideCharacter 9 .mark (n + 3 * n / 10 + 1) 99999) (fun t => decide
      ((t.circuit 9).counts.lateSlips = 1 ∧ t.flagSet .slip = true))
    && after s (.edgeInsideCharacter 9 .mark (n - 3 * n / 10 - 1) 99999) (fun t => decide
      ((t.circuit 9).counts.earlySlips = 1))
    && after s (.edgeInsideCharacter 9 .mark (n / 2) 99999) (fun t => decide
      ((t.circuit 9).slipFlag = false ∧ (t.circuit 9).edges.length = 1))
    && after s (.edgeInsideCharacter 9 .mark (13 * n / 2 - w) 99999) (fun t => decide
      ((t.circuit 9).edges.length = 1))
    && still s (.edgeInsideCharacter 9 .mark (13 * n / 2 - w + 1) 99999)
    && still s (.edgeInsideCharacter 9 .space n 99999)
    && still s (.edgeInsideCharacter 9 .mark n 0)) = true := by decide +kernel

/-- An edge dated up to the stop sample and accepted after it is judged, and acts as one outside a
character. -/
theorem test_edge_accepted_after_the_stop_sample :
    let n := office_.circuit 9 |>.config.n
    let w := office_.circuit 9 |>.config.filterWidth
    let s := (receiving .hunting .high).modCircuit 9 (fun x => { x with afterStop := true })
    (after s (.edgeInsideCharacter 9 .space (13 * n / 2) 99999) (fun t => decide
      ((t.circuit 9).counts.lateSlips = 1 ∧ (t.circuit 9).rxPhase = .inCharacter
      ∧ (t.circuit 9).afterStop = false))
    && after s (.edgeInsideCharacter 9 .space (13 * n / 2 - w + 1) 99999) (fun t => decide
      ((t.circuit 9).rxPhase = .inCharacter))
    && still s (.edgeInsideCharacter 9 .space (13 * n / 2 - w) 99999)
    && still s (.edgeInsideCharacter 9 .space (13 * n / 2 + 1) 99999)
    && still (receiving .hunting .high) (.edgeInsideCharacter 9 .space (13 * n / 2) 99999)) = true := by
  decide +kernel

theorem test_surveyEdge :
    let s := surveyed .untimed 0 65535 0 false
    let t1 := ran (.surveyEdge 3 .space 9 99999) s
    (after s (.surveyEdge 3 .space 1 99999) (fun t => decide ((t.circuit 3).surveyRec.edges = 1
      ∧ (t.circuit 3).surveyRec.shortestMark = 65535))
    && after t1 (.surveyEdge 3 .mark 70 99999) (fun t => decide
      ((t.circuit 3).surveyRec.shortestSpace = 70 ∧ (t.circuit 3).surveyRec.shortestMark = 65535))
    && still s (.surveyEdge 3 .space 0 99999) && still s (.surveyEdge 3 .mark 9 99999)
    && still busy (.surveyEdge 3 .space 9 99999)) = true := by decide +kernel

theorem test_characterReceived :
    let figures := fun u => (heard u).modCircuit 9 (fun x => { x with rxPlane := .figures })
    (still office_ (.characterReceived 9 0#5 .space)
    && still (heard "SSSSSS") (.characterReceived 9 1#5 .space)
    && still (heard "SSSSSS") (.characterReceived 9 0#5 .mark)
    && after (heard "MMSMMM") (.characterReceived 9 27#5 .mark) (fun t => decide
      ((t.circuit 9).rxPlane = .figures ∧ (t.circuit 9).counts.received = 1
      ∧ (t.circuit 9).rxPhase = .hunting ∧ (t.circuit 9).edges = [] ∧ (t.circuit 9).afterStop = true))
    && after (figures "MMMMMM") (.characterReceived 9 31#5 .mark) (fun t => decide
      ((t.circuit 9).rxPlane = .letters))
    && after (heard "MMSSSM") (.characterReceived 9 3#5 .mark) (fun t => decide
      ((t.circuit 9).counts.looseCopy = 1))
    && after ((figures "MSSMSM").modCircuit 9
        (fun x => { x with config := { x.config with answerback := [cr] } }))
      (.characterReceived 9 9#5 .mark) (fun t => decide ((t.outlet 9).state = .starting))
    && after (heard "SSSSSS") (.characterReceived 9 0#5 .space) (fun t => decide
      ((t.circuit 9).allSpace = true ∧ (t.circuit 9).counts.framingErrors = 0))
    && after (heard "MSSSSS") (.characterReceived 9 1#5 .space) (fun t => decide
      ((t.circuit 9).counts.framingErrors = 1 ∧ (t.circuit 9).counts.looseCopy = 1))) = true := by
  decide +kernel

theorem test_characterSent_timeFill :
    let owing := office_.modControl 9 (fun x => { x with fillOwed := true })
    (still office_ (.characterSent 9)
    && after busy (.characterSent 4) (fun t => decide ((t.circuit 4).counts.sent = 1))
    && still office_ (.timeFill 9)
    && after owing (.timeFill 9) (fun t => decide
      ((t.circuit 9).sending = some ((office_.circuit 9).startChar 31#5 .fill) ∧ (t.control 9).fillOwed = false))
    && still (owing.modCircuit 9 (fun x => { x with sending := some (x.startChar 1#5 .orphan) })) (.timeFill 9)) = true := by
  decide +kernel

/-- Circuit 9's break counting. -/
def breaking : State := office_.modControl 9 (fun x => { x with
  phase := .counting, settings := { x.settings with use := .lineBreak, max := 5 } })

/-- What a circuit's send output drives: mark, a break's space, mark again when CLOSED, and a character by
the interval, stop and polarity it started at. -/
theorem test_line_drive :
    let sends := breaking.modCircuit 9 (fun x => { x with
      sending := some { x.startChar 1#5 .unit with n := 3, polarity := .markLow } })
    office_.lineDrive 9 = .steady .high ∧ breaking.lineDrive 9 = .steady .low
      ∧ (breaking.modCircuit 9 (fun x => { x with state := .lost })).lineDrive 9 = .steady .low
      ∧ (breaking.modCircuit 9 (fun x => { x with state := .closed })).lineDrive 9 = .steady .high
      ∧ sends.lineDrive 9 = .elements
        [(.high, 3), (.low, 3), (.high, 3), (.high, 3), (.high, 3), (.high, 3), (.low, 4)] := by
  decide +kernel

/-- What a terminal's send output drives: C, three marks among its bits, under each parity. -/
theorem test_terminal_drive :
    let sends := fun p : Parity => (office_.modPort 5 (fun x => { x with
      sending := some { x.startChar (office 'C') with parity := p, speed := .baud9600 } })).terminalDrive 5
    let data : List Signal := [.mark, .mark, .space, .space, .space, .space, .mark]
    let bits := fun l : List Signal => Drive.elements (l.map (fun e => (e, 128)))
    office_.terminalDrive 5 = .steady .mark
      ∧ sends .even = bits (.space :: data ++ [.mark, .mark])
      ∧ sends .odd = bits (.space :: data ++ [.space, .mark])
      ∧ sends .off = bits (.space :: data ++ [.mark]) := by decide +kernel

/-! ## Control units -/

/-- The words of a counter action on circuit 9: use WAVE, two toggles, max and delay. -/
def counterWords (a use max delay : Nat) : List Nat :=
  [9 * 256 + a, use * 4096 + 2, max, delay, 0, 3]

/-- Circuit 9's counter in a phase at a value. -/
def counter (ph : CounterPhase) (a : CounterAction) (value max delay : Nat) (use : CounterUse) : State :=
  office_.modControl 9 (fun x => { x with
    phase := ph, action := a, value := value,
    settings := { x.settings with max := max, delay := delay, use := use, toggles := [0, 3] } })

theorem test_counterAction_starts :
    (refuses (asked [9 * 256 + 8] office_) .counterActionOnce 20 .badArgument
    && still (asked (counterWords 2 0 5 0) office_) .counterActionOnce
    && refuses (asked [16 * 256 + 1, 0, 1] office_) .counterActionOnce 20 .badArgument
    && refuses (asked (counterWords 1 0 0 0) office_) .counterActionOnce 20 .badArgument
    && refuses (asked (counterWords 1 3 5 0) office_) .counterActionOnce 20 .badArgument
    && refuses (asked (counterWords 1 0 5 0) (counter .holding .hold 0 5 0 .wave)) .counterActionOnce 20
      .badState
    && refuses (asked [3 * 256 + 1, 0, 1] office_) .counterActionOnce 20 .badState
    && accepts (asked [3 * 256, 0, 1] office_) .counterActionIdle (fun t => decide
      ((t.control 3).settings.max = 1 ∧ (t.control 3).phase = .idle))
    && accepts (asked (counterWords 1 0 8191 0) office_) .counterActionOnce (fun t => decide
      ((t.control 9).phase = .counting ∧ (t.control 9).wave = .high))
    && accepts (asked (counterWords 2 0 5 0) office_) .counterActionRepeat (fun t => decide
      ((t.control 9).action = .repeated))
    && accepts (asked (counterWords 3 0 5 0) office_) .counterActionDelayedOnce (fun t => decide
      ((t.control 9).phase = .counting))
    && accepts (asked (counterWords 3 0 5 1) office_) .counterActionDelayedOnce (fun t => decide
      ((t.control 9).phase = .delay))
    && accepts (asked (counterWords 4 0 5 1) office_) .counterActionDelayedRepeat (fun t => decide
      ((t.control 9).phase = .delay ∧ (t.control 9).firstPass = true))) = true := by decide +kernel

theorem test_counterAction_ends :
    (accepts (asked (counterWords 5 0 5 0) office_) .counterActionHold (fun t => decide
      ((t.control 9).phase = .holding ∧ (t.control 9).wave = .low))
    && refuses (asked [9 * 256 + 6] office_) .counterActionRelease 20 .badState
    && accepts (asked [9 * 256 + 6] (counter .holding .hold 0 5 0 .wave)) .counterActionRelease
      (fun t => decide ((t.control 9).phase = .idle))
    && accepts (asked [9 * 256 + 7] (counter .counting .once 2 5 0 .wave)) .counterActionForceIdle
      (fun t => decide ((t.control 9).phase = .idle ∧ (t.control 9).value = 0))) = true := by decide +kernel

theorem test_outputSet :
    (refuses (asked [16, 0, 0, 0, 0, 0, 0, 0] office_) .outputSet 21 .badArgument
    && refuses (asked [9, 2, 0, 0, 0, 0, 0, 0] office_) .outputSet 21 .badArgument
    && refuses (asked [9, 0, 7, 0, 0, 0, 0, 0] office_) .outputSet 21 .badArgument
    && accepts (asked [9, 0, 6, 6, 1, 1, 1, 1] office_) .outputSet (fun t => decide
      ((t.control 9).motorOut = .high ∧ (t.control 9).motorSel.ff = .high))
    && accepts (asked [9, 1, 6, 6, 1, 1, 1, 1] office_) .outputSet (fun t => decide
      ((t.control 9).signalOut = .high))) = true := by decide +kernel

theorem test_character_times :
    let motor := fun (m : MotorState) (n target : Nat) => office_.modControl 9 (fun x => { x with
      motor := m, motorCount := n, motorTarget := target })
    (after (motor .starting 7 8) (.motorLeadComplete 9) (fun t => decide
      ((t.control 9).motor = .runOn ∨ (t.control 9).motor = .running))
    && still (motor .starting 6 8) (.motorLeadComplete 9)
    && after (motor .runOn 29 30) (.runOnComplete 9) (fun t => decide ((t.control 9).motor = .off
      ∧ (t.control 9).motorTarget = 0))
    && still (motor .runOn 28 30) (.runOnComplete 9)
    && after (motor .starting 0 8) (.characterTimeCompleted 9 .motor) (fun t => decide
      ((t.control 9).motorCount = 1))
    && after (counter .delay .delayedOnce 1 5 2 .wave) (.delayComplete 9) (fun t => decide
      ((t.control 9).phase = .counting))
    && still (counter .delay .delayedOnce 0 5 2 .wave) (.delayComplete 9)
    && after (counter .counting .once 4 5 0 .fill) (.countComplete 9) (fun t => decide
      ((t.control 9).phase = .idle ∧ (t.control 9).fillOwed = true))
    && after (counter .counting .repeated 4 5 0 .wave) (.countComplete 9) (fun t => decide
      ((t.control 9).phase = .counting ∧ (t.control 9).value = 0))
    && still (counter .counting .once 3 5 0 .wave) (.countComplete 9)
    && after (counter .counting .once 2 5 0 .wave) (.counterToggle 9) (fun t => decide
      ((t.control 9).wave = .high))
    && still (counter .counting .once 3 5 0 .wave) (.counterToggle 9)
    && after (counter .counting .once 3 5 0 .wave) (.characterTimeCompleted 9 .both) (fun t => decide
      ((t.control 9).value = 4))) = true := by decide +kernel

theorem test_toggles_in_effect : togglesInEffect [0, 3, 3, 9] = [0, 3]
    ∧ togglesInEffect [5, 1] = [5] ∧ togglesInEffect [] = [] := by decide

/-! ## Terminals -/

/-- The words of TERMINAL_SET. -/
def portWords (t enable : Nat) : List Nat := [t, 2, 0, 80, 1, 60, 300, enable]

theorem test_terminalSet :
    (refuses (asked (portWords 8 1) busy) .terminalSetEnable 22 .badArgument
    && refuses (asked [0, 2, 0, 19, 1, 60, 300, 1] busy) .terminalSetEnable 22 .badArgument
    && refuses (asked [0, 2, 0, 80, 1, 60, 300, 2] busy) .terminalSetDisable 22 .badArgument
    && accepts (asked (portWords 7 1) busy) .terminalSetEnable (fun t => decide
      ((t.port 7).enabled = true ∧ (t.outlet 23).state = .paused))
    && still (asked (portWords 7 1) busy) .terminalSetReconfigure
    && still (asked (portWords 7 1) busy) .terminalSetDisable
    && still (asked (portWords 5 1) busy) .terminalSetEnable
    && accepts (asked [5, 5, 0, 80, 1, 60, 300, 1] busy) .terminalSetReconfigure (fun t => decide
      ((t.port 5).config.speed = .baud9600 ∧ (t.story 0).state = .running))
    && accepts (asked (portWords 5 0) busy) .terminalSetDisable (fun t => decide
      ((t.port 5).enabled = false ∧ (t.story 0).reason = some .sourceLost
      ∧ (t.outlet 21).state = .off ∧ (t.framer 21).slot = none))
    && accepts (asked (portWords 2 0) busy) .terminalSetDisable (fun t => decide
      ((t.story 0).entries.map (·.state) = [.carrying, .cut .outletLost]))
    && accepts (asked (portWords 0 0) busy) .terminalSetDisable (fun t => decide
      ((t.port 0).config.authority = .desk))) = true := by decide +kernel

theorem test_terminal_edges :
    let s := office_.modPort 5 (fun p => { p with rxPhase := .inCharacter, rxMark := false })
    let w := office_.modPort 5 (fun p => { p with rxPhase := .waitMark, rxMark := false })
    (after office_ (.terminalStartEdge 5) (fun t => decide ((t.port 5).rxPhase = .inCharacter))
    && still s (.terminalStartEdge 5)
    && after s (.terminalFalseStart 5) (fun t => decide ((t.port 5).rxPhase = .hunting))
    && still w (.terminalFalseStart 5)
    && after w (.terminalMarkReturn 5) (fun t => decide ((t.port 5).rxPhase = .hunting))
    && after s (.terminalMarkReturn 5) (fun t => decide ((t.port 5).rxPhase = .inCharacter
      ∧ (t.port 5).rxMark = true))) = true := by decide +kernel

/-- A port reconfigured or reset inside a character hunts at once where its input reads mark, and waits for
mark where it reads space. -/
theorem test_terminal_input_inside_a_character :
    let inside := busy.modPort 5 (fun p => { p with rxPhase := .inCharacter, rxMark := false })
    let marked := ran (.terminalMarkReturn 5) inside
    (accepts (asked (portWords 5 1) inside) .terminalSetReconfigure
      (fun t => decide ((t.port 5).rxPhase = .waitMark))
    && accepts (asked (portWords 5 1) marked) .terminalSetReconfigure
      (fun t => decide ((t.port 5).rxPhase = .hunting))
    && accepts inside .trafficReset (fun t => decide ((t.port 5).rxPhase = .waitMark))
    && accepts marked .trafficReset (fun t => decide ((t.port 5).rxPhase = .hunting))) = true := by
  decide +kernel

/-- Terminal 5 with a character on its line, and its queue, mode and buffer as given. -/
def typing (queue : List Office) (mode : Bool) (buffer : List Office) : State :=
  (office_.modPort 5 (fun p => { p with
    rxPhase := .inCharacter, rxMark := false, queue := queue, requestMode := mode,
    readyOut := if queue.length < 12 then .high else .low })).modParser 5
    (fun p => { p with buffer := buffer })

/-- A character with its even parity bit. -/
def good (t : Fin 8) (ch : Office) : Instr :=
  .terminalCharacterReceived t ch (parityError .even ch false) .mark

theorem test_terminalCharacterReceived_sorted :
    let after_ := (typing [] false []).modPort 5 (fun p => { p with afterRequest := true })
    (still office_ (good 5 65#7)
    && after (typing [] false []) (good 5 1#7) (fun t => decide ((t.port 5).counts.dropped = 1))
    && after after_ (good 5 lf) (fun t => decide ((t.port 5).queue = []
      ∧ (t.port 5).afterRequest = false))
    && after after_ (good 5 65#7) (fun t => decide ((t.port 5).queue = [65#7]
      ∧ (t.port 5).afterRequest = false))
    && after (typing [] false []) (good 5 lead) (fun t => decide ((t.port 5).requestMode = true
      ∧ (t.parser 5).buffer = [lead]))
    && after (typing [] true []) (good 5 65#7) (fun t => decide ((t.parser 5).buffer = [65#7]))
    && after (typing [] true (List.replicate 32 65#7)) (good 5 65#7) (fun t => decide
      ((t.parser 5).overflow = true))
    && after (typing [] true [lead, 76#7]) (good 5 cr) (fun t => decide
      ((t.port 5).requestMode = false ∧ (t.port 5).afterRequest = true
      ∧ (t.port 5).replySlot.isSome = true))) = true := by decide +kernel

theorem test_terminalCharacterReceived_queued :
    (after (typing (List.replicate 11 65#7) false []) (good 5 66#7) (fun t => decide
      ((t.port 5).queue.length = 12 ∧ (t.port 5).readyOut = .low))
    && after (typing (List.replicate 15 65#7) false []) (good 5 66#7) (fun t => decide
      ((t.port 5).queue.length = 16))
    && after (typing (List.replicate 16 65#7) false []) (good 5 66#7) (fun t => decide
      ((t.port 5).queue.length = 16 ∧ (t.port 5).counts.overruns = 1
      ∧ t.flagSet .terminalOverrun = true))
    && after (typing [] false []) (.terminalCharacterReceived 5 65#7 true .mark) (fun t => decide
      ((t.port 5).queue = [query] ∧ (t.port 5).counts.parityErrors = 1))
    && after (typing [] false []) (.terminalCharacterReceived 5 65#7 false .space) (fun t => decide
      ((t.port 5).queue = [query] ∧ (t.port 5).rxPhase = .waitMark))) = true := by decide +kernel

/-- The busy office with characters in terminal 5's queue, its story's entry on outlet 4 so far behind that
the window is full. -/
def full (queue : List Office) (read : Nat) : State :=
  (busy.modPort 5 (fun p => { p with queue := queue })).setStory 0 { running with
    taken := 128 + read, window := List.replicate 128 65#7
    entries := [{ outlet := 4, state := .carrying, start := 0, read := read, delivered := read,
                  owed := .none }] }

theorem test_framerTake :
    (still office_ (.framerTake 5)
    && after (busy.modPort 5 (fun p => { p with queue := [65#7] })) (.framerTake 5) (fun t => decide
      ((t.story 0).taken = 4 ∧ (t.port 5).queue = []))
    && after (office_.modPort 5 (fun p => { p with queue := [78#7] })) (.framerTake 5) (fun t => decide
      ((t.framer 21).state = .openerMatch ∧ (t.port 5).queue = []))
    && after (full [65#7] 1) (.framerTake 5) (fun t => decide
      ((t.framer 21).outstanding = some [65#7] ∧ (t.story 0).blockedSince = some 0
      ∧ (t.port 5).queue = [65#7] ∧ (t.story 0).blockTimer = some 0))
    && after (full [69#7] 1) (.framerTake 5) (fun t => decide
      ((t.framer 21).state = .closerMatch ∧ (t.port 5).queue = []))
    && after (busy.modPort 2 (fun p => { p with queue := [65#7] })) (.framerTake 2) (fun t => decide
      ((t.port 2).queue = [65#7]))) = true := by decide +kernel

/-- The busy office's story 7 with 130 characters taken, its entry on outlet 4 so far read, and terminal 5's
framer holding back an E. -/
def nearlyFull (queue held : List Office) (read : Nat) : State :=
  ((full queue 2).setStory 0 { running with
    taken := 130, window := List.replicate 128 65#7
    entries := [{ outlet := 4, state := .carrying, start := 0, read := read, delivered := read,
                  owed := .none }] }).modFramer 21 (fun f =>
    if held = [] then f else { f with state := .closerMatch, origin := some .inStory, holdBack := held })

/-- A write is taken when it just fits the window, and one more character is refused; a closer that fails is
written with what was held back. -/
theorem test_framerTake_just_fits :
    let e := [office 'E']
    (after (nearlyFull [65#7] [] 3) (.framerTake 5) (fun t => decide ((t.story 0).taken = 131))
    && after (nearlyFull [65#7] [] 2) (.framerTake 5) (fun t => decide ((t.story 0).taken = 130
      ∧ (t.framer 21).outstanding = some [65#7]))
    && after (nearlyFull [65#7] e 4) (.framerTake 5) (fun t => decide ((t.story 0).taken = 132
      ∧ (t.framer 21).state = .inStory))
    && after (nearlyFull [65#7] e 3) (.framerTake 5) (fun t => decide ((t.story 0).taken = 130
      ∧ (t.framer 21).outstanding = some (e ++ [65#7]) ∧ (t.framer 21).holdBack = e))) = true := by
  decide +kernel

/-- Terminal 2's outlet PAUSED with its stall timer running. -/
def stalling (e : Nat) : State :=
  (busy.modOutlet 18 (fun x => { x with state := .paused, stallTimer := some e })).modPort 2
    (fun p => { p with readyIn := .low, readyPin := .low })

theorem test_ready_and_stall :
    (after busy (.readyInFalls 2) (fun t => decide ((t.outlet 18).state = .paused
      ∧ (t.outlet 18).stallTimer = some 0))
    && after busy (.readyInFalls 0) (fun t => decide ((t.port 0).readyIn = .low))
    && after busy (.readyInRises 0) (fun t => decide ((t.port 0).readyPin = .high
      ∧ (t.port 0).readyIn = .low))
    && after (stalling 0) (.readyInRises 2) (fun t => decide ((t.outlet 18).state = .sending
      ∧ (t.outlet 18).stallTimer = none))
    && still (stalling 59) (.stall 2)
    && after (stalling 60) (.stall 2) (fun t => decide ((t.outlet 18).state = .stalled
      ∧ (t.outlet 18).stalls = 1 ∧ (t.outlet 18).waiting = [] ∧ t.flagSet .destCut = true
      ∧ (t.story 0).entries.map (·.state) = [.carrying, .cut .stall]))
    && after (ran (.stall 2) (stalling 60)) (.readyInRises 2) (fun t => decide
      ((t.outlet 18).state = .idle))) = true := by decide +kernel

theorem test_terminalCharacterSent :
    (still office_ (.terminalCharacterSent 5)
    && after (office_.modPort 5 (fun p => { p with sending := some (p.startChar 65#7) }))
      (.terminalCharacterSent 5) (fun t => decide ((t.port 5).counts.sent = 1
      ∧ (t.port 5).sending = none))) = true := by decide +kernel

/-! ## Desk requests -/

/-- The busy office with a terminal about to take the CR of a request line. -/
def asking (t : Fin 8) (line : List Char) : State :=
  (busy.modPort t (fun p => { p with rxPhase := .inCharacter, rxMark := false, requestMode := true })).modParser
    t (fun p => { p with buffer := lead :: text line })

/-- The reply slot of a terminal holds a line. -/
def replied (t : Fin 8) (line : List Char) (s : State) : Bool :=
  decide ((s.port t).replySlot = some (text line))

/-- Terminal 5's authority as given. -/
def asRank (a : Authority) (s : State) : State :=
  s.modPort 5 (fun p => { p with config := { p.config with authority := a } })

theorem test_request_forms :
    let p := fun (l : List Char) => parseRequest { buffer := lead :: text l }
    p ['S', ' ', '0', '0', '0', '0'] = none ∧ p ['S', ' ', '1'] = some (.statusNumber 1)
      ∧ p ['H', ' ', '9', '9', '9', '9'] = some (.hold 9999) ∧ p ['G', ' ', '7'] = some (.release 7)
      ∧ p ['K', ' ', '7'] = some (.kill 7) ∧ p ['J', ' ', '7'] = some (.join 7)
      ∧ p ['X', ' ', '7'] = some (.leave 7) ∧ p ['L'] = some .list
      ∧ p ['P', ' ', '7', ' ', 'F'] = some (.priority 7 .f)
      ∧ p ['P', ' ', '7', ' ', 'D'] = some (.priority 7 .d) ∧ p ['P', ' ', '7', ' ', 'E'] = none
      ∧ p ['S', ' ', '1', '2', '3', '4', '5'] = some (.statusSlug (text ['1', '2', '3', '4', '5']))
      ∧ p ['S', ' ', 'W'] = some (.statusSlug [office 'W']) ∧ p ['S', ' ', ' ', '1'] = none
      ∧ parseRequest { buffer := [lead, office 'L'], overflow := true } = none := by decide +kernel

theorem test_noForm_requestBusy :
    let full := (asking 5 ['L']).modPort 5 (fun p => { p with replySlot := some [65#7] })
    (after (asking 5 ['Q']) (.noForm 5) (replied 5 ['N', 'O', ' ', 'F', 'O', 'R', 'M'])
    && still (asking 5 ['L']) (.noForm 5) && still busy (.noForm 5)
    && after full (.requestBusy 5) (fun t => decide ((t.port 5).counts.requestBusy = 1
      ∧ (t.parser 5).buffer = []))
    && still (asking 5 ['L']) (.requestBusy 5)
    && still full (.lRequest 5)) = true := by decide +kernel

theorem test_s_and_l_requests :
    (after (asking 5 ['S', ' ', '8']) (.sRequest 5) (replied 5 ['S', 'T', 'A', 'T', 'U', 'S', ' ', '0', '0',
      '0', '8', ' ', 'D', ' ', 'F', 'N', ' ', 'X', ' ', 'H', 'E', 'L', 'D', ' ', '0', ' ', '0'])
    && after (asking 5 ['S', ' ', '9', '9']) (.sRequest 5) (replied 5 ['N', 'O', ' ', 'S', 'T', 'O', 'R', 'Y'])
    && after (asking 5 ['S', ' ', 'Y']) (.sRequest 5) (fun t => decide ((t.port 5).replySlot.isSome = true))
    && after (asking 5 ['S', ' ', 'Q']) (.sRequest 5) (replied 5 ['N', 'O', ' ', 'S', 'T', 'O', 'R', 'Y'])
    && after (asking 5 ['L']) (.lRequest 5) (replied 5 ['L', 'I', 'S', 'T', ' ', 'N', 'O', 'N', 'E'])
    && after (asking 2 ['L']) (.lRequest 2) (replied 2 ['L', 'I', 'S', 'T', ' ', '0', '0', '0', '7'])
    && still (asking 5 ['L']) (.sRequest 5)) = true := by decide +kernel

theorem test_h_and_g_requests :
    (after (asRank .view (asking 5 ['H', ' ', '7'])) (.hRequest 5) (replied 5 ['N', 'O', ' ', 'A', 'U', 'T', 'H'])
    && after (asking 5 ['H', ' ', '9', '9']) (.hRequest 5) (replied 5 ['N', 'O', ' ', 'S', 'T', 'O', 'R', 'Y'])
    && after (asking 5 ['H', ' ', '8']) (.hRequest 5) (replied 5 ['N', 'O', ' ', 'S', 'O', 'U', 'R', 'C', 'E'])
    && after (asking 2 ['H', ' ', '8']) (.hRequest 2) (replied 2 ['N', 'O', ' ', 'S', 'T', 'A', 'T', 'E'])
    && after (asking 5 ['H', ' ', '7']) (.hRequest 5) (fun t => replied 5 ['O', 'K', ' ', '0', '0', '0', '7'] t
      && decide ((t.story 0).heldBy = some (.terminal 5) ∧ t.flagSet .deskRequest = true))
    && after (asking 5 ['G', ' ', '8']) (.gRequest 5) (replied 5 ['N', 'O', ' ', 'S', 'O', 'U', 'R', 'C', 'E'])
    && after (asking 5 ['G', ' ', '7']) (.gRequest 5) (replied 5 ['N', 'O', ' ', 'S', 'T', 'A', 'T', 'E'])
    && after (asking 2 ['G', ' ', '8']) (.gRequest 2) (fun t => decide ((t.story 1).state = .running))) = true := by
  decide +kernel

theorem test_k_and_p_requests :
    (after (asking 5 ['K', ' ', '8']) (.kRequest 5) (replied 5 ['N', 'O', ' ', 'S', 'O', 'U', 'R', 'C', 'E'])
    && after (asking 2 ['K', ' ', '9']) (.kRequest 2) (replied 2 ['N', 'O', ' ', 'S', 'T', 'A', 'T', 'E'])
    && after (asking 5 ['K', ' ', '7']) (.kRequest 5) (fun t => replied 5 ['O', 'K', ' ', '0', '0', '0', '7'] t
      && decide ((t.story 0).reason = some .killed))
    && after (asking 2 ['K', ' ', '7']) (.kRequest 2) (fun t => decide ((t.story 0).reason = some .killed
      ∧ (t.port 5).replySlot.isSome = true))
    && after (asking 5 ['P', ' ', '7', ' ', 'F']) (.pRequest 5) (replied 5 ['N', 'O', ' ', 'A', 'U', 'T', 'H'])
    && after (asking 2 ['P', ' ', '9', ' ', 'F']) (.pRequest 2) (replied 2 ['N', 'O', ' ', 'S', 'T', 'A', 'T', 'E'])
    && after (asking 2 ['P', ' ', '7', ' ', 'R']) (.pRequest 2) (fun t => decide
      (t.flagSet .deskRequest = false ∧ (t.port 2).replySlot.isSome = true))
    && after (asking 2 ['P', ' ', '7', ' ', 'F']) (.pRequest 2) (fun t => decide
      (t.flagSet .deskRequest = true ∧ (t.story 0).priority = some .f))) = true := by decide +kernel

theorem test_j_and_x_requests :
    let shut := (asking 2 ['J', ' ', '8']).modOutlet 18 (fun x => { x with state := .stalled })
    (after (asking 5 ['J', ' ', '9']) (.jRequest 5) (replied 5 ['N', 'O', ' ', 'S', 'T', 'A', 'T', 'E'])
    && after (asking 2 ['J', ' ', '7']) (.jRequest 2) (replied 2 ['N', 'O', ' ', 'R', 'O', 'U', 'T', 'E'])
    && after shut (.jRequest 2) (replied 2 ['N', 'O', ' ', 'R', 'O', 'U', 'T', 'E'])
    && after (asking 5 ['J', ' ', '7']) (.jRequest 5) (fun t => decide
      ((t.story 0).entries.map (·.outlet) = [4, 18, 21]))
    && after (asking 2 ['X', ' ', '9']) (.xRequest 2) (replied 2 ['N', 'O', ' ', 'S', 'T', 'A', 'T', 'E'])
    && after (asking 5 ['X', ' ', '7']) (.xRequest 5) (replied 5 ['N', 'O', ' ', 'R', 'O', 'U', 'T', 'E'])
    && after (asking 2 ['X', ' ', '7']) (.xRequest 2) (fun t => decide
      ((t.story 0).entries.map (·.state) = [.carrying, .cut .removed]))
    && after ((asking 2 ['X', ' ', '7']).setStory 0 { running with
        entries := [{ entryOf 18 .done with owed := .none }] }) (.xRequest 2)
      (replied 2 ['N', 'O', ' ', 'S', 'T', 'A', 'T', 'E'])) = true := by decide +kernel

/-! ## Stories in time -/

/-- A story of the busy office whose idle timer has run. -/
def idling (k : Fin 48) (e : Nat) : State := busy.setStory k { busy.story k with idleTimer := some e }

theorem test_idleExpiry :
    (still (idling 0 299) (.idleExpiry 0)
    && after (idling 0 300) (.idleExpiry 0) (fun t => decide ((t.story 0).state = .closing
      ∧ (t.story 0).reason = some .idleEnd ∧ (t.framer 21).state = .idle))
    && still (idling 4 119) (.idleExpiry 4)
    && after (idling 4 120) (.idleExpiry 4) (fun t => decide ((t.story 4).reason = some .headerFault
      ∧ (t.framer 4).state = .discard ∧ t.flagSet .storyRejected = true))
    && after (idling 2 900) (.idleExpiry 2) (fun t => decide ((t.story 2).state = .closed))) = true := by
  decide +kernel

/-- Silence while a closer is matched: what was held back is written, or loose copy where a terminal's
window lacks the room. -/
theorem test_idleExpiry_held_back :
    let e := [office 'E']
    let waited := fun s : State => s.setStory 0 { s.story 0 with idleTimer := some 300 }
    (after (waited (nearlyFull [] e 3)) (.idleExpiry 0) (fun t => decide ((t.story 0).taken = 131
      ∧ (t.story 0).reason = some .idleEnd ∧ (t.framer 21).state = .idle
      ∧ (t.port 5).counts.looseCopy = 0))
    && after (waited (nearlyFull [] e 2)) (.idleExpiry 0) (fun t => decide ((t.story 0).taken = 130
      ∧ (t.story 0).reason = some .idleEnd ∧ (t.framer 21).holdBack = []
      ∧ (t.port 5).counts.looseCopy = 1))) = true := by decide +kernel

/-- A write of terminal 5 outstanding, its block timer as given. -/
def blocked (e : Nat) (chs : Option (List Office)) : State :=
  let s := full [65#7] 1
  (s.setStory 0 { s.story 0 with blockedSince := some 0, blockTimer := some e }).modFramer 21
    (fun f => { f with outstanding := chs })

theorem test_blockLimitExpiry :
    (still (blocked 29 (some [65#7])) (.blockLimitExpiry 0)
    && after (blocked 30 (some [65#7])) (.blockLimitExpiry 0) (fun t => decide
      ((t.story 0).entries.map (·.state) = [.cut .blockLimit] ∧ t.flagSet .destCut = true
      ∧ (t.story 0).taken = 130 ∧ (t.framer 21).outstanding = none))
    && after (blocked 30 none) (.blockLimitExpiry 0) (fun t => decide
      ((t.story 0).entries.map (·.state) = [.carrying]))) = true := by decide +kernel

/-! ## Opening, headers, text -/

/-- Terminal 5's framer with three letters of an opener. -/
def halfOpened (s : State) : State :=
  s.modFramer 21 (fun f => { f with state := .openerMatch, origin := some .idle, slot := none,
                                    holdBack := text ['N', 'R', 'N'], lineStart := false })

/-- A table with every record taken: slot 0 CLOSED, the others HEADER. -/
def fullTable (owed : Bool) : State :=
  let s := (List.finRange 48).foldl (fun s k => placed k
    (if k = 0 then { state := .closed, number := 1, reason := some .killed, closed := some 0 }
     else { state := .header, number := k.val + 1, source := .circuit 0, idleTimer := some 0 }) s)
    (halfOpened office_)
  if owed then s.modOutlet 4 (fun x => { x with owed := [⟨.kill, 0⟩] }) else s

theorem test_openers :
    let a := takeChar (.terminal 5) (office 'R') (halfOpened busy)
    let b := takeChar (.terminal 5) (office 'R') (fullTable false)
    let c := takeChar (.terminal 5) (office 'R') (fullTable true)
    ((a.story 5).state = .header ∧ (a.story 5).number = 12 ∧ (a.framer 21).slot = some 5)
    ∧ ((b.story 0).state = .header ∧ (b.story 0).number = 1 ∧ b.openOrder.getLast? = some 0)
    ∧ ((c.framer 21).state = .discard ∧ c.flagSet .tableFull = true
      ∧ (c.port 5).counts.refusedOpens = 1 ∧ (c.port 5).counts.looseCopy = 4) := by decide +kernel

/-- Circuit 9's framer with no story, in a state. -/
def storyless (f : Framer → Framer) : State := office_.modFramer 9 f

/-- What a character makes of circuit 9's framer and of its loose copy. -/
def becomes (s : State) (ch : Office) (p : Framer → Bool) (loose : Nat) : Bool :=
  let t := takeChar (.circuit 9) ch s
  p (t.framer 9) && decide ((t.circuit 9).counts.looseCopy = loose)

theorem test_copy_outside_a_story :
    let idle := storyless id
    let ended := storyless (fun f => { f with lineEnd := true })
    let inTail := storyless (fun f => { f with tail := true, lineStart := false })
    let discard := storyless (fun f => { f with state := .discard })
    let opening := storyless (fun f => { f with
      state := .openerMatch, origin := some .discard, holdBack := text ['N', 'R'], lineStart := false })
    let closing := fun held : List Char => storyless (fun f => { f with
      state := .closerMatch, origin := some .discard, holdBack := text held, lineStart := false })
    (becomes idle 65#7 (fun f => decide (f.state = .idle ∧ f.lineStart = false)) 1
    && becomes idle (office 'N') (fun f => decide (f.state = .openerMatch ∧ f.holdBack = [office 'N'])) 0
    && becomes ended lf (fun f => decide (f.state = .idle ∧ f.lineEnd = false)) 0
    && becomes ended 65#7 (fun f => decide (f.lineEnd = false)) 1
    && becomes inTail 65#7 (fun f => f.tail) 0
    && becomes inTail cr (fun f => decide (f.tail = false ∧ f.lineEnd = true)) 0
    && becomes discard (office 'E') (fun f => decide (f.state = .closerMatch)) 0
    && becomes discard 65#7 (fun f => decide (f.state = .discard)) 1
    && becomes opening (office 'N') (fun f => decide (f.holdBack = text ['N', 'R', 'N'])) 0
    && becomes opening 65#7 (fun f => decide (f.state = .discard ∧ f.holdBack = [])) 3
    && becomes (closing ['E', 'N', 'E']) (office 'N') (fun f => decide (f.state = .idle ∧ f.tail = true)) 4
    && becomes (closing ['E', 'N']) (office 'N') (fun f => decide (f.state = .discard)) 3) = true := by
  decide +kernel

/-- The full tables are well kept, as the opener's statement supposes. -/
theorem test_openers_tables : (fullTable true).TableOk ∧ (fullTable false).TableOk :=
  ⟨table_ok (by decide +kernel) (by decide +kernel) (by decide +kernel), table_ok (by decide +kernel) (by decide +kernel) (by decide +kernel)⟩

/-- Circuit 4's header line, its directory with a default. -/
def headed (line : List Char) : State :=
  (busy.modFramer 4 (fun f => { f with header := opener ++ text line })).setDesk 9 (some
    { code := ⟨office 'G', office 'G'⟩, outlets := 0x000200#24, floor := .r,
      fallback := some ⟨office 'F', office 'L'⟩, isDefault := true, echo := false })

theorem test_headers_consistent : (headed [' ', 'D', ' ', 'G', 'G', ' ', 'W']).Consistent :=
  ⟨table_ok (by decide +kernel) (by decide +kernel) (by decide +kernel), framers_ok (by decide +kernel)⟩

theorem test_headers_routed :
    let a := takeChar (.circuit 4) cr (headed [' ', 'R', ' ', 'F', 'N', ' ', 'W'])
    let b := takeChar (.circuit 4) lf (headed [' ', 'R', ' ', 'Z', 'Z', ' ', 'W'])
    let c := takeChar (.circuit 4) cr (headed [' ', 'D', ' ', 'G', 'G', ' ', 'W'])
    ((a.story 4).state = .running ∧ (a.story 4).entries.map (·.outlet) = [18] ∧ (a.framer 4).state = .inStory
      ∧ (a.framer 4).lineEnd = true ∧ (a.desk 0).map (·.routed) = some 1)
    ∧ ((b.story 4).state = .running ∧ (b.story 4).entries.map (·.outlet) = [9]
      ∧ (b.story 4).routedDesk = some ⟨office 'G', office 'G'⟩)
    ∧ ((c.story 4).routedDesk = some ⟨office 'F', office 'L'⟩
      ∧ (c.desk 3).map (·.routed) = some 1) := by decide +kernel

/-- The forms a header line may take, at the ends of its ranges, and lines that are of none. -/
theorem test_header_forms :
    let reads := fun l : List Char => (parseHeader (opener ++ text l)).map
      (fun h => (h.origin, h.priority, h.slug.length, h.correction))
    let slug := List.replicate 20 'Z'
    reads [' ', 'D', ' ', 'F', 'N', ' ', '-'] = some (none, .d, 1, none)
    ∧ reads ([' ', '9', '9', '9', '9', ' ', 'F', ' ', 'F', 'N', ' '] ++ slug
        ++ [' ', 'C', ' ', '0', '0', '0', '1']) = some (some 9999, .f, 20, some 1)
    ∧ reads ([' ', 'D', ' ', 'F', 'N', ' '] ++ slug ++ ['Z']) = none
    ∧ reads [' ', '0', '0', '0', '0', ' ', 'D', ' ', 'F', 'N', ' ', 'W'] = none
    ∧ reads [' ', 'D', ' ', 'F', 'N', ' ', 'W', ' ', 'C', ' ', '7'] = none
    ∧ reads [' ', 'D', ' ', 'F', 'N', ' '] = none ∧ reads [' ', 'D', ' ', 'F', '1', ' ', 'W'] = none
    ∧ reads ['D', ' ', 'F', 'N', ' ', 'W'] = none := by decide +kernel

/-- A correction takes the outlets of the story it names and no desk's; a header holds 40 characters. -/
theorem test_headers_corrected_and_too_long :
    let a := takeChar (.circuit 4) cr (headed [' ', 'R', ' ', 'Z', 'Z', ' ', 'W', ' ', 'C', ' ', '0', '0', '0', '7'])
    let b := takeChar (.circuit 4) 65#7 (headed (List.replicate 35 'A'))
    let c := takeChar (.circuit 4) 65#7 (headed (List.replicate 36 'A'))
    ((a.story 4).state = .running ∧ (a.story 4).entries.map (·.outlet) = [18]
      ∧ (a.story 4).correctionOf = some 7 ∧ (a.story 4).routedDesk = some ⟨office 'F', office 'N'⟩
      ∧ (a.desk 0).map (·.routed) = some 0)
    ∧ ((b.framer 4).header.length = 40 ∧ (b.story 4).state = .header)
    ∧ ((c.story 4).reason = some .headerFault ∧ (c.circuit 4).counts.looseCopy = 1) := by decide +kernel

theorem test_headers_closed :
    let bare := fun s : State => s.setDesk 9 none
    let a := takeChar (.circuit 4) cr (headed [' ', 'R', 'F', 'N'])
    let b := takeChar (.circuit 4) cr (bare (headed [' ', 'R', ' ', 'Z', 'Z', ' ', 'W']))
    let c := takeChar (.circuit 4) cr ((headed [' ', 'D', ' ', 'G', 'G', ' ', 'W']).setDesk 3 none)
    let d := takeChar (.circuit 4) cr ((headed [' ', 'R', ' ', 'G', 'G', ' ', 'W']).modOutlet 9
      (fun x => { x with state := .off }))
    (a.story 4).reason = some .headerFault ∧ (b.story 4).reason = some .unknownDesk
      ∧ (c.story 4).reason = some .noRoute ∧ (d.story 4).reason = some .noOutlet
      ∧ (d.framer 4).state = .discard ∧ (d.framer 4).slot = none := by decide +kernel

/-- Circuit 9's story lapped: outlet 4's entry is a full window behind. -/
def lapping (taken : Nat) : State :=
  busy.setStory 3 { flash with
    taken := taken, window := List.replicate 128 65#7,
    entries := [{ entryOf 4 .waiting with read := taken - 128, delivered := taken - 128 }] }

theorem test_text_consistent : (lapping 128).Consistent ∧ (lapping 65534).Consistent :=
  ⟨⟨table_ok (by decide +kernel) (by decide +kernel) (by decide +kernel), framers_ok (by decide +kernel)⟩,
    table_ok (by decide +kernel) (by decide +kernel) (by decide +kernel), framers_ok (by decide +kernel)⟩

theorem test_text_written :
    let a := takeChar (.circuit 9) (office 'A') busy
    let b := takeChar (.circuit 9) cr (lapping 128)
    let c := takeChar (.circuit 9) (office 'A') (lapping 65534)
    ((a.story 3).taken = 1 ∧ (a.story 3).window = [office 'A'] ∧ (a.framer 9).lineStart = false)
    ∧ ((b.story 3).taken = 129 ∧ (b.story 3).lines = 1 ∧ (b.story 3).window.length = 128
      ∧ (b.story 3).entries.map (fun e => (e.state, e.lost)) = [(.cut .lapped, 128)]
      ∧ b.flagSet .destCut = true)
    ∧ ((c.story 3).reason = some .tooLong ∧ (c.story 3).state = .closed ∧ (c.framer 9).state = .idle) := by
  decide +kernel

/-- The busy office with circuit 9's framer matching a closer, its story so long. -/
def closing (held : List Char) (taken : Nat) : State :=
  (busy.setStory 3 { flash with
    taken := taken, window := List.replicate (min taken 128) 65#7,
    entries := [{ entryOf 4 .waiting with read := taken, delivered := taken }] }).modFramer 9 (fun f =>
    { f with state := .closerMatch, origin := some .inStory, holdBack := text held, lineStart := false })

theorem test_closers_consistent : (closing ['E', 'N', 'E'] 65533).Consistent :=
  ⟨table_ok (by decide +kernel) (by decide +kernel) (by decide +kernel), framers_ok (by decide +kernel)⟩

/-- A closer completes, with the tail of its line to come; one that fails is written; and at 65535 what is
left of the write is loose copy. -/
theorem test_closers :
    let a := takeChar (.circuit 9) (office 'N') (closing ['E', 'N', 'E'] 4)
    let b := takeChar (.circuit 9) (office 'A') (closing ['E', 'N', 'E'] 4)
    let c := takeChar (.circuit 9) (office 'A') (closing ['E', 'N', 'E'] 65533)
    let d := takeChar (.circuit 9) (office 'N') (closing ['E'] 4)
    ((a.story 3).state = .closing ∧ (a.story 3).reason = some .closer ∧ (a.story 3).taken = 4
      ∧ (a.framer 9).tail = true ∧ (a.framer 9).slot = none)
    ∧ ((b.story 3).taken = 8 ∧ (b.story 3).window = List.replicate 4 65#7 ++ text ['E', 'N', 'E', 'A']
      ∧ (b.framer 9).state = .inStory)
    ∧ ((c.story 3).taken = 65535 ∧ (c.story 3).reason = some .tooLong ∧ (c.framer 9).state = .idle
      ∧ (c.circuit 9).counts.looseCopy = 2)
    ∧ (d.framer 9).holdBack = text ['E', 'N'] := by decide +kernel

/-- An E at a line start, and the LF of a line end, are not written at once. -/
theorem test_text_not_written :
    let a := takeChar (.circuit 9) (office 'E') busy
    let b := takeChar (.circuit 9) lf (busy.modFramer 9 (fun f => { f with lineEnd := true }))
    (a.story 3).taken = 0 ∧ (a.framer 9).state = .closerMatch ∧ (b.story 3).taken = 0 := by
  decide +kernel

/-! ## Outlets -/

theorem test_arbitration :
    let a := arbitrate 4 busy
    let b := arbitrate 18 busy
    let c := arbitrate 4 (busy.setStory 3 { flash with priority := some .u })
    ((a.outlet 4).holder = some 3 ∧ (a.outlet 4).waiting = [1, 0]
      ∧ (a.outlet 4).owed = [⟨.breakIn, 0⟩]
      ∧ (a.story 0).entries.map (fun e => (e.state, e.owed))
        = [(.suspended .preempted, .resume), (.waiting, .header)])
    ∧ ((b.outlet 18).holder = some 0 ∧ (b.outlet 18).waiting = [])
    ∧ (c.outlet 4).holder = some 0 ∧ (arbitrate 9 busy).openOrder = busy.openOrder := by decide +kernel

/-- The holder of outlet 4, its story and the outlet as given. -/
def boundary (st : Story) (f : Outlet → Outlet) : State :=
  (((busy.setStory 0 st).setStory 3 { flash with priority := some .u }).modOutlet 4
    (fun x => f { x with unit := none })).modOutlet 18
    (fun x => { x with waiting := if st.liveOn 18 then [0] else [] })

/-- The characters of the unit that a boundary of outlet 4 begins. -/
def begins (s : State) : Option (List Office) := ((takeBoundary 4 s).outlet 4).unit.map (·.chars)

/-- The story 7 with its entry on outlet 4 as given. -/
def carried (e : Entry) (st : StoryState) : Story :=
  { running with state := st, entries := [e] }

/-- A carried entry on outlet 4, so far read and owing a notice. -/
def on4 (read : Nat) (n : EntryNotice) : Entry :=
  { outlet := 4, state := .carrying, start := 0, read := read, delivered := read, owed := n }

theorem test_boundary_order :
    (begins (boundary running (fun x => { x with answerbackOwed := true })) = some [])
    ∧ (begins (boundary running (fun x => { x with owed := [⟨.cut, 2⟩, ⟨.kill, 1⟩] })) = some (text
      ['\r', '\n', 'C', 'U', 'T', ' ', '0', '0', '0', '9', '\r', '\n']))
    ∧ (begins (boundary (carried (on4 0 .resume) .running) id) = some (text
      ['\r', '\n', 'R', 'E', 'S', 'U', 'M', 'E', ' ', '0', '0', '0', '7', ' ', 'W', '\r', '\n']))
    ∧ (begins (boundary (carried (on4 2 .none) .running) id) = some [office 'C'])
    ∧ (begins (boundary (carried (on4 2 .none) .running) (fun x => { x with column := 69 }))
        = some [cr, lf, office 'C'])
    ∧ (begins (boundary (carried (on4 3 .none) .closing) id) = some (text
      ['\r', '\n', 'E', 'N', 'E', 'N', ' ', '0', '0', '0', '7', '\r', '\n']))
    ∧ (begins (boundary (carried (on4 3 .none) .running) id) = none) := by decide +kernel

theorem test_boundary_notices :
    let head := ['\r', '\n', 'N', 'R', 'N', 'R', ' ', '0', '0', '0', '7', ' ', 'R', ' ', 'F', 'N', ' ', 'W']
    (begins (boundary (carried (on4 0 .header) .running) id) = some (text (head ++ ['\r', '\n'])))
    ∧ (begins (boundary (carried (on4 0 .joined) .running) id)
        = some (text (head ++ [' ', 'J', 'O', 'I', 'N', 'E', 'D', '\r', '\n'])))
    ∧ ((takeBoundary 4 busy).outlet 4).unit.map (·.chars) = some (text
      ['\r', '\n', 'B', 'R', 'E', 'A', 'K', ' ', 'I', 'N', ' ', '0', '0', '0', '7', '\r', '\n'])
    ∧ ((takeBoundary 18 (busy.modPort 2 (fun p => { p with replySlot := some [65#7] }))).outlet 18).unit.map
      (·.chars) = some [cr, lf, 65#7, cr, lf] := by decide +kernel

/-- The HELD story 7, its hold-marked entry caught up. -/
def caughtUp : Story :=
  { carried { on4 3 .none with holdMark := true } .held with idleTimer := none, heldBy := some .host }

theorem test_boundary_holds :
    let v := suspendCaughtUp 4 (boundary caughtUp id)
    (v.outlet 4).holder = none ∧ (v.outlet 4).waiting = [1, 3, 0] ∧ (v.outlet 4).owed = [⟨.held, 0⟩]
      ∧ (v.story 0).entries.map (·.state) = [.suspended .held] := by decide +kernel

/-- The boundaries of these tests are of well kept tables. -/
theorem test_boundary_tables : (boundary caughtUp id).TableOk
    ∧ (boundary running (fun x => { x with owed := [⟨.cut, 2⟩, ⟨.kill, 1⟩] })).TableOk
    ∧ (boundary (carried (on4 2 .none) .running) id).TableOk :=
  ⟨table_ok (by decide +kernel) (by decide +kernel) (by decide +kernel), table_ok (by decide +kernel) (by decide +kernel) (by decide +kernel), table_ok (by decide +kernel) (by decide +kernel) (by decide +kernel)⟩

/-- Circuit 4 in service with a lead and a run-on, and story 10 waiting on its outlet. -/
def waitingFor (lead runOn : Nat) : State :=
  awaiting.modCircuit 4 (fun x => { x with
    pendingConfig := none, config := { x.config with motorLead := lead, runOn := runOn } })

/-- An outlet that gains work starts its motor, or with a lead of 0 sends at once; a boundary without work
turns the motor to its run-on, or with none OFF. -/
theorem test_outlets_start_and_stop :
    let a := settle (waitingFor 8 30)
    let b := settle (waitingFor 0 30)
    let stops := fun n : Nat => ran (.characterSent 4) (closerLeaving.modCircuit 4 (fun x => { x with
      pendingConfig := none, config := { x.config with runOn := n } }))
    ((a.outlet 4).state = .starting ∧ (a.control 4).motor = .starting ∧ (a.control 4).motorTarget = 8
      ∧ (a.outlet 4).holder = some 3 ∧ (a.circuit 4).sending = none)
    ∧ ((b.outlet 4).state = .sending ∧ (b.control 4).motor = .running
      ∧ (b.circuit 4).sending.map (·.owner) = some .unit)
    ∧ (((stops 30).control 4).motor = .runOn ∧ ((stops 30).control 4).motorTarget = 30)
    ∧ ((stops 0).control 4).motor = .off ∧ ((stops 0).outlet 4).state = .idle := by decide +kernel

/-- Outlet 4 of the busy office with the unit given, the line taken by a fill or free. -/
def holdingUnit (st : OutletState) (u : OutUnit) (fill : Bool) : State :=
  (busy.modOutlet 4 (fun x => { x with state := st, unit := some u })).modCircuit 4 (fun x => { x with
    sending := if fill then some (x.startChar 31#5 .fill) else none
    config := { x.config with page := 1 } })

/-- A unit that yields no code completes at once, be the line taken by a fill or the outlet PAUSED; one that
yields a code waits for the fill, and for the pause to end. -/
theorem test_silent_units :
    let noCode : OutUnit := { kind := .notice .item, chars := [65#7] }
    let code : OutUnit := { kind := .notice .item, codes := [3#5], chars := [] }
    let far := fun s : State => s.modCircuit 4 (fun x => { x with
      rxPhase := .farBreak, lossTimer := some 0, config := { x.config with breakStopsSending := true } })
    let unitOf := fun s : State => ((settle s).outlet 4).unit
    (unitOf (holdingUnit .sending noCode true) ≠ some noCode
      ∧ 1 ≤ ((settle (holdingUnit .sending noCode true)).outlet 4).drops)
    ∧ unitOf (holdingUnit .sending code true) = some code
    ∧ unitOf (far (holdingUnit .paused noCode false)) = none
    ∧ ((settle (far (holdingUnit .paused noCode false))).outlet 4).state = .paused
    ∧ unitOf (far (holdingUnit .sending code false)) = some code
    ∧ ((settle (far (holdingUnit .sending code false))).outlet 4).state = .paused
    ∧ (settle (far (holdingUnit .sending noCode true))).pauseWaits 4 = true
    ∧ unitOf (far (holdingUnit .sending noCode true)) = none
    ∧ unitOf (holdingUnit .paused code false) = some { code with codes := [] } := by decide +kernel

/-- A pause that meets an outlet whose unit waits for a fill waits for the fill too: SENDING until the fill
is off the line, then PAUSED with the unit held and no code of it sent. -/
theorem test_pause_waits_for_the_fill :
    let code : OutUnit := { kind := .notice .item, codes := [3#5], chars := [] }
    let s := settle ((holdingUnit .sending code true).modCircuit 4 (fun x => { x with
      rxPhase := .farBreak, lossTimer := some 0, config := { x.config with breakStopsSending := true } }))
    let t := ran (.characterSent 4) s
    (s.outlet 4).state = .sending ∧ s.pauseWaits 4 = true ∧ calmCheck s 4 = true
    ∧ (t.outlet 4).state = .paused ∧ (t.outlet 4).unit = some code ∧ (t.circuit 4).sending = none := by
  decide +kernel

/-- The standard page, or one whose every send entry is as given. -/
def pageOfAll (e : Option SendEntry) : Page :=
  { State.reset.page 0 with send := (e.map (Vector.replicate 128)).getD (State.reset.page 0).send }

/-- A conversion by a page from column 3 gives these codes, plane, shift-owed mark, column,
substitutions and drops. -/
def converts (e : Option SendEntry) (p : Plane) (owed : Bool) (ch : Office) (codes : List Code) (q : Plane) (w : Bool)
    (column subs drops : Nat) : Bool :=
  let r := convertChar (pageOfAll e) {} { plane := p, shiftOwed := owed, column := 3 } ch
  decide (r.2 = codes ∧ r.1.plane = q ∧ r.1.shiftOwed = w ∧ r.1.column = column
    ∧ r.1.substitutions = subs ∧ r.1.drops = drops)

theorem test_send_conversion :
    (converts none .letters true (office 'A') [31#5, 3#5] .letters false 4 0 0
    && converts none .letters false (office 'A') [3#5] .letters false 4 0 0
    && converts none .letters false (office '1') [27#5, 23#5] .figures false 4 0 0
    && converts none .figures false cr [8#5, 27#5] .figures false 0 0 0
    && converts none .letters false (office '*') [27#5, 25#5] .figures false 4 1 0
    && converts none .letters false 0#7 [27#5, 25#5] .figures false 4 1 0
    && converts (some .drop) .letters true (office 'A') [] .letters true 3 0 1
    && converts (some .subst) .letters true (office 'A') [] .letters true 3 0 1
    && converts (some (.code 4#5 .both)) .letters true (office 'A') [4#5] .letters true 4 0 0) = true := by decide +kernel

end Sys2Proof.Tests
end

/-! PROOF. Arbitration (R90, R125 to R127). The model compares entries by one number; here that number is
read as the order the rules give, which is total on the eligible entries, so that the winner is the entry
that stands before every other. What a preemption leaves is said record by record, and a preemption
followed by a grant is read off from it. -/

namespace Sys2Proof.Machine

variable {s : State} {o : Fin 24} {j k w h : Fin 48}

/-! ## The order of the eligible entries -/

/-- A story's entry on an outlet was suspended by a preemption. -/
def State.preemptedOn (s : State) (o : Fin 24) (k : Fin 48) : Prop :=
  ∃ e ∈ (s.story k).entries, e.outlet = o ∧ e.state = .suspended .preempted

/-- The comparisons of R126 in the order it names them. -/
def State.standsBefore (s : State) (o : Fin 24) (j k : Fin 48) : Prop :=
  (s.story j).rank < (s.story k).rank
    ∨ ((s.story j).rank = (s.story k).rank ∧
      ((s.preemptedOn o j ∧ ¬s.preemptedOn o k) ∨ ((s.preemptedOn o j ↔ s.preemptedOn o k)
        ∧ s.openOrder.idxOf j < s.openOrder.idxOf k)))

theorem State.eligible_iff_preempted_or_waiting (ok : s.TableOk) : s.eligible o k = true ↔
    (s.story k).state ≠ .held ∧ (s.preemptedOn o k
      ∨ ∃ e ∈ (s.story k).entries, e.outlet = o ∧ e.state = .waiting) := by
  rw [State.eligible_iff ok, State.preemptedOn]
  refine and_congr_right fun _ => ⟨?_, ?_⟩
  · rintro ⟨e, he, ho, waits | susp⟩
    · exact .inr ⟨e, he, ho, waits⟩
    · exact .inl ⟨e, he, ho, susp⟩
  · rintro (⟨e, he, ho, susp⟩ | ⟨e, he, ho, waits⟩)
    · exact ⟨e, he, ho, .inr susp⟩
    · exact ⟨e, he, ho, .inl waits⟩

/-- A preempted entry stands at 0. -/
theorem State.standing_of_preempted (ok : s.TableOk) (susp : s.preemptedOn o k) :
    s.standing o k = 0 := by
  obtain ⟨e, he, ho, state⟩ := susp
  simp [State.standing_eq ok he ho, state]

/-- An eligible entry that was not preempted is WAITING and stands at 1. -/
theorem State.standing_of_not_preempted (ok : s.TableOk) (elig : s.eligible o k = true)
    (susp : ¬s.preemptedOn o k) : s.standing o k = 1 := by
  obtain ⟨e, he, ho, state⟩ :=
    ((State.eligible_iff_preempted_or_waiting ok).1 elig).2.resolve_left susp
  simp [State.standing_eq ok he ho, state]

/-- A story with an eligible entry stands on the open-order list. -/
theorem State.eligible_opened (ok : s.TableOk) (elig : s.eligible o k = true) : k ∈ s.openOrder := by
  obtain ⟨-, e, he, -⟩ := (State.eligible_iff ok).1 elig
  exact (ok.ordered k).2 ((ok.stories k).not_bare he).1

/-- A place in the open-order list fits in the 64 that `State.key` leaves it. -/
theorem State.openOrder_idxOf_lt (ok : s.TableOk) (k : Fin 48) : s.openOrder.idxOf k < 64 := by
  have place : s.openOrder.idxOf k ≤ s.openOrder.length := List.idxOf_le_length
  have length : s.openOrder.length ≤ 48 := by simpa using ok.order.length_le_card
  omega

/-- The one number by which entries are compared orders them as R126 does. -/
theorem State.key_lt_iff (ok : s.TableOk) (ej : s.eligible o j = true) (ek : s.eligible o k = true) :
    s.key o j < s.key o k ↔ s.standsBefore o j k := by
  have pj := State.openOrder_idxOf_lt ok j
  have pk := State.openOrder_idxOf_lt ok k
  unfold State.key State.standsBefore
  by_cases sj : s.preemptedOn o j <;> by_cases sk : s.preemptedOn o k
  · rw [State.standing_of_preempted ok sj, State.standing_of_preempted ok sk]
    simp only [sj, sk, true_and, not_true_eq_false, false_or]
    omega
  · rw [State.standing_of_preempted ok sj, State.standing_of_not_preempted ok ek sk]
    simp only [sj, sk, not_false_eq_true, and_self, true_or, and_true]
    omega
  · rw [State.standing_of_not_preempted ok ej sj, State.standing_of_preempted ok sk]
    simp only [sj, sk, not_true_eq_false, and_self, iff_true, false_and, or_self, and_false, or_false]
    omega
  · rw [State.standing_of_not_preempted ok ej sj, State.standing_of_not_preempted ok ek sk]
    simp only [sj, sk, false_and, true_and, false_or]
    omega

/-- Two eligible entries never compare equal: their places in the open-order list differ. -/
theorem State.key_inj (ok : s.TableOk) (ej : s.eligible o j = true) (same : s.key o j = s.key o k) :
    j = k := by
  have standing : ∀ i, s.standing o i ≤ 1 := by
    intro i
    unfold State.standing
    split <;> omega
  have place : s.openOrder.idxOf j = s.openOrder.idxOf k := by
    have sj := standing j
    have sk := standing k
    have pj := State.openOrder_idxOf_lt ok j
    have pk := State.openOrder_idxOf_lt ok k
    unfold State.key at same
    omega
  exact (List.idxOf_inj (State.eligible_opened ok ej)).1 place

/-! ## The winner -/

theorem State.winner_eq_none_iff (ok : s.TableOk) :
    s.winner o = none ↔ ∀ k, ¬s.eligible o k = true := by
  constructor
  · intro nobody k elig
    obtain ⟨w, win⟩ := State.winner_exists (State.eligible_waits ok elig) elig
    rw [nobody] at win
    cases win
  · intro no
    cases win : s.winner o with
    | none => rfl
    | some w => exact absurd (State.winner_mem win).2 (no w)

/-- The winner is the eligible entry that stands before every other. -/
theorem State.winner_eq_some_iff (ok : s.TableOk) : s.winner o = some w ↔
    s.eligible o w = true ∧ ∀ j, j ≠ w → s.eligible o j = true → s.standsBefore o w j := by
  constructor
  · intro win
    have ew := (State.winner_mem win).2
    refine ⟨ew, fun j ne ej => (State.key_lt_iff ok ew ej).1 ?_⟩
    have least := State.winner_least win j (State.eligible_waits ok ej) ej
    exact lt_of_le_of_ne least fun same => ne (State.key_inj ok ew same).symm
  · rintro ⟨ew, leads⟩
    obtain ⟨v, win⟩ := State.winner_exists (State.eligible_waits ok ew) ew
    have least := State.winner_least win w (State.eligible_waits ok ew) ew
    have ev := (State.winner_mem win).2
    by_cases same : v = w
    · rw [win, same]
    · exact absurd ((State.key_lt_iff ok ew ev).2 (leads v same ev)) (not_lt.2 least)

/-! ## What arbitration does, by winner and holder -/

theorem arbitrate_of_no_winner (win : s.winner o = none) : arbitrate o s = s := by
  have stays : s.granted o = none := by simp [State.granted, win]
  simp [arbitrate, stays]

theorem arbitrate_of_no_holder (win : s.winner o = some w) (free : (s.outlet o).holder = none) :
    arbitrate o s = grant o w s := by
  have granted : s.granted o = some w := by simp [State.granted, win, free]
  simp [arbitrate, granted, free]

theorem arbitrate_of_holder_kept (win : s.winner o = some w) (holds : (s.outlet o).holder = some h)
    (yields : s.preempts w h = false) : arbitrate o s = s := by
  have stays : s.granted o = none := by simp [State.granted, win, holds, yields]
  simp [arbitrate, stays]

theorem arbitrate_of_holder_yields (win : s.winner o = some w)
    (holds : (s.outlet o).holder = some h) (yields : s.preempts w h = true) :
    arbitrate o s = grant o w (preempt o h s) := by
  have granted : s.granted o = some w := by simp [State.granted, win, holds, yields]
  simp [arbitrate, granted, holds]

/-! ## What a preemption leaves -/

theorem State.TableOk.entry_eq (ok : s.TableOk) {e : Entry}
    (he : e ∈ (s.story k).entries) (ho : e.outlet = o) : s.entry o k = some e := by
  rw [← ho]
  exact (ok.stories k).entryOn_eq he

/-- The holder's record after a preemption (R90, R127). -/
def Story.preemptedRecord (x : Story) (o : Fin 24) : Story :=
  { x with
    changed := true
    entries := x.entries.map (fun d => if d.outlet = o then
      { d with
        state := .suspended (if d.holdMark then .held else .preempted), holdMark := false,
        owed := if d.owed = .none then .resume else d.owed } else d) }

theorem outlet_oweItem (kind : OwedKind) (i : Fin 24) : (oweItem o kind k s).outlet i =
    if i = o then { s.outlet o with
      owed := if (s.outlet o).state.takesItems then addItem ⟨kind, k⟩ (s.outlet o).owed
        else (s.outlet o).owed } else s.outlet i := by
  unfold oweItem
  by_cases takes : (s.outlet o).state.takesItems = true
  · simp [takes]
  · rw [if_neg takes, if_neg takes]
    split
    · next at_o => rw [at_o]
    · rfl

theorem story_oweItem (kind : OwedKind) (i : Fin 48) : (oweItem o kind k s).story i = s.story i := by
  unfold oweItem
  split <;> rfl

theorem story_preempt_other (ne : j ≠ h) : (preempt o h s).story j = s.story j := by
  unfold preempt
  dsimp only
  split
  · simp [story_oweItem, ne]
  · simp [ne]

theorem story_preempt_self (ok : s.TableOk) (holds : (s.outlet o).holder = some h) :
    (preempt o h s).story h = (s.story h).preemptedRecord o := by
  obtain ⟨e, he, ho, carrying⟩ := ok.holderEntry holds
  have entry : (s.story h).modEntry o Entry.preempt
      = { (s.story h).preemptedRecord o with changed := (s.story h).changed } := by
    unfold Story.modEntry Story.preemptedRecord
    congr 1
    refine List.map_congr_left fun d hd => ?_
    by_cases at_o : d.outlet = o
    · have : d = e := entry_unique (ok.stories h).sorted hd he (at_o.trans ho.symm)
      rw [if_pos at_o, if_pos at_o, Entry.preempt, if_pos (this ▸ carrying)]
    · rw [if_neg at_o, if_neg at_o]
  unfold preempt
  dsimp only
  split
  · simp [story_oweItem, entry, Story.preemptedRecord]
  · simp [entry, Story.preemptedRecord]

theorem outlet_preempt_other {i : Fin 24} (ne : i ≠ o) : (preempt o h s).outlet i = s.outlet i := by
  unfold preempt
  dsimp only
  split
  · simp [outlet_oweItem, ne]
  · simp [ne]

theorem outlet_preempt_self (ok : s.TableOk) {e : Entry} (he : e ∈ (s.story h).entries)
    (ho : e.outlet = o) : (preempt o h s).outlet o = { s.outlet o with
      waiting := (s.outlet o).waiting ++ [h], holder := none
      owed := if e.owed = .none ∧ (s.outlet o).state.takesItems = true
        then addItem ⟨.breakIn, h⟩ (s.outlet o).owed else (s.outlet o).owed } := by
  unfold preempt
  rw [ok.entry_eq he ho]
  by_cases shown : e.owed = .none
  · simp [shown, outlet_oweItem, Outlet.suspend]
  · simp [shown, Outlet.suspend]

/-! ## A grant, and a grant after a preemption -/

/-- A story's record as the winner (R126). -/
def Story.grantedRecord (x : Story) (o : Fin 24) : Story :=
  { x with
    changed := true
    entries := x.entries.map (fun d => if d.outlet = o then { d with state := .carrying } else d) }

/-- `grant_eq` for an eligible slot. -/
theorem grant_of_eligible (ok : s.TableOk) (elig : s.eligible o w = true) : grant o w s = { s with
    stories := s.stories.set w ((s.story w).grantedRecord o)
    outlets := s.outlets.set o { s.outlet o with
      waiting := (s.outlet o).waiting.filter (fun j => j ≠ w), holder := some w } } := by
  obtain ⟨-, e, he, ho, state⟩ := (State.eligible_iff ok).1 elig
  refine grant_eq ok he ho ?_
  rcases state with waits | susp
  · rw [waits]; rfl
  · rw [susp]; rfl

/-- A preemption of another story leaves a slot as eligible as it was. -/
theorem eligible_preempt_other (ne : w ≠ h) :
    (preempt o h s).eligible o w = s.eligible o w := by
  simp only [State.eligible, State.entry, story_preempt_other ne]

theorem story_grant_self (ok : s.TableOk) (elig : s.eligible o w = true) :
    (grant o w s).story w = (s.story w).grantedRecord o := by
  rw [grant_of_eligible ok elig]
  exact (State.get_set _ _ _ _).trans (if_pos rfl)

theorem story_grant_other (ne : j ≠ w) : (grant o w s).story j = s.story j := by
  simp [grant, ne]

theorem outlet_grant_self : (grant o w s).outlet o = { s.outlet o with
    waiting := (s.outlet o).waiting.filter (fun j => j ≠ w), holder := some w } := by
  simp [grant]

theorem outlet_grant_other {i : Fin 24} (ne : i ≠ o) : (grant o w s).outlet i = s.outlet i := by
  simp [grant, ne]

/-- A preemption and the grant after it write story and outlet records alone. -/
theorem grant_preempt_frame : grant o w (preempt o h s) =
    { s with
      stories := (grant o w (preempt o h s)).stories
      outlets := (grant o w (preempt o h s)).outlets } := by
  unfold preempt oweItem
  dsimp only
  split
  · split <;> rfl
  · rfl

/-! ## Obligations -/

/-- Settles O57: the winner is the entry R126 puts first, a grant and a preemption are read off their
records, and a preemption leaves the winner's story as it stood. -/
theorem arbitrationGrantsAndPreemptsByPriority :
    Obligations.ArbitrationGrantsAndPreemptsByPriority := by
  intro s o ok y suspended eligible before best overdue carrying
  have elig : ∀ k, eligible k ↔ s.eligible o k = true := fun k =>
    (State.eligible_iff_preempted_or_waiting ok).symm
  have wins : ∀ w, best w ↔ s.winner o = some w := by
    intro w
    rw [State.winner_eq_some_iff ok, ← elig w]
    exact and_congr_right fun _ => forall₂_congr fun j _ => imp_congr (elig j) Iff.rfl
  have yields : ∀ w h, s.preempts w h = true ↔ overdue w h := fun w h => decide_eq_true_iff
  refine ⟨?none_eligible, ?one_first, ?no_holder, ?holder⟩
  case none_eligible =>
    intro no
    exact arbitrate_of_no_winner
      ((State.winner_eq_none_iff ok).2 fun k ek => no k ((elig k).2 ek))
  case one_first =>
    rintro ⟨k, ek⟩
    have ek := (elig k).1 ek
    obtain ⟨w, win⟩ := State.winner_exists (State.eligible_waits ok ek) ek
    exact ⟨w, (wins w).2 win⟩
  case no_holder =>
    intro w leads free
    rw [arbitrate_of_no_holder ((wins w).1 leads) free]
    exact grant_of_eligible ok ((elig w).1 leads.1)
  case holder =>
    intro w h leads holds
    have win := (wins w).1 leads
    refine ⟨fun kept => arbitrate_of_holder_kept win holds
      (Bool.eq_false_iff.2 fun p => kept ((yields w h).1 p)), fun due e he ho => ?_⟩
    have ne : w ≠ h := by
      rintro rfl
      exact lt_irrefl _ due.2
    rw [arbitrate_of_holder_yields win holds ((yields w h).2 due)]
    refine ⟨grant_preempt_frame, ?winner, ?suspended, ?stories, ?outlets, ?outlet⟩
    case winner =>
      have still : (preempt o h s).eligible o w = true := by
        rw [eligible_preempt_other ne]
        exact (elig w).1 leads.1
      rw [story_grant_self (ok.preempt holds) still, story_preempt_other ne]
      rfl
    case suspended =>
      rw [story_grant_other ne.symm]
      exact story_preempt_self ok holds
    case stories =>
      intro j nw nh
      rw [story_grant_other nw, story_preempt_other nh]
    case outlets =>
      intro i ni
      rw [outlet_grant_other ni, outlet_preempt_other ni]
    case outlet =>
      rw [outlet_grant_self, outlet_preempt_self ok he ho]
      simp [ne.symm, y]

end Sys2Proof.Machine

/-! PROOF. The host port: SET_BLOCK_LIMIT and NEXT_CHANGED (R86, R168, R170). The block limit is read in two
places, by a story's block timer and by the table view, and the search for a changed mark goes through the
slots from 0 up. -/

namespace Sys2Proof.Machine

variable {s : State} {k : Fin 48}

/-! ## Where the block limit is read -/

theorem expired_iff {timer : Option Nat} {limit : Nat} :
    expired timer limit = true ↔ ∃ e, timer = some e ∧ limit ≤ e := by
  cases timer with
  | none => simp [expired]
  | some e => simp [expired]

theorem State.blockDue_iff :
    s.blockDue k = true ↔ ∃ e, (s.story k).blockTimer = some e ∧ s.regs.blockLimit ≤ e :=
  expired_iff

theorem tableView_blockLimit : (tableView s)[1]? = some (word s.regs.blockLimit) := rfl

/-! ## SET_BLOCK_LIMIT -/

theorem exec_setBlockLimit : exec .setBlockLimit s = .next (setBlockLimit s) := rfl

theorem setBlockLimit_of_outside (outside : (s.arg 0).toNat < 5 ∨ 300 < (s.arg 0).toNat) :
    setBlockLimit s = s.refuse 25 .badArgument :=
  if_neg (by omega)

theorem setBlockLimit_of_inside (least : 5 ≤ (s.arg 0).toNat) (most : (s.arg 0).toNat ≤ 300) :
    setBlockLimit s =
      (s.modRegs fun r => { r with blockLimit := (s.arg 0).toNat }).answer 25 .ok :=
  if_pos ⟨least, most⟩

/-! ## NEXT_CHANGED -/

theorem exec_nextChanged : exec .nextChanged s = .next (nextChanged s) := rfl

/-- A search through the slots is the search for the lowest one. -/
theorem find?_allSlots (p : Fin 48 → Bool) : allSlots.find? p = Fin.find? p :=
  Fin.find?_eq_find?_finRange.symm

theorem nextChanged_of_none_changed (no : ∀ k, (s.story k).changed = false) :
    nextChanged s = s.answer 10 .ok { r0 := 0#16, r1 := 0xFFFF#16 } := by
  rw [nextChanged, find?_allSlots, Fin.find?_eq_none_iff.2 no]

theorem nextChanged_of_lowest (here : (s.story k).changed = true)
    (below : ∀ j < k, (s.story j).changed = false) :
    nextChanged s = s.answer 10 .ok { r0 := 1#16, r1 := word k.val } := by
  rw [nextChanged, find?_allSlots, Fin.find?_eq_some_iff.2 ⟨here, below⟩]

/-! ## Obligations -/

/-- Settles O22: inside the range the limit is the argument, and both readers of the limit read it. -/
theorem blockLimitIsSetWithinItsRange : Obligations.BlockLimitIsSetWithinItsRange := by
  intro s n
  refine ⟨?outside, ?inside⟩
  case outside =>
    intro outside
    rw [exec_setBlockLimit, setBlockLimit_of_outside outside]
  case inside =>
    intro least most
    rw [exec_setBlockLimit, setBlockLimit_of_inside least most]
    refine ⟨_, rfl, rfl, ?view, ?timers⟩
    case view => exact tableView_blockLimit
    case timers =>
      intro u limit k
      rw [State.blockDue_iff, limit]

/-- Settles O23: the search from slot 0 finds the lowest marked slot, and the answer writes nothing but the
command's registers. -/
theorem nextChangedNamesTheLowestMarkedSlot : Obligations.NextChangedNamesTheLowestMarkedSlot := by
  intro s
  refine ⟨?none_changed, ?lowest⟩
  case none_changed =>
    intro no
    rw [exec_nextChanged, nextChanged_of_none_changed no]
  case lowest =>
    intro k here below
    rw [exec_nextChanged, nextChanged_of_lowest here below]

end Sys2Proof.Machine

/-! PROOF. What a step can do, said once. Every row of the part is one of two kinds: its own effect is followed
by the reactions of the outlets (`Acts`), or it is not (`Quietly`); either may be answered as a host command.
The guards under which a row acts stand in the constructors, so that an invariant of every step is shown by
going through them (`step_keeps`). -/

namespace Sys2Proof.Machine

/-! ## Effects followed by the reactions of the outlets -/

/-- The effects that rows have before the outlets react, with the guards they are taken under. -/
inductive Acts (s : State) : State → Prop
  | same : Acts s s
  | kill (k : Fin 48) (named : (s.story k).state ≠ .free) (stands : (s.story k).state ≠ .closed) :
      Acts s (killStory k none s)
  | hold (k : Fin 48) (terminal : (s.story k).source.isTerminal = true)
      (running : (s.story k).state = .running) : Acts s (holdStory k .host s)
  | release (k : Fin 48) (held : (s.story k).state = .held) : Acts s (releaseStory k s)
  | priority (k : Fin 48) (p : Priority) (stands : (s.story k).state.hasPriority = true) :
      Acts s (setPriority k p s)
  | add (k : Fin 48) (o : Fin 24) (joinable : (s.story k).state.joinable = true)
      (absent : (s.story k).entryOn o = none) : Acts s (addOutlet k o s)
  | drop (k : Fin 48) (o : Fin 24) : Acts s (cutEntry k o .removed s)
  | configure (c : Fin 16) (cfg : CircuitConfig) (valid : cfg.valid = true) :
      Acts s (applyConfig c cfg (s.modRegs fun r => { r with draft := none }))
  | openCircuit (c : Fin 16) (valid : (s.circuit c).config.valid = true)
      (closed : (s.circuit c).state = .closed) : Acts s (openCircuit c s)
  | closeCircuit (c : Fin 16) : Acts s (closeCircuit c s)
  | closeSurveyed (c : Fin 16) (survey : (s.circuit c).survey = true) :
      Acts s (closeCircuit c (cancelSurvey c s))
  | cancelSurvey (c : Fin 16) (survey : (s.circuit c).survey = true) : Acts s (cancelSurvey c s)
  | startSurvey (c : Fin 16) (gate : SurveyGate) (adopt : Bool) :
      Acts s (resetFramer (.circuit c) (s.modCircuit c fun x => x.startSurvey gate adopt))
  | finishSurvey (c : Fin 16) (survey : (s.circuit c).survey = true) : Acts s (finishSurvey c s)
  | releaseCounter (c : Fin 16) : Acts s (s.modControl c fun x => x.rest)
  | forceCounter (c : Fin 16) : Acts s (s.modControl c fun x => x.force)
  | startCounter (c : Fin 16) (x : CounterSettings) (a : CounterAction) (valid : x.valid = true)
      (idle : (s.control c).phase = .idle) : Acts s (s.modControl c fun y => y.start x a)
  | selector (c : Fin 16) (n : Nat) (x : Selector) : Acts s (s.modControl c (writeSelector n x))
  | terminal (t : Fin 8) (cfg : PortConfig) (valid : cfg.valid = true) : Acts s (setTerminal t cfg s)
  | page (p : Fin 4) (n : Nat) (w : PageWrite) (written : p ≠ 0) (unused : s.pageInUse p = false) :
      Acts s (s.setPage p ((s.page p).write n w))
  | trafficReset : Acts s (trafficCleared s)
  | markEdge (c : Fin 16) : Acts s (s.modCircuit c fun x => x.markEdge)
  | goodCode (c : Fin 16) (code : Code) : Acts s (goodCode c code s)
  | badStop (c : Fin 16) (code : Code) : Acts s (badStop c code s)
  | breakBegun (c : Fin 16) : Acts s (s.modCircuit c fun x => x.breakBegun)
  | lost (c : Fin 16) :
      Acts s ((leaveService c (s.modCircuit c fun x => x.toLost)).raise .circuitLost)
  | restored (c : Fin 16) (lost : (s.circuit c).state = .lost) :
      Acts s (((s.modCircuit c fun x => x.restored).modOutlet (lineOutlet c)
        fun x => x.lineOn).raise .circuitRestored)
  | sent (c : Fin 16) : Acts s (s.modCircuit c fun x => x.sentOne)
  | terminalCharacter (t : Fin 8) (stop : Signal) (bad : Bool) (ch : Office)
      (hears : (s.port t).inChar = true) :
      Acts s (sortChar t ch
        ((s.modPort t fun p => p.atStop stop).modPortCounts t fun n => n.judged stop bad))
  | terminalSent (t : Fin 8) : Acts s (s.modPort t fun p => p.sentOne)
  | readyRises (t : Fin 8) (enabled : (s.port t).enabled = true) :
      Acts s ((s.modPort t fun p => p.withReady .high).modOutlet (terminalOutlet t)
        fun x => x.unstalled)
  | readyFalls (t : Fin 8) (enabled : (s.port t).enabled = true) :
      Acts s ((s.modPort t fun p => p.withReady .low).modOutlet (terminalOutlet t) fun x => x.paused)
  | framerTake (t : Fin 8) : Acts s (takeHead t s)
  | idleExpiry (k : Fin 48) : Acts s (expireIdle k s)
  | blockExpiry (k : Fin 48) : Acts s (expireBlock k s)
  | stall (t : Fin 8) : Acts s (stallOutlet t s)
  | motorTime (c : Fin 16) : Acts s (motorTime c s)
  | counterTime (c : Fin 16) : Acts s (counterTime c s)
  | bothTimes (c : Fin 16) : Acts s (counterTime c (Machine.motorTime c s))

/-! ## Effects on their own -/

/-- The effects that no reaction of the outlets follows. -/
inductive Quietly (s : State) : State → Prop
  | same : Quietly s s
  | powerOn : Quietly s (powerOn s)
  | retire (k : Fin 48) (closed : (s.story k).state = .closed) (free : s.owedAnywhere k = false) :
      Quietly s (freeRecord k s)
  | retireClosed : Quietly s (forEach (allSlots.filter s.retirable) freeRecord s)
  | number (n : Nat) (least : 1 ≤ n) (most : n ≤ 9999) : Quietly s { s with nextNumber := n }
  | replaceDesk (i : Fin 32) (d : Desk) (other : d.fallback ≠ some d.code)
      (found : s.findDesk d.code = some i) :
      Quietly s (putDesk i { d with routed := s.routedAt i } s)
  | addDesk (i : Fin 32) (d : Desk) (other : d.fallback ≠ some d.code)
      (new : s.findDesk d.code = none) : Quietly s (putDesk i d s)
  | removeDesk (i : Fin 32) : Quietly s (s.setDesk i none)
  | draft (d : Draft) : Quietly s (s.modRegs fun r => { r with draft := some d })
  | pending (c : Fin 16) (cfg : CircuitConfig) (valid : cfg.valid = true) :
      Quietly s ((s.modRegs fun r => { r with draft := none }).modCircuit c
        fun x => { x with pendingConfig := some cfg })
  | clock (n : Nat) (inDay : n ≤ 86399) : Quietly s (s.modRegs fun r => { r with clock := n })
  | blockLimit (n : Nat) (least : 5 ≤ n) (most : n ≤ 300) :
      Quietly s (s.modRegs fun r => { r with blockLimit := n })
  | argument (k : Fin 8) (v : Word) : Quietly s (writeArg k v s)
  | clockRead : Quietly s (readClockHi s)
  | select (v : Word) : Quietly s (writeSelect v s)
  | windowRead (w : Word) : Quietly s (s.modRegs fun r => { r with readData := w })
  | snapshot (x : Selected) : Quietly s (takeSnapshot x s)
  | notice (v : Word) : Quietly s (writeNotice v s)
  | noticeEnable (v : Word) : Quietly s (writeNoticeEnable v s)
  | spaceEdge (c : Fin 16) : Quietly s (s.modCircuit c fun x => x.spaceEdge)
  | falseStart (c : Fin 16) (receiving : (s.circuit c).rxPhase = .inCharacter) :
      Quietly s (s.modCircuit c fun x => { x with rxPhase := .hunting, edges := [] })
  | insideEdge (c : Fin 16) (level : Signal) (ticks : Nat) :
      Quietly s (judgedEdge c ticks (fun x => x.recordEdge level ticks) s)
  | lateEdge (c : Fin 16) (level : Signal) (ticks : Nat)
      (hunts : (s.circuit c).rxPhase = .hunting) :
      Quietly s (judgedEdge c ticks (fun x => x.lateEdge level) s)
  | surveyEdge (c : Fin 16) (level : Signal) (pulse : Nat) :
      Quietly s (s.modCircuit c fun y =>
        { y.withInput level with surveyRec := y.surveyRec.edge level pulse })
  | timeFill (c : Fin 16) (due : s.fillDue c = true) : Quietly s (takeFill c s)
  | startEdge (t : Fin 8) : Quietly s (s.modPort t fun p => p.startEdge)
  | terminalFalseStart (t : Fin 8) : Quietly s (s.modPort t fun p => p.falseStart)
  | markReturn (t : Fin 8) : Quietly s (s.modPort t fun p => p.markReturn)
  | readyPin (t : Fin 8) (l : Level) (disabled : (s.port t).enabled = false) :
      Quietly s (s.modPort t fun p => p.withReady l)
  | second : Quietly s (secondPasses s)

/-- What a step leaves: an effect, settled or not, answered as a host command or not. -/
inductive Moves (s : State) : State → Prop
  | settled {u : State} (h : Acts s u) : Moves s (settle u)
  | done {u : State} (h : Acts s u) (n : Nat) (code : ResultCode) (words : ResultWords) :
      Moves s ((settle u).answer n code words)
  | quiet {u : State} (h : Quietly s u) : Moves s u
  | answered {u : State} (h : Quietly s u) (n : Nat) (code : ResultCode) (words : ResultWords) :
      Moves s (u.answer n code words)

namespace Moves

variable {s : State}

theorem same : Moves s s := .quiet .same

theorem refused (n : Nat) (code : ResultCode) : Moves s (s.refuse n code) := .answered .same n code {}

theorem carriedOut {u : State} (h : Acts s u) (n : Nat) : Moves s (u.done n) := .done h n .ok {}

theorem ite {p : Prop} [Decidable p] {t u : State} (yes : p → Moves s t) (no : ¬p → Moves s u) :
    Moves s (if p then t else u) := by
  split
  · exact yes ‹_›
  · exact no ‹_›

/-! ## The host commands -/

theorem onStory {n : Nat} {f : Fin 48 → State → State}
    (h : ∀ k, s.findNumber (s.arg 0).toNat = some k → Moves s (f k s)) :
    Moves s (onStory n f s) := by
  unfold Machine.onStory State.argStory
  split
  · exact refused n _
  · exact h _ ‹_›

theorem answerFound (r : Option (Fin 48)) : Moves s (answerFound s r) := by
  cases r with
  | none => exact refused 1 _
  | some k => exact .answered .same 1 .ok _

theorem storyFind : Moves s (storyFind s) := by
  unfold Machine.storyFind
  split
  · unfold findBySlot
    split
    · exact answerFound _
    · exact refused 1 _
  · exact ite (fun _ => answerFound _) (fun _ => refused 1 _)
  · unfold findBySlug
    split
    · exact answerFound _
    · exact refused 1 _
  · exact refused 1 _

theorem storyKill : Moves s (storyKill s) :=
  onStory fun k found => ite (fun _ => refused 2 _) fun stands =>
    carriedOut (.kill k (findNumber_some found).1 stands) 2

theorem storyHold : Moves s (storyHold s) :=
  onStory fun k _ => ite (fun _ => refused 3 _) fun terminal => ite (fun _ => refused 3 _) fun running =>
    carriedOut (.hold k (by simpa using terminal) (by simpa using running)) 3

theorem storyRelease : Moves s (storyRelease s) :=
  onStory fun k _ => ite (fun _ => refused 4 _) fun held =>
    carriedOut (.release k (by simpa using held)) 4

theorem storyPriority : Moves s (storyPriority s) := by
  unfold Machine.storyPriority
  split
  · exact refused 5 _
  · exact onStory fun k _ => ite (fun stands => carriedOut (.priority k _ stands) 5)
      fun _ => refused 5 _

theorem addCheck_ok {k : Fin 48} {o : Fin 24} (h : addCheck k o s = .ok) :
    (s.story k).state.joinable = true ∧ (s.story k).entryOn o = none ∧ s.available o = true
      ∧ s.fastEnough (s.story k).source o = true := by
  simp only [addCheck] at h
  split_ifs at h with state present away slow
  exact ⟨by simpa using state, by simpa using present, by simpa using away, by simpa using slow⟩

theorem storyAddOutlet : Moves s (storyAddOutlet s) := by
  unfold Machine.storyAddOutlet
  split
  · exact refused 6 _
  · refine onStory fun k _ => ite (fun passed => ?_) fun _ => refused 6 _
    obtain ⟨joinable, absent, -⟩ := addCheck_ok passed
    exact carriedOut (.add k _ joinable absent) 6

theorem storyDropOutlet : Moves s (storyDropOutlet s) := by
  unfold Machine.storyDropOutlet
  split
  · exact refused 7 _
  · exact onStory fun k _ => ite (fun _ => carriedOut (.drop k _) 7) fun _ => refused 7 _

theorem retireCommand : Moves s (retireCommand s) := by
  unfold Machine.retireCommand
  split
  · exact refused 8 _
  · exact ite (fun _ => refused 8 _) fun closed => ite (fun _ => refused 8 _) fun free =>
      .answered (.retire _ (by simpa using closed) (by simpa using free)) 8 .ok {}

theorem nextChanged : Moves s (nextChanged s) := by
  unfold Machine.nextChanged
  split
  · exact .answered .same 10 .ok _
  · exact .answered .same 10 .ok _

theorem setNextNumber : Moves s (setNextNumber s) :=
  ite (fun _ => refused 11 _) fun range => ite (fun _ => refused 11 _) fun _ =>
    .answered (.number _ (by omega) (by omega)) 11 .ok {}

theorem fallbackOf_ne {w : Word} {own : DeskCode} {x : Option DeskCode}
    (h : fallbackOf w own = some x) : x ≠ some own := by
  unfold fallbackOf at h
  split at h
  · cases h
    simp
  · split at h
    · split at h
      · cases h
      · cases h
        simpa using ‹_›
    · cases h

theorem deskOfArgs_fallback {args : Vector Word 8} {d : Desk} (h : deskOfArgs args = some d) :
    d.fallback ≠ some d.code := by
  simp only [deskOfArgs, Option.bind_eq_bind, Option.bind_eq_some_iff, Option.some.injEq] at h
  obtain ⟨code, -, floor, -, fallback, own, rfl⟩ := h
  exact fallbackOf_ne own

theorem deskWrite : Moves s (deskWrite s) := by
  unfold Machine.deskWrite
  split
  · exact refused 12 _
  · next d read =>
    have other := deskOfArgs_fallback read
    split
    · exact .answered (.replaceDesk _ d other ‹_›) 12 .ok {}
    · exact .answered (.addDesk _ d other ‹_›) 12 .ok {}
    · exact refused 12 _

theorem deskRemove : Moves s (deskRemove s) := by
  unfold Machine.deskRemove
  split
  · exact refused 13 _
  · split
    · exact refused 13 _
    · exact .answered (.removeDesk _) 13 .ok {}

theorem circuitConfigOf_valid {args : Vector Word 8} {l : List Office} {cfg : CircuitConfig}
    (h : circuitConfigOf args l = some cfg) : cfg.valid = true := by
  simp only [circuitConfigOf, Option.bind_eq_bind, Option.bind_eq_some_iff] at h
  obtain ⟨_, -, _, -, _, -, _, -, _, -, _, -, _, -, h⟩ := h
  split at h
  · cases h
    assumption
  · cases h

theorem submitConfig : Moves s (submitConfig s) := by
  unfold Machine.submitConfig
  split
  · exact refused 14 _
  · split
    · exact refused 14 _
    · next cfg h =>
      obtain ⟨_, -, h⟩ := Option.bind_eq_some_iff.1 h
      have valid := circuitConfigOf_valid h
      exact ite (fun _ => .done (.configure _ cfg valid) 14 .ok _)
        fun _ => .answered (.pending _ cfg valid) 14 .ok _

theorem circuitSet : Moves s (circuitSet s) := by
  unfold Machine.circuitSet
  split
  · exact submitConfig
  · unfold setSection1
    dsimp only
    split
    · exact refused 14 _
    · exact ite (fun _ => .answered (.draft _) 14 .ok {}) fun _ => refused 14 _
  · unfold setSection2
    dsimp only
    split
    · exact refused 14 _
    · exact ite (fun _ => .answered (.draft _) 14 .ok {}) fun _ => refused 14 _
  · exact refused 14 _

theorem circuitOpen : Moves s (circuitOpen s) := by
  unfold Machine.circuitOpen
  split
  · exact refused 15 _
  · refine ite (fun _ => refused 15 _) fun valid => ite (fun _ => refused 15 _) fun idle => ?_
    rw [not_or, not_not] at idle
    exact carriedOut (.openCircuit _ (by simpa using valid) idle.1) 15

theorem circuitClose : Moves s (circuitClose s) := by
  unfold Machine.circuitClose
  split
  · exact refused 16 _
  · next c _ =>
    by_cases survey : (s.circuit c).survey = true <;> by_cases closed : (s.circuit c).state = .closed
      <;> simp only [survey, closed, if_true, if_false]
    · exact carriedOut (.cancelSurvey c survey) 16
    · exact carriedOut (.closeSurveyed c survey) 16
    · exact carriedOut .same 16
    · exact carriedOut (.closeCircuit c) 16

theorem surveyStart : Moves s (surveyStart s) := by
  unfold Machine.surveyStart
  split
  · exact ite (fun _ => refused 17 _) fun _ => ite (fun _ => refused 17 _) fun _ =>
      carriedOut (.startSurvey _ _ _) 17
  · exact refused 17 _

theorem onSurvey {n : Nat} {f : Fin 16 → State → State}
    (h : ∀ c, (s.circuit c).survey = true → Acts s (f c s)) : Moves s (onSurvey n f s) := by
  unfold Machine.onSurvey
  split
  · exact refused n _
  · exact ite (fun survey => carriedOut (h _ survey) n) fun _ => refused n _

theorem counterSettingsOf_valid {args : Vector Word 8} {x : CounterSettings}
    (h : counterSettingsOf args = some x) : x.valid = true := by
  simp only [counterSettingsOf, Option.bind_eq_bind, Option.bind_eq_some_iff] at h
  obtain ⟨_, -, _, -, _, -, h⟩ := h
  split at h
  · cases h
  · split at h
    · cases h
      assumption
    · cases h

theorem counterAction : Moves s (counterAction s) := by
  unfold Machine.counterAction
  split
  · exact ite (fun _ => carriedOut (.releaseCounter _) 20) fun _ => refused 20 _
  · exact carriedOut (.forceCounter _) 20
  · unfold Machine.startCounter
    split
    · exact refused 20 _
    · next x read =>
      exact ite (fun _ => refused 20 _) fun idle => ite (fun _ => refused 20 _) fun _ =>
        carriedOut (.startCounter _ x _ (counterSettingsOf_valid read) (by simpa using idle)) 20
  · exact refused 20 _

theorem outputSet : Moves s (outputSet s) := by
  unfold Machine.outputSet
  split
  · exact ite (fun _ => carriedOut (.selector _ _ _) 21) fun _ => refused 21 _
  · exact refused 21 _

theorem portConfigOf_valid {args : Vector Word 8} {cfg : PortConfig}
    (h : portConfigOf args = some cfg) : cfg.valid = true := by
  simp only [portConfigOf, Option.bind_eq_bind, Option.bind_eq_some_iff] at h
  obtain ⟨_, -, _, -, _, -, _, -, h⟩ := h
  split at h
  · cases h
    assumption
  · cases h

theorem terminalSet : Moves s (terminalSet s) := by
  unfold Machine.terminalSet
  split
  · next cfg _ read => exact carriedOut (.terminal _ cfg (portConfigOf_valid read)) 22
  · exact refused 22 _

theorem pageWrite : Moves s (pageWrite s) := by
  unfold Machine.pageWrite
  split
  · exact refused 23 _
  · refine ite (fun _ => refused 23 _) fun written => ?_
    split
    · exact refused 23 _
    · exact ite (fun _ => refused 23 _) fun unused =>
        carriedOut (.page _ _ _ written (by simpa using unused)) 23

theorem clockSet : Moves s (clockSet s) :=
  ite (fun inDay => .answered (.clock _ inDay) 24 .ok {}) fun _ => refused 24 _

theorem setBlockLimit : Moves s (setBlockLimit s) :=
  ite (fun range => .answered (.blockLimit _ range.1 range.2) 25 .ok {}) fun _ => refused 25 _

theorem trafficReset : Moves s (trafficReset s) := by
  rw [trafficReset_eq]
  exact .settled .trafficReset

theorem trafficResetCommand : Moves s (trafficResetCommand s) := by
  unfold Machine.trafficResetCommand
  rw [trafficReset_eq]
  exact .done .trafficReset 26 .ok {}

theorem unknownCommand (n : Word) : Moves s (unknownCommand n s) := by
  have h : Machine.unknownCommand n s = s.answer n.toNat .unknownCommand := by
    simp [Machine.unknownCommand, State.answer, word]
  rw [h]
  exact .answered .same _ _ _

theorem takeCommand (n : Word) : Moves s (takeCommand n s) := by
  unfold Machine.takeCommand
  split
  · exact storyFind
  · exact storyKill
  · exact storyHold
  · exact storyRelease
  · exact storyPriority
  · exact storyAddOutlet
  · exact storyDropOutlet
  · exact retireCommand
  · exact .answered .retireClosed 9 .ok _
  · exact nextChanged
  · exact setNextNumber
  · exact deskWrite
  · exact deskRemove
  · exact circuitSet
  · exact circuitOpen
  · exact circuitClose
  · exact surveyStart
  · exact onSurvey fun c survey => .finishSurvey c survey
  · exact onSurvey fun c survey => .cancelSurvey c survey
  · exact counterAction
  · exact outputSet
  · exact terminalSet
  · exact pageWrite
  · exact clockSet
  · exact setBlockLimit
  · exact trafficResetCommand
  · exact unknownCommand n

/-! ## The rows that split a command, and the other accesses -/

theorem circuitSetAs (n : Nat) : Moves s (circuitSetAs n s) := ite (fun _ => circuitSet) fun _ => same

theorem counterActionAs (a : CounterAction) : Moves s (counterActionAs a s) := by
  unfold Machine.counterActionAs
  split
  · exact ite (fun _ => counterAction) fun _ => same
  · exact counterAction

theorem terminalSetAs (a : TerminalCase) : Moves s (terminalSetAs a s) := by
  unfold Machine.terminalSetAs
  split
  · exact ite (fun _ => terminalSet) fun _ => same
  · exact terminalSet

theorem writeControl (v : Word) : Moves s (writeControl v s) := ite (fun _ => trafficReset) fun _ => same

theorem readWindow0 : Moves s (readWindow0 s) := by
  unfold Machine.readWindow0
  split
  · exact .quiet (.windowRead _)
  · exact ite (fun _ => .quiet (.snapshot _)) fun _ => .quiet (.windowRead _)

theorem writeWord (offset : Nat) (v : Word) : Moves s (writeWord offset v s) := by
  unfold Machine.writeWord
  split
  · exact takeCommand v
  iterate 8 exact .quiet (.argument _ v)
  · exact .quiet (.notice v)
  · exact .quiet (.noticeEnable v)
  · exact .quiet (.select v)
  · exact writeControl v
  · exact same

/-! ## The events -/

theorem spaceEdge (c : Fin 16) (held : Nat) : Moves s (spaceEdge c held s) :=
  ite (fun _ => .quiet (.spaceEdge c)) fun _ => same

theorem markEdge (c : Fin 16) (held : Nat) : Moves s (markEdge c held s) :=
  ite (fun _ => .settled (.markEdge c)) fun _ => same

theorem falseStart (c : Fin 16) : Moves s (falseStart c s) := by
  refine ite (fun due => .quiet (.falseStart c ?_)) fun _ => same
  simp only [Circuit.samples, Bool.and_eq_true, decide_eq_true_eq] at due
  exact due.1.2

theorem edgeInside (c : Fin 16) (level : Signal) (ticks held : Nat) :
    Moves s (edgeInside c level ticks held s) := by
  refine ite (fun _ => .quiet (.insideEdge c level ticks)) fun _ => ite (fun due => ?_) fun _ => same
  refine .quiet (.lateEdge c level ticks ?_)
  simp only [Circuit.lateEdgeDue, Bool.and_eq_true, decide_eq_true_eq] at due
  exact due.1.1.1.1.2

theorem stopSample (c : Fin 16) (code : Code) (stop : Signal) : Moves s (stopSample c code stop s) := by
  refine ite (fun _ => ?_) fun _ => same
  cases stop with
  | mark => exact .settled (.goodCode c code)
  | space => exact .settled (.badStop c code)

theorem terminalStop (t : Fin 8) (data : Office) (bit : Bool) (stop : Signal) :
    Moves s (terminalStop t data bit stop s) :=
  ite (fun hears => .settled (.terminalCharacter t stop _ _ hears)) fun _ => same

theorem completeIf (t : Fin 8) (test : Option Request → Bool) : Moves s (completeIf t test s) :=
  ite (fun _ => terminalStop t _ _ _) fun _ => same

theorem characterTime (c : Fin 16) (which : Counted) : Moves s (characterTime c which s) := by
  cases which with
  | motor => exact .settled (.motorTime c)
  | counter => exact .settled (.counterTime c)
  | both => exact .settled (.bothTimes c)

theorem readyRises (t : Fin 8) : Moves s (readyRises t s) := by
  have still : ((s.modPort t fun p => p.withReady .high).port t).enabled = (s.port t).enabled := by
    simp [Port.withReady]
  refine ite (fun on => .settled (.readyRises t (still ▸ on))) fun off => .quiet (.readyPin t .high ?_)
  rw [still] at off
  simpa using off

theorem readyFalls (t : Fin 8) : Moves s (readyFalls t s) := by
  have still : ((s.modPort t fun p => p.withReady .low).port t).enabled = (s.port t).enabled := by
    simp [Port.withReady]
  refine ite (fun on => .settled (.readyFalls t (still ▸ on))) fun off => .quiet (.readyPin t .low ?_)
  rw [still] at off
  simpa using off

theorem restoreCircuit (c : Fin 16) : Moves s (restoreCircuit c s) := by
  refine ite (fun due => .settled (.restored c ?_)) fun _ => same
  simp only [Circuit.restoreDue, Bool.and_eq_true, decide_eq_true_eq] at due
  exact due.1

theorem gateExpires (c : Fin 16) : Moves s (gateExpires c s) := by
  refine ite (fun due => .settled (.finishSurvey c ?_)) fun _ => same
  simp only [Circuit.gateDue, Bool.and_eq_true] at due
  exact due.1

theorem of_next {u t : State} (h : Moves s u)
    (e : (.next u : Host.Outcome State Fault Refusal) = .next t) : Moves s t :=
  Host.Outcome.next.inj e ▸ h

end Moves

/-! ## Every row, every step -/

variable {s t : State}

/-- The next state of a row that has one is reached by one of the effects above. -/
theorem exec_moves {i : Instr} (e : exec i s = .next t) : Moves s t := by
  cases i with
  | powerOnReset => exact .of_next (.quiet .powerOn) e
  | storyFind => exact .of_next .storyFind e
  | storyKill => exact .of_next .storyKill e
  | storyHold => exact .of_next .storyHold e
  | storyRelease => exact .of_next .storyRelease e
  | storyPriority => exact .of_next .storyPriority e
  | storyAddOutlet => exact .of_next .storyAddOutlet e
  | storyDropOutlet => exact .of_next .storyDropOutlet e
  | retire => exact .of_next .retireCommand e
  | retireClosed => exact .of_next (.answered .retireClosed 9 .ok _) e
  | nextChanged => exact .of_next .nextChanged e
  | setNextNumber => exact .of_next .setNextNumber e
  | deskWrite => exact .of_next .deskWrite e
  | deskRemove => exact .of_next .deskRemove e
  | circuitSet => exact .of_next (.circuitSetAs 0) e
  | circuitSetSection1 => exact .of_next (.circuitSetAs 1) e
  | circuitSetSection2 => exact .of_next (.circuitSetAs 2) e
  | circuitOpen => exact .of_next .circuitOpen e
  | circuitClose => exact .of_next .circuitClose e
  | surveyStart => exact .of_next .surveyStart e
  | surveyStop => exact .of_next (.onSurvey fun c survey => .finishSurvey c survey) e
  | surveyCancel => exact .of_next (.onSurvey fun c survey => .cancelSurvey c survey) e
  | counterActionIdle => exact .of_next (.counterActionAs _) e
  | counterActionOnce => exact .of_next (.counterActionAs _) e
  | counterActionRepeat => exact .of_next (.counterActionAs _) e
  | counterActionDelayedOnce => exact .of_next (.counterActionAs _) e
  | counterActionDelayedRepeat => exact .of_next (.counterActionAs _) e
  | counterActionHold => exact .of_next (.counterActionAs _) e
  | counterActionRelease => exact .of_next (.counterActionAs _) e
  | counterActionForceIdle => exact .of_next (.counterActionAs _) e
  | outputSet => exact .of_next .outputSet e
  | terminalSetEnable => exact .of_next (.terminalSetAs _) e
  | terminalSetReconfigure => exact .of_next (.terminalSetAs _) e
  | terminalSetDisable => exact .of_next (.terminalSetAs _) e
  | pageWrite => exact .of_next .pageWrite e
  | clockSet => exact .of_next .clockSet e
  | setBlockLimit => exact .of_next .setBlockLimit e
  | trafficReset => exact .of_next .trafficResetCommand e
  | unknownCommand n =>
    exact .of_next (.ite (fun _ => .same) fun _ => .unknownCommand n) e
  | controlWrite v => exact .of_next (.writeControl v) e
  | noticeWrite v => exact .of_next (.quiet (.notice v)) e
  | noticeEnableWrite v => exact .of_next (.quiet (.noticeEnable v)) e
  | selectWrite v => exact .of_next (.quiet (.select v)) e
  | clockHiRead => exact .of_next (.quiet .clockRead) e
  | window0Read => exact .of_next .readWindow0 e
  | registerWrite offset v =>
    change execRegisterWrite offset v s = .next t at e
    unfold execRegisterWrite at e
    split at e
    · exact .of_next (.writeWord offset v) e
    · cases e
  | characterReceived c code stop => exact .of_next (.stopSample c code stop) e
  | allSpaceEnded c held => exact .of_next (.markEdge c held) e
  | farBreakBegins c =>
    exact .of_next (.ite (fun _ => .settled (.breakBegun c)) fun _ => .same) e
  | farBreakEnds c held => exact .of_next (.markEdge c held) e
  | lostSpaceEdge c held => exact .of_next (.spaceEdge c held) e
  | circuitLost c =>
    exact .of_next (.ite (fun _ => .settled (.lost c)) fun _ => .same) e
  | circuitRestored c => exact .of_next (.restoreCircuit c) e
  | surveyEdge c level pulse held =>
    exact .of_next (.ite (fun _ => .quiet (.surveyEdge c level pulse)) fun _ => .same) e
  | surveyGateExpiry c => exact .of_next (.gateExpires c) e
  | characterSent c =>
    exact .of_next (.ite (fun _ => .settled (.sent c)) fun _ => .same) e
  | timeFill c =>
    exact .of_next (.ite (fun due => .quiet (.timeFill c due)) fun _ => .same) e
  | terminalCharacterReceived t data bit stop =>
    exact .of_next (.terminalStop t data bit stop) e
  | terminalCharacterSent t =>
    exact .of_next (.ite (fun _ => .settled (.terminalSent t)) fun _ => .same) e
  | readyInRises t => exact .of_next (.readyRises t) e
  | readyInFalls t => exact .of_next (.readyFalls t) e
  | framerTake t => exact .of_next (.settled (.framerTake t)) e
  | idleExpiry k =>
    exact .of_next (.ite (fun _ => .settled (.idleExpiry k)) fun _ => .same) e
  | blockLimitExpiry k =>
    exact .of_next (.ite (fun _ => .settled (.blockExpiry k)) fun _ => .same) e
  | stall t => exact .of_next (.ite (fun _ => .settled (.stall t)) fun _ => .same) e
  | motorLeadComplete c =>
    exact .of_next (.ite (fun _ => .characterTime c _) fun _ => .same) e
  | runOnComplete c =>
    exact .of_next (.ite (fun _ => .characterTime c _) fun _ => .same) e
  | delayComplete c =>
    exact .of_next (.ite (fun _ => .characterTime c _) fun _ => .same) e
  | countComplete c =>
    exact .of_next (.ite (fun _ => .characterTime c _) fun _ => .same) e
  | counterToggle c =>
    exact .of_next (.ite (fun _ => .characterTime c _) fun _ => .same) e
  | sRequest t => exact .of_next (.completeIf t _) e
  | lRequest t => exact .of_next (.completeIf t _) e
  | hRequest t => exact .of_next (.completeIf t _) e
  | gRequest t => exact .of_next (.completeIf t _) e
  | kRequest t => exact .of_next (.completeIf t _) e
  | pRequest t => exact .of_next (.completeIf t _) e
  | jRequest t => exact .of_next (.completeIf t _) e
  | xRequest t => exact .of_next (.completeIf t _) e
  | noForm t => exact .of_next (.completeIf t _) e
  | requestBusy t =>
    exact .of_next (.ite (fun _ => .terminalStop t _ _ _) fun _ => .same) e
  | lineStartEdge c held => exact .of_next (.spaceEdge c held) e
  | lineFalseStart c => exact .of_next (.falseStart c) e
  | edgeInsideCharacter c level ticks held =>
    exact .of_next (.edgeInside c level ticks held) e
  | lostMarkEdge c held => exact .of_next (.markEdge c held) e
  | terminalStartEdge t => exact .of_next (.quiet (.startEdge t)) e
  | terminalFalseStart t => exact .of_next (.quiet (.terminalFalseStart t)) e
  | terminalMarkReturn t => exact .of_next (.quiet (.markReturn t)) e
  | storyClockAdvance => exact .of_next (.quiet .second) e
  | characterTimeCompleted c which => exact .of_next (.characterTime c which) e

/-- An invariant that neither the queue nor an answer touches holds after every step, if every effect,
settled where the outlets react to it, keeps it. -/
theorem step_keeps {P : State → Prop} (queue : ∀ s q, P s → P (s.withPending q))
    (answer : ∀ s n code words, P s → P (State.answer s n code words))
    (acts : ∀ s u, P s → Acts s u → P (settle u)) (quiet : ∀ s u, P s → Quietly s u → P u)
    (h : P s) (e : step s = .next t) : P t := by
  unfold step at e
  split at e
  · cases e
    exact h
  · next c rest _ =>
    have front := queue s rest h
    cases exec_moves e with
    | settled effect => exact acts _ _ front effect
    | done effect n code words => exact answer _ n code words (acts _ _ front effect)
    | quiet effect => exact quiet _ _ front effect
    | answered effect n code words => exact answer _ n code words (quiet _ _ front effect)

end Sys2Proof.Machine

/-! PROOF. Every step keeps the traffic of the part consistent (R73 to R76, R83 to R85, R90, R113): the
effects that touch stories, framers or an outlet's lists have their own lemmas, and the others stand aside. -/

namespace Sys2Proof.Machine

variable {s u : State}

/-! ## Effects that stand aside -/

theorem Aside.applyConfig (h : Aside s u) {c : Fin 16} {cfg : CircuitConfig} :
    Aside s (applyConfig c cfg u) := h.modCircuit

theorem Aside.openCircuit (h : Aside s u) {c : Fin 16} : Aside s (openCircuit c u) :=
  h.modCircuit.modOutlet rfl rfl rfl

theorem Aside.cancelSurvey (h : Aside s u) {c : Fin 16} : Aside s (cancelSurvey c u) :=
  h.modCircuit.raise

theorem Aside.adoptClass (h : Aside s u) {c : Fin 16} {n : Nat} : Aside s (adoptClass c n u) := by
  unfold Machine.adoptClass
  dsimp only
  split
  · exact h.modCircuit.modCircuit
  · split
    · exact h.modCircuit.applyConfig
    · exact h.modCircuit.modCircuit

theorem Aside.finishSurvey (h : Aside s u) {c : Fin 16} : Aside s (finishSurvey c u) := by
  unfold Machine.finishSurvey adoptResult
  dsimp only
  split
  · split
    · exact h.modCircuit.adoptClass.raise
    · exact h.modCircuit.raise
  all_goals exact h.modCircuit.raise

theorem Aside.enablePort (h : Aside s u) {t : Fin 8} {cfg : PortConfig} :
    Aside s (enablePort t cfg u) := by
  unfold Machine.enablePort
  exact Aside.modOutlet h.modPort rfl rfl rfl

theorem Aside.takeFill (h : Aside s u) {c : Fin 16} : Aside s (takeFill c u) :=
  h.modCircuit.modControl.modOutlet rfl rfl rfl

theorem Aside.judgedEdge (h : Aside s u) {c : Fin 16} {n : Nat} {f : Circuit → Circuit} :
    Aside s (judgedEdge c n f u) := h.modCircuit.raiseIf

theorem Aside.requestAnswerback (h : Aside s u) {c : Fin 16} {e : RxEntry} :
    Aside s (requestAnswerback c e u) := by
  unfold Machine.requestAnswerback
  split
  · exact h.modOutlet rfl rfl rfl
  · exact h

theorem Aside.offerQueue (h : Aside s u) {t : Fin 8} {ch : Office} : Aside s (offerQueue t ch u) := by
  unfold Machine.offerQueue
  split
  · exact h.modPort
  · exact h.modPort.raise

theorem Aside.motorTime (h : Aside s u) {c : Fin 16} : Aside s (motorTime c u) := h.modControl

theorem Aside.counterTime (h : Aside s u) {c : Fin 16} : Aside s (counterTime c u) := by
  unfold Machine.counterTime
  exact h.modControl

theorem Aside.clearDefaults (h : Aside s u) : Aside s (clearDefaults u) :=
  Aside.forEach (fun _ _ w => w.setDesk) h

theorem Aside.putDesk (h : Aside s u) {i : Fin 32} {d : Desk} : Aside s (putDesk i d u) := by
  unfold Machine.putDesk
  split
  · exact h.clearDefaults.setDesk
  · exact h.setDesk

theorem Aside.unstalled (h : Aside s u) {o : Fin 24} :
    Aside s (u.modOutlet o fun x => x.unstalled) := by
  refine h.modOutlet ?_ ?_ ?_ <;> (unfold Outlet.unstalled; split <;> rfl)

theorem Aside.paused (h : Aside s u) {o : Fin 24} : Aside s (u.modOutlet o fun x => x.paused) := by
  refine h.modOutlet ?_ ?_ ?_ <;> (unfold Outlet.paused; split <;> rfl)

namespace State.Consistent

/-! ## Effects on traffic -/

theorem closeCircuit (h : s.Consistent) {c : Fin 16} : (closeCircuit c s).Consistent :=
  ((h.aside (Aside.refl s).modCircuit).leaveService).aside (Aside.refl _).modControl

theorem setTerminal (h : s.Consistent) {t : Fin 8} {cfg : PortConfig} :
    (setTerminal t cfg s).Consistent := by
  unfold Machine.setTerminal
  split
  · exact h.aside (Aside.refl s).enablePort
  · exact h.aside (Aside.refl s).modPort
  · unfold turnOff
    split
    · exact h.disablePort
    · exact h.aside (Aside.refl s).modPort

theorem trafficCleared (h : s.Consistent) : (trafficCleared s).Consistent := by
  obtain ⟨stories, framers, order, next, bare⟩ := trafficCleared_empty s
  have range := h.table.next
  rw [← next] at range
  exact .empty stories framers order range bare

theorem handToFramer (h : s.Consistent) {c : Fin 16} {ch : Option Office} :
    (handToFramer c ch s).Consistent := by
  cases ch with
  | none => exact h
  | some o => exact h.takeCircuit

theorem goodCode (h : s.Consistent) {c : Fin 16} {code : Code} : (goodCode c code s).Consistent := by
  unfold Machine.goodCode
  dsimp only
  refine State.Consistent.aside ?_ (Aside.refl _).requestAnswerback.modCircuit
  exact (h.aside (Aside.refl s).modCircuit).handToFramer

theorem badStop (h : s.Consistent) {c : Fin 16} {code : Code} : (badStop c code s).Consistent :=
  (h.aside (Aside.refl s).modCircuit).handToFramer

theorem sortRest (h : s.Consistent) {t : Fin 8} {ch : Office} : (sortRest t ch s).Consistent := by
  unfold Machine.sortRest
  split
  · unfold toParser
    split
    · exact (h.aside (Aside.refl s).modPort).completeRequest
    · exact h.aside (Aside.refl s).modParser
  · split
    · exact h.aside (Aside.refl s).modPort.modParser
    · exact h.aside (Aside.refl s).offerQueue

theorem sortChar (h : s.Consistent) {t : Fin 8} {ch : Office} : (sortChar t ch s).Consistent := by
  unfold Machine.sortChar
  split
  · exact h.aside (Aside.refl s).modPort
  · split
    · dsimp only
      split
      · exact h.aside (Aside.refl s).modPort
      · exact (h.aside (Aside.refl s).modPort).sortRest
    · exact h.sortRest

/-! ## Every effect -/

theorem acts (h : s.Consistent) (e : Acts s u) : u.Consistent := by
  have aside := Aside.refl s
  cases e with
  | same => exact h
  | kill k named _ => exact h.killStory named
  | hold k terminal running => exact h.holdStory running terminal
  | release k held => exact h.releaseStory held
  | priority k p _ => exact h.setPriority
  | add k o joinable absent => exact h.addOutlet joinable absent
  | drop k o => exact h.cutEntry
  | configure c cfg _ => exact h.aside aside.modRegs.applyConfig
  | openCircuit c _ _ => exact h.aside aside.openCircuit
  | closeCircuit c => exact h.closeCircuit
  | closeSurveyed c _ => exact (h.aside aside.cancelSurvey).closeCircuit
  | cancelSurvey c _ => exact h.aside aside.cancelSurvey
  | startSurvey c gate adopt => exact (h.aside aside.modCircuit).resetFramer
  | finishSurvey c _ => exact h.aside aside.finishSurvey
  | releaseCounter c | forceCounter c | startCounter c _ _ _ _ | selector c _ _ =>
    exact h.aside aside.modControl
  | motorTime c => exact h.aside aside.motorTime
  | counterTime c => exact h.aside aside.counterTime
  | bothTimes c => exact h.aside aside.motorTime.counterTime
  | terminal t cfg _ => exact h.setTerminal
  | page p n w _ _ => exact h.aside { aside with }
  | trafficReset => exact h.trafficCleared
  | markEdge c | breakBegun c | sent c => exact h.aside aside.modCircuit
  | goodCode c code => exact h.goodCode
  | badStop c code => exact h.badStop
  | lost c => exact (h.aside aside.modCircuit).leaveService.aside (Aside.refl _).raise
  | restored c _ => exact h.aside (aside.modCircuit.modOutlet rfl rfl rfl).raise
  | terminalCharacter t stop bad ch _ => exact (h.aside aside.modPort.modPort).sortChar
  | terminalSent t => exact h.aside aside.modPort
  | readyRises t _ => exact h.aside aside.modPort.unstalled
  | readyFalls t _ => exact h.aside aside.modPort.paused
  | framerTake t => exact h.takeHead
  | idleExpiry k => exact h.expireIdle
  | blockExpiry k => exact h.expireBlock
  | stall t => exact h.stallOutlet

theorem powerOn (s : State) : (powerOn s).Consistent := by
  have bare : ∀ o, (State.reset.outlet o).waiting = [] ∧ (State.reset.outlet o).holder = none
      ∧ (State.reset.outlet o).owed = [] := by decide
  refine .empty (fun k => ?_) (fun i => ?_) rfl ⟨le_refl 1, (by decide : (1 : Nat) ≤ 9999)⟩ bare
  · simp [Machine.powerOn, State.story, State.reset]
  · simp [Machine.powerOn, State.framer, State.reset]

theorem takeSnapshot (h : s.Consistent) (x : Selected) : (takeSnapshot x s).Consistent := by
  suffices marks : (s.clearMarks x).Consistent by
    unfold Machine.takeSnapshot
    exact marks.aside (Aside.refl _).modRegs
  cases x with
  | story k => exact h.marked
  | circuit c =>
    unfold State.clearMarks
    exact h.aside (Aside.refl s).modCircuit
  | desk i | terminal t | outlet o | page p | table => exact h

theorem quietly (h : s.Consistent) (e : Quietly s u) : u.Consistent := by
  have aside := Aside.refl s
  cases e with
  | same => exact h
  | powerOn => exact .powerOn s
  | retire k closed free => exact h.freeRecord closed free
  | retireClosed =>
    exact freeRecords_ok ((List.nodup_finRange 48).filter _) h fun k hk => (List.mem_filter.1 hk).2
  | number n least most => exact h.setNumber least most
  | replaceDesk i d _ _ | addDesk i d _ _ => exact h.aside aside.putDesk
  | removeDesk i => exact h.aside aside.setDesk
  | pending c cfg _ => exact h.aside aside.modRegs.modCircuit
  | draft _ | clock _ _ | blockLimit _ _ _ | argument _ _ | clockRead | select _ | windowRead _ =>
    exact h.aside aside.modRegs
  | snapshot x => exact h.takeSnapshot x
  | notice v | noticeEnable v => exact h.aside { aside with }
  | spaceEdge c | falseStart c _ | surveyEdge c _ _ => exact h.aside aside.modCircuit
  | insideEdge c _ _ | lateEdge c _ _ _ => exact h.aside aside.judgedEdge
  | timeFill c _ => exact h.aside aside.takeFill
  | startEdge t | terminalFalseStart t | markReturn t | readyPin t _ _ => exact h.aside aside.modPort
  | second => exact h.secondPasses

end State.Consistent

/-! ## Obligation -/

/-- Settles O6: every effect keeps the traffic consistent, and so do the reactions of the outlets. -/
theorem stepKeepsTrafficConsistent : Obligations.StepKeepsTrafficConsistent :=
  fun _ _ => step_keeps (fun s _ h => h.aside { Aside.refl s with })
    (fun s _ _ _ h => h.aside (Aside.refl s).modRegs) (fun _ _ h e => (h.acts e).settle)
    (fun _ _ h e => h.quietly e)

end Sys2Proof.Machine

/-! PROOF. What every step keeps of the records that stand alone (R28, R51, R52, R101 to R103, R154, R170, R175,
R176). Traffic leaves them as they are (`Traffic`); the few effects that write them are named here (`Adjusts`),
so that each invariant is shown for those alone. -/

namespace Sys2Proof.Machine

variable {s u v : State}

/-! ## Effects that are traffic -/

namespace Traffic

/-- A change of a circuit that leaves both its configurations. -/
theorem circuitApart (h : Traffic s u) {c : Fin 16} {f : Circuit → Circuit}
    (config : ∀ x, (f x).config = x.config) (pending : ∀ x, (f x).pendingConfig = x.pendingConfig) :
    Traffic s (u.modCircuit c f) := by
  refine h.modCircuit fun ok => ?_
  unfold Circuit.ConfigOk
  rw [config, pending]
  exact ok

/-- A change of a circuit that keeps any circuit's configurations lawful. -/
theorem circuitKeeps (h : Traffic s u) {c : Fin 16} {f : Circuit → Circuit}
    (keeps : ∀ x : Circuit, x.ConfigOk → (f x).ConfigOk) : Traffic s (u.modCircuit c f) :=
  h.modCircuit (keeps (u.circuit c))

/-- A change of a port that leaves its configuration and its queue. -/
theorem portApart (h : Traffic s u) {t : Fin 8} {f : Port → Port}
    (config : ∀ x, (f x).config = x.config) (queue : ∀ x : Port, x.QueueOk → (f x).QueueOk) :
    Traffic s (u.modPort t f) :=
  h.modPort config (queue (u.port t))

theorem requestAnswerback (h : Traffic s u) {c : Fin 16} {e : RxEntry} :
    Traffic s (requestAnswerback c e u) := by
  unfold Machine.requestAnswerback
  split
  · exact h.modOutlet
  · exact h

theorem handToFramer (h : Traffic s u) {c : Fin 16} {ch : Option Office} :
    Traffic s (handToFramer c ch u) := by
  cases ch with
  | none => exact h
  | some o => exact h.takeChar

theorem goodCode (h : Traffic s u) {c : Fin 16} {code : Code} : Traffic s (goodCode c code u) := by
  unfold Machine.goodCode
  dsimp only
  refine Traffic.circuitApart (Traffic.requestAnswerback (Traffic.handToFramer ?_)) ?_ ?_
  · exact h.circuitApart (fun _ => rfl) fun _ => rfl
  · exact fun _ => rfl
  · exact fun _ => rfl

theorem gotSpace_config (x : Circuit) (code : Code) (ok : x.ConfigOk) : (x.gotSpace code).ConfigOk := by
  unfold Circuit.gotSpace
  split <;> exact ok

theorem badStop (h : Traffic s u) {c : Fin 16} {code : Code} : Traffic s (badStop c code u) := by
  unfold Machine.badStop
  exact Traffic.handToFramer (h.circuitKeeps fun x => gotSpace_config x code)

theorem store_length {x : Parser} {ch : Office} (ok : x.buffer.length ≤ 32) :
    (x.store ch).buffer.length ≤ 32 := by
  unfold Parser.store
  split
  · simp only [List.length_append, List.length_singleton]
    omega
  · exact ok

theorem offerQueue (h : Traffic s u) {t : Fin 8} {ch : Office} : Traffic s (offerQueue t ch u) := by
  unfold Machine.offerQueue
  split
  · next room =>
    refine h.modPort (fun _ => rfl) fun ok => withQueue_ok ?_ ok
    simp only [List.length_append, List.length_singleton]
    omega
  · exact h.modPortCounts.raise

theorem sortRest (h : Traffic s u) {t : Fin 8} {ch : Office} : Traffic s (sortRest t ch u) := by
  unfold Machine.sortRest
  split
  · unfold toParser
    split
    · exact Traffic.completeRequest (h.portApart (by intro; rfl) (by intro x q; exact q))
    · exact h.modParser fun x => store_length
  · split
    · unfold beginRequest
      exact Traffic.modParser (h.portApart (by intro; rfl) (by intro x q; exact q))
        (by intro x _; simp [Parser.begin])
    · exact h.offerQueue

theorem sortChar (h : Traffic s u) {t : Fin 8} {ch : Office} : Traffic s (sortChar t ch u) := by
  unfold Machine.sortChar
  split
  · exact h.modPortCounts
  · split
    · dsimp only
      split
      · exact h.portApart (fun _ => rfl) fun _ q => q
      · exact Traffic.sortRest (h.portApart (by intro; rfl) (by intro x q; exact q))
    · exact h.sortRest

theorem atStop (h : Traffic s u) {t : Fin 8} {stop : Signal} :
    Traffic s (u.modPort t fun p => p.atStop stop) := by
  refine h.modPort (fun x => ?_) fun ok => ?_
  · cases stop <;> rfl
  · cases stop <;> exact ok

theorem closeCircuit (h : Traffic s u) {c : Fin 16} : Traffic s (closeCircuit c u) := by
  unfold Machine.closeCircuit
  exact Traffic.modControl
    (Traffic.leaveService (h.circuitApart (by intro; rfl) (by intro; rfl))) (by intro; rfl)

theorem openCircuit (h : Traffic s u) {c : Fin 16} : Traffic s (openCircuit c u) := by
  unfold Machine.openCircuit
  exact Traffic.modOutlet (h.circuitApart (by intro; rfl) (by intro; rfl))

theorem configOk_hunt {x : Circuit} (ok : x.ConfigOk) : x.hunt.ConfigOk := ok

theorem endSurvey_config (x : Circuit) (r : SurveyResult) (ok : x.ConfigOk) :
    (x.endSurvey r).ConfigOk := by
  unfold Circuit.endSurvey
  cases x.state <;> exact ok

theorem startSurvey_config (x : Circuit) (g : SurveyGate) (b : Bool) (ok : x.ConfigOk) :
    (x.startSurvey g b).ConfigOk := by
  unfold Circuit.startSurvey
  cases x.state <;> exact ok

theorem valid_class {cfg : CircuitConfig} {k : Nat} (ok : cfg.valid = true) (least : 1 ≤ k)
    (most : k ≤ 7) : ({ cfg with speedClass := k } : CircuitConfig).valid = true := by
  simp only [CircuitConfig.valid, Bool.and_eq_true, decide_eq_true_eq] at ok ⊢
  simp_all

theorem betterClass_mem {cfg : CircuitConfig} {p : Nat} {l : List Nat} {b : Option Nat} {k : Nat}
    (h : l.foldl (betterClass cfg p) b = some k) : k ∈ l ∨ b = some k := by
  induction l generalizing b with
  | nil => exact .inr h
  | cons a l ih =>
    rcases ih h with mem | found
    · exact .inl (List.mem_cons_of_mem a mem)
    · unfold betterClass at found
      split at found
      · split at found
        · exact .inl (by simp_all)
        · split at found
          · exact .inl (by simp_all)
          · exact .inr found
      · exact .inr found

theorem judgeSurvey_range {cfg : CircuitConfig} {r : SurveyRecord} {k : Nat}
    (h : judgeSurvey cfg r = .speedClass k) : 1 ≤ k ∧ k ≤ 7 := by
  unfold judgeSurvey at h
  split at h
  · cases h
  · split at h
    · next found =>
      cases h
      rcases betterClass_mem found with mem | none
      · simp only [List.mem_cons, List.not_mem_nil, or_false] at mem
        omega
      · cases none
    · cases h

theorem adoptClass (h : Traffic s u) {c : Fin 16} {k : Nat} (least : 1 ≤ k) (most : k ≤ 7) :
    Traffic s (adoptClass c k u) := by
  have marked := h.circuitApart (c := c)
    (f := fun x => { x with surveyRec := { x.surveyRec with adopted := true } }) (fun _ => rfl) fun _ => rfl
  unfold Machine.adoptClass
  dsimp only
  split
  · next p waiting =>
    refine marked.modCircuit fun ok => ⟨ok.1, ?_⟩
    rintro q ⟨⟩
    exact valid_class (ok.2 p waiting) least most
  · split
    · exact marked.modCircuit fun ok => apply_config (valid_class ok.1 least most)
    · refine marked.modCircuit fun ok => ⟨ok.1, ?_⟩
      rintro q ⟨⟩
      exact valid_class ok.1 least most

theorem finishSurvey (h : Traffic s u) {c : Fin 16} : Traffic s (finishSurvey c u) := by
  unfold Machine.finishSurvey
  dsimp only
  generalize judged : judgeSurvey (u.circuit c).config (u.circuit c).surveyRec = r
  have ended := h.modCircuit (c := c) (f := fun x => x.endSurvey r) (endSurvey_config _ r)
  unfold adoptResult
  refine Traffic.raise ?_
  cases r with
  | speedClass k =>
    obtain ⟨least, most⟩ := judgeSurvey_range judged
    dsimp only
    split
    · exact ended.adoptClass least most
    · exact ended
  | noSignal | noMatch | cancelled => exact ended

theorem spaceEdge_config (x : Circuit) (ok : x.ConfigOk) : x.spaceEdge.ConfigOk := by
  unfold Circuit.spaceEdge
  dsimp only
  split_ifs <;> exact ok

theorem markEdge_config (x : Circuit) (ok : x.ConfigOk) : x.markEdge.ConfigOk := by
  unfold Circuit.markEdge
  cases x.rxPhase with
  | farBreak =>
    dsimp only
    unfold Circuit.breakEnded
    split_ifs <;> exact ok
  | hunting =>
    dsimp only
    unfold Circuit.allSpaceOver
    split_ifs <;> exact ok
  | idle =>
    dsimp only
    split_ifs <;> exact ok
  | inCharacter => exact ok

theorem slipped_config {x : Circuit} {y : Slip} (ok : x.ConfigOk) : (x.slipped y).ConfigOk := by
  cases y <;> exact ok

theorem judgedEdge (h : Traffic s u) {c : Fin 16} {n : Nat} {f : Circuit → Circuit}
    (keeps : ∀ x : Circuit, x.ConfigOk → (f x).ConfigOk) : Traffic s (judgedEdge c n f u) := by
  unfold Machine.judgedEdge
  refine Traffic.raiseIf (h.modCircuit ?_)
  exact fun ok => slipped_config (keeps _ ok)

theorem lateEdge_config (x : Circuit) (level : Signal) (ok : x.ConfigOk) : (x.lateEdge level).ConfigOk := by
  cases level with
  | space => exact spaceEdge_config x ok
  | mark => exact markEdge_config x ok

theorem takeFill (h : Traffic s u) {c : Fin 16} : Traffic s (takeFill c u) := by
  unfold Machine.takeFill
  exact Traffic.modOutlet
    (Traffic.modControl (h.circuitApart (by intro; rfl) (by intro; rfl)) (by intro; rfl))

theorem startEdge (h : Traffic s u) {t : Fin 8} : Traffic s (u.modPort t fun p => p.startEdge) := by
  refine h.modPort (fun x => ?_) fun ok => ?_
  · unfold Port.startEdge
    split <;> rfl
  · unfold Port.startEdge
    split <;> exact ok

theorem falseStart (h : Traffic s u) {t : Fin 8} : Traffic s (u.modPort t fun p => p.falseStart) := by
  refine h.modPort (fun x => ?_) fun ok => ?_
  · unfold Port.falseStart
    split <;> rfl
  · unfold Port.falseStart
    split <;> exact ok

theorem stallOutlet (h : Traffic s u) {t : Fin 8} : Traffic s (stallOutlet t u) := by
  unfold Machine.stallOutlet
  exact Traffic.raise
    (Traffic.portApart (Traffic.modOutlet h.cutOutlet) (by intro; rfl) (by intro x q; exact q))

theorem writeSelector_settings (n : Nat) (x : Selector) (y : Control) :
    (writeSelector n x y).settings = y.settings := by
  unfold writeSelector
  split <;> rfl

theorem applyPending_config (x : Circuit) (ok : x.ConfigOk) : x.applyPending.ConfigOk := by
  unfold Circuit.applyPending
  split
  · next p waiting => exact apply_config (ok.2 p waiting)
  · exact ok

theorem trafficReset_config (x : Circuit) (ok : x.ConfigOk) : x.trafficReset.ConfigOk := by
  have dropped : x.dropSurvey.ConfigOk := by
    unfold Circuit.dropSurvey
    split <;> exact ok
  unfold Circuit.trafficReset
  dsimp only
  cases x.state with
  | closed => exact applyPending_config _ dropped
  | opened | lost => exact applyPending_config _ dropped

theorem trafficReset_queue (p : Port) (ok : p.QueueOk) : p.trafficReset.QueueOk := by
  unfold Port.trafficReset
  split
  · exact ⟨Nat.zero_le 16, fun h => absurd h (by simp), fun _ _ => rfl⟩
  · exact ok

/-- A traffic reset is traffic but for the host port's registers. -/
theorem trafficCleared (h : Traffic s u) :
    ∃ w, Traffic s w ∧ Machine.trafficCleared u = w.modRegs fun r => r.trafficReset := by
  refine ⟨_, ?_, rfl⟩
  refine Traffic.forEach (fun c w g => g.modControl fun _ => rfl) ?_
  refine Traffic.forEach (fun t w g => ?_) ?_
  · unfold resetTerminal
    refine Traffic.modParser (Traffic.portApart g.modOutlet (fun x => ?_) trafficReset_queue)
      fun _ _ => Nat.zero_le _
    unfold Port.trafficReset
    split <;> rfl
  refine Traffic.forEach (fun c w g => ?_) ?_
  · unfold resetCircuit
    exact Traffic.circuitKeeps g.modOutlet trafficReset_config
  exact h.trans {
    regs := rfl, pages := fun _ => rfl, pending := rfl, enables := rfl, interrupt := fun _ => rfl
    circuits := fun _ => id, ports := fun _ => rfl, queues := fun _ => id, settings := fun _ => rfl
    parsers := fun _ => id, desks := fun _ => rfl }

end Traffic

/-! ## The effects that are not -/

/-- A change of the host port's registers that keeps the clock, its capture and the block limit in range. -/
def HostRegs.Ranged (r : HostRegs) : Prop :=
  r.clock ≤ 86399 ∧ r.capture ≤ 86399 ∧ 5 ≤ r.blockLimit ∧ r.blockLimit ≤ 300

/-- What an effect does to the records that stand alone: nothing that traffic does not do, or one of the
writes that name them. -/
inductive Adjusts (s : State) : State → Prop
  | traffic {u : State} (h : Traffic s u) : Adjusts s u
  | registers {v u : State} (f : HostRegs → HostRegs) (before : Traffic s v) (after : Traffic (v.modRegs f) u)
      (ranged : ∀ r : HostRegs, r.Ranged → (f r).Ranged) : Adjusts s u
  | configure (c : Fin 16) (cfg : CircuitConfig) (f : HostRegs → HostRegs) (g : Circuit → Circuit)
      (valid : ∀ x : Circuit, x.ConfigOk → (g x).ConfigOk)
      (ranged : ∀ r : HostRegs, r.Ranged → (f r).Ranged) : Adjusts s ((s.modRegs f).modCircuit c g)
  | counter (c : Fin 16) (x : CounterSettings) (a : CounterAction) (valid : x.valid = true) :
      Adjusts s (s.modControl c fun y => y.start x a)
  | terminal {v u : State} (t : Fin 8) (f : Port → Port) (before : Traffic s v)
      (after : Traffic (v.modPort t f) u) (valid : ∀ p, (f p).config.valid = true)
      (queue : ∀ p : Port, p.QueueOk → (f p).QueueOk) : Adjusts s u
  | page (p : Fin 4) (x : Page) (written : p ≠ 0) : Adjusts s (s.setPage p x)
  | powerOn : Adjusts s (powerOn s)
  | replaceDesk (i : Fin 32) (d : Desk) (other : d.fallback ≠ some d.code)
      (found : s.findDesk d.code = some i) : Adjusts s (putDesk i { d with routed := s.routedAt i } s)
  | addDesk (i : Fin 32) (d : Desk) (other : d.fallback ≠ some d.code)
      (new : s.findDesk d.code = none) : Adjusts s (putDesk i d s)
  | removeDesk (i : Fin 32) : Adjusts s (s.setDesk i none)
  | notice (v : Word) : Adjusts s (writeNotice v s)
  | noticeEnable (v : Word) : Adjusts s (writeNoticeEnable v s)

theorem enable_queue (p : Port) (cfg : PortConfig) : (p.enable cfg).QueueOk :=
  ⟨Nat.zero_le 16, fun h => absurd h (by simp [Port.enable]), fun _ _ => rfl⟩

theorem disable_queue (p : Port) (cfg : PortConfig) : (p.disable cfg).QueueOk :=
  ⟨Nat.zero_le 16, fun h => absurd h (by simp [Port.disable]), fun h => absurd h (by simp [Port.disable])⟩

theorem Adjusts.setTerminal {t : Fin 8} {cfg : PortConfig} (valid : cfg.valid = true) :
    Adjusts s (setTerminal t cfg s) := by
  unfold Machine.setTerminal
  split
  · unfold enablePort
    exact .terminal t (fun p => p.enable cfg) (.refl s) (Traffic.modOutlet (.refl _)) (fun _ => valid)
      fun p _ => enable_queue p cfg
  · exact .terminal t (fun p => p.reconfigure cfg) (.refl s) (.refl _) (fun _ => valid) fun _ => id
  · unfold turnOff
    split
    · unfold disablePort
      refine .terminal t (fun p => p.disable cfg) (Traffic.outletOff (Traffic.loseSource (.refl s)))
        (Traffic.modParser (.refl _) ?_) (fun _ => valid) fun p _ => disable_queue p cfg
      exact fun _ _ => Nat.zero_le _
    · exact .terminal t (fun p => { p with config := cfg }) (.refl s) (.refl _) (fun _ => valid) fun _ => id

theorem Acts.adjusts (e : Acts s u) : Adjusts s u := by
  have start := Traffic.refl s
  cases e with
  | same => exact .traffic start
  | kill k _ _ => exact .traffic start.killStory
  | hold k _ _ => exact .traffic start.holdStory
  | release k _ => exact .traffic start.releaseStory
  | priority k p _ => exact .traffic start.setPriority
  | add k o _ _ => exact .traffic start.addOutlet
  | drop k o => exact .traffic start.cutEntry
  | configure c cfg valid =>
    exact .configure c cfg _ (fun x => x.apply cfg) (fun _ _ => Traffic.apply_config valid) fun _ => id
  | openCircuit c _ _ => exact .traffic start.openCircuit
  | closeCircuit c => exact .traffic start.closeCircuit
  | closeSurveyed c _ => exact .traffic start.cancelSurvey.closeCircuit
  | cancelSurvey c _ => exact .traffic start.cancelSurvey
  | startSurvey c gate adopt =>
    exact .traffic (start.circuitKeeps fun x => Traffic.startSurvey_config x gate adopt).resetFramer
  | finishSurvey c _ => exact .traffic start.finishSurvey
  | releaseCounter c | forceCounter c => exact .traffic (start.modControl fun _ => rfl)
  | startCounter c x a valid _ => exact .counter c x a valid
  | selector c n x => exact .traffic (start.modControl (Traffic.writeSelector_settings n x))
  | terminal t cfg valid => exact .setTerminal valid
  | page p n w written _ => exact .page p _ written
  | trafficReset =>
    obtain ⟨w, before, eq⟩ := start.trafficCleared
    rw [eq]
    exact .registers _ before (.refl _) fun _ => id
  | markEdge c => exact .traffic (start.circuitKeeps Traffic.markEdge_config)
  | breakBegun c | sent c => exact .traffic (start.circuitApart (fun _ => rfl) fun _ => rfl)
  | goodCode c code => exact .traffic start.goodCode
  | badStop c code => exact .traffic start.badStop
  | lost c => exact .traffic (start.circuitApart (f := _) (by intro; rfl) (by intro; rfl)).leaveService.raise
  | restored c _ => exact .traffic (start.circuitApart (f := _) (by intro; rfl) (by intro; rfl)).modOutlet.raise
  | terminalCharacter t stop bad ch _ => exact .traffic start.atStop.modPortCounts.sortChar
  | terminalSent t => exact .traffic (start.portApart (by intro; rfl) (by intro x q; exact q))
  | readyRises t _ | readyFalls t _ => exact .traffic (start.portApart (by intro; rfl) (by intro x q; exact q)).modOutlet
  | framerTake t => exact .traffic start.takeHead
  | idleExpiry k => exact .traffic start.expireIdle
  | blockExpiry k => exact .traffic start.expireBlock
  | stall t => exact .traffic start.stallOutlet
  | motorTime c => exact .traffic (start.modControl Control.settings_motorTick)
  | counterTime c => exact .traffic (start.modControl fun x => Control.settings_countTick x _)
  | bothTimes c =>
    exact .traffic ((start.modControl Control.settings_motorTick).modControl
      fun x => Control.settings_countTick x _)

theorem nextSecond_le {n : Nat} : nextSecond n ≤ 86399 := by
  unfold nextSecond
  split <;> omega

theorem Adjusts.secondPasses : Adjusts s (secondPasses s) := by
  refine .registers (fun r => { r with clock := nextSecond r.clock }) (.refl s) ?_
    fun r h => ⟨nextSecond_le, h.2⟩
  exact Traffic.forEach (fun _ _ g => g.modOutlet) (Traffic.forEach (fun _ _ g => g.setStory)
    (Traffic.forEach (fun _ _ g => g.circuitApart (by intro; rfl) (by intro; rfl)) (.refl _)))

theorem Adjusts.takeSnapshot (x : Selected) : Adjusts s (takeSnapshot x s) := by
  refine .registers (fun r => { r with snapshot := s.viewOf x, readData := (s.viewOf x).headD 0#16 })
    (v := s.clearMarks x) ?_ (.refl _) fun _ => id
  cases x with
  | story k => exact Traffic.setStory (.refl s)
  | circuit c =>
    unfold State.clearMarks
    exact Traffic.circuitApart (.refl s) (fun _ => rfl) fun _ => rfl
  | desk i | terminal t | outlet o | page p | table => exact .refl s

theorem Quietly.adjusts (e : Quietly s u) : Adjusts s u := by
  have start := Traffic.refl s
  cases e with
  | same => exact .traffic start
  | powerOn => exact .powerOn
  | retire k _ _ => exact .traffic start.freeRecord
  | retireClosed => exact .traffic (.forEach (fun _ _ h => h.freeRecord) start)
  | number n _ _ => exact .traffic (start.table (l := s.openOrder) (n := n))
  | replaceDesk i d other found => exact .replaceDesk i d other found
  | addDesk i d other new => exact .addDesk i d other new
  | removeDesk i => exact .removeDesk i
  | pending c cfg valid =>
    exact .configure c cfg _ _ (fun x ok => ⟨ok.1, by rintro p ⟨⟩; exact valid⟩) fun _ => id
  | clock n inDay => exact .registers _ start (.refl _) fun _ h => ⟨inDay, h.2⟩
  | blockLimit n least most => exact .registers _ start (.refl _) fun _ h => ⟨h.1, h.2.1, least, most⟩
  | clockRead => exact .registers _ start (.refl _) fun _ h => ⟨h.1, h.1, h.2.2⟩
  | draft _ | argument _ _ | select _ | windowRead _ => exact .registers _ start (.refl _) fun _ => id
  | snapshot x => exact .takeSnapshot x
  | notice v => exact .notice v
  | noticeEnable v => exact .noticeEnable v
  | spaceEdge c => exact .traffic (start.circuitKeeps Traffic.spaceEdge_config)
  | falseStart c _ | surveyEdge c _ _ => exact .traffic (start.circuitApart (fun _ => rfl) fun _ => rfl)
  | insideEdge c _ _ => exact .traffic (start.judgedEdge fun _ => id)
  | lateEdge c level _ _ => exact .traffic (start.judgedEdge (Traffic.lateEdge_config · level))
  | timeFill c _ => exact .traffic start.takeFill
  | startEdge t => exact .traffic start.startEdge
  | terminalFalseStart t => exact .traffic start.falseStart
  | markReturn t | readyPin t _ _ => exact .traffic (start.portApart (by intro; rfl) (by intro x q; exact q))
  | second => exact .secondPasses

/-- An invariant of the records that stand alone holds after every step if traffic and every adjustment
keep it. -/
theorem step_adjusts {P : State → Prop} (queue : ∀ s q, P s → P (s.withPending q))
    (answer : ∀ s n code words, P s → P (State.answer s n code words))
    (traffic : ∀ s u, P s → Traffic s u → P u) (adjusts : ∀ s u, P s → Adjusts s u → P u)
    {t : State} (h : P s) (e : step s = .next t) : P t :=
  step_keeps queue answer
    (fun _ _ h e => traffic _ _ (adjusts _ _ h e.adjusts) (Traffic.settle (.refl _)))
    (fun _ _ h e => adjusts _ _ h e.adjusts) h e

/-! ## The clock, the block limit and page 0 -/

theorem State.RegistersOk.traffic (h : s.RegistersOk) (t : Traffic s u) : u.RegistersOk := by
  unfold State.RegistersOk
  rw [t.regs]
  exact h

theorem State.PageZeroOk.traffic (h : s.PageZeroOk) (t : Traffic s u) : u.PageZeroOk :=
  (t.pages 0).trans h

/-! ## The state that power-on reset leaves -/

theorem powerOn_regs : (powerOn s).regs = {} := rfl

theorem powerOn_notices : (powerOn s).notices = {} := rfl

theorem powerOn_circuit (c : Fin 16) : (powerOn s).circuit c = { rxLine := (s.circuit c).rxLine } := by
  simp [powerOn, State.circuit]

theorem powerOn_port (t : Fin 8) : (powerOn s).port t =
    { rxMark := (s.port t).rxMark, readyPin := (s.port t).readyPin, readyIn := (s.port t).readyPin } := by
  simp [powerOn, State.port]

theorem powerOn_parser (t : Fin 8) : (powerOn s).parser t = {} := by
  simp [powerOn, State.reset, State.parser]

theorem powerOn_control (c : Fin 16) : (powerOn s).control c = {} := by
  simp [powerOn, State.reset, State.control]

theorem powerOn_desk (i : Fin 32) : (powerOn s).desk i = none := by
  simp [powerOn, State.reset, State.desk]

theorem powerOn_registersOk : (powerOn s).RegistersOk :=
  (by decide : 0 ≤ 86399 ∧ 0 ≤ 86399 ∧ 5 ≤ 30 ∧ 30 ≤ 300)

theorem powerOn_interruptOk : (powerOn s).InterruptOk :=
  (by decide : ({} : Notices).interrupt = interruptLevel 0#11 0#11)

theorem powerOn_queuesOk : (powerOn s).QueuesOk := by
  intro p
  simp [powerOn_port, Port.QueueOk]

theorem powerOn_parsersOk : (powerOn s).ParsersOk := by
  intro p
  simp [powerOn_parser]

theorem powerOn_directoryOk : (powerOn s).DirectoryOk :=
  ⟨fun i j d e hd => absurd hd (by simp [powerOn_desk]),
    fun i j d e hd => absurd hd (by simp [powerOn_desk]),
    fun i d hd => absurd hd (by simp [powerOn_desk])⟩

theorem powerOn_configsOk : (powerOn s).ConfigsOk := by
  refine ⟨fun c => ?_, fun t => ?_, fun c => ?_⟩
  · rw [powerOn_circuit]
    exact ⟨(by decide : ({} : CircuitConfig).valid = true), nofun⟩
  · rw [powerOn_port]
    exact (by decide : ({} : PortConfig).valid = true)
  · rw [powerOn_control]
    decide

/-! ## A desk entry put in a position -/

theorem forEach_setDesk (f : Desk → Desk) (again : ∀ d, f (f d) = f d) (l : List (Fin 32)) (s : State)
    (j : Fin 32) :
    (forEach l (fun i t => t.setDesk i ((t.desk i).map f)) s).desk j =
      if j ∈ l then (s.desk j).map f else s.desk j := by
  induction l generalizing s with
  | nil => rfl
  | cons i l ih =>
    rw [forEach_cons, ih]
    by_cases here : j = i
    · subst here
      cases s.desk j <;> simp [again]
    · simp [here]

theorem clearDefaults_desk (s : State) (j : Fin 32) :
    (clearDefaults s).desk j = (s.desk j).map Desk.notDefault := by
  rw [clearDefaults, forEach_setDesk Desk.notDefault (fun _ => rfl)]
  exact if_pos (List.mem_finRange j)

/-- What the default marks' clearing leaves: every record but the desks. -/
theorem clearDefaults_keeps {P : State → Prop} (keeps : ∀ s i d, P s → P (s.setDesk i d)) (h : P s) :
    P (clearDefaults s) :=
  forEach_keeps (fun _ _ => keeps _ _ _) h

theorem putDesk_keeps {P : State → Prop} (keeps : ∀ s i d, P s → P (s.setDesk i d)) (h : P s)
    {i : Fin 32} {d : Desk} : P (putDesk i d s) := by
  unfold putDesk
  split
  · exact keeps _ _ _ (clearDefaults_keeps keeps h)
  · exact keeps _ _ _ h

theorem putDesk_desk (i : Fin 32) (d : Desk) (s : State) (j : Fin 32) :
    (putDesk i d s).desk j =
      if j = i then some d else if d.isDefault then (s.desk j).map Desk.notDefault else s.desk j := by
  unfold putDesk
  rw [State.desk_setDesk]
  split_ifs
  · rfl
  · exact clearDefaults_desk s j
  · rfl

/-- Settles O7: only the commands and reads of the clock, the block limit's command and the second write
these registers, each inside the range, and PAGE_WRITE never writes page 0. -/
theorem stepKeepsClockLimitAndStandardPage : Obligations.StepKeepsClockLimitAndStandardPage := by
  refine fun s t => step_adjusts (P := fun s => s.RegistersOk ∧ s.PageZeroOk) (fun _ _ => id)
    (fun _ _ _ _ => id) (fun s u h t => ⟨h.1.traffic t, h.2.traffic t⟩) fun s u ⟨regs, page⟩ e => ?_
  cases e with
  | traffic h => exact ⟨regs.traffic h, page.traffic h⟩
  | @registers v _ f before after ranged =>
    have left := page.traffic before
    exact ⟨State.RegistersOk.traffic (s := v.modRegs f) (ranged _ (regs.traffic before)) after,
      State.PageZeroOk.traffic (s := v.modRegs f) left after⟩
  | configure c cfg f g _ ranged => exact ⟨ranged _ regs, page⟩
  | @terminal v _ t f before after _ _ =>
    have regsLeft := regs.traffic before
    have pageLeft := page.traffic before
    exact ⟨State.RegistersOk.traffic (s := v.modPort t f) regsLeft after,
      State.PageZeroOk.traffic (s := v.modPort t f) pageLeft after⟩
  | page p x written =>
    refine ⟨regs, ?_⟩
    simpa [State.PageZeroOk, written.symm] using page
  | powerOn => exact ⟨powerOn_registersOk, rfl⟩
  | replaceDesk i d _ _ | addDesk i d _ _ =>
    exact putDesk_keeps (P := fun s => s.RegistersOk ∧ s.PageZeroOk) (fun _ _ _ => id) ⟨regs, page⟩
  | counter c _ _ _ | removeDesk i | notice v | noticeEnable v => exact ⟨regs, page⟩

/-! ## The interrupt output -/

/-- Settles O8: each write of a flag or an enable recomputes the output. -/
theorem stepKeepsInterruptOutputRight : Obligations.StepKeepsInterruptOutputRight := by
  refine fun s t => step_adjusts (P := State.InterruptOk) (fun _ _ => id) (fun _ _ _ _ => id)
    (fun s u h t => t.interrupt h) fun s u h e => ?_
  cases e with
  | traffic t => exact t.interrupt h
  | registers f before after _ => exact after.interrupt (before.interrupt h)
  | terminal t f before after _ _ => exact after.interrupt (before.interrupt h)
  | powerOn => exact powerOn_interruptOk
  | replaceDesk i d _ _ | addDesk i d _ _ =>
    exact putDesk_keeps (P := State.InterruptOk) (fun _ _ _ => id) h
  | notice v | noticeEnable v => exact rfl
  | configure c cfg f g _ _ | counter c _ _ _ | page p x _ | removeDesk i => exact h

/-! ## Input queues and request buffers -/

/-- Settles O10: a queue grows only where it has room, and ready out follows each change of it; a port is
enabled with an empty queue. -/
theorem stepKeepsQueuesBoundedAndReadyOutRight : Obligations.StepKeepsQueuesBoundedAndReadyOutRight := by
  refine fun s t => step_adjusts (P := fun s => s.QueuesOk ∧ s.ParsersOk) (fun _ _ => id)
    (fun _ _ _ _ => id)
    (fun s u h t => ⟨fun p => t.queues p (h.1 p), fun p => t.parsers p (h.2 p)⟩)
    fun s u ⟨queues, parsers⟩ e => ?_
  cases e with
  | traffic t => exact ⟨fun p => t.queues p (queues p), fun p => t.parsers p (parsers p)⟩
  | registers f before after _ =>
    exact ⟨fun p => after.queues p (before.queues p (queues p)),
      fun p => after.parsers p (before.parsers p (parsers p))⟩
  | terminal t f before after _ queue =>
    refine ⟨fun p => after.queues p ?_, fun p => after.parsers p (before.parsers p (parsers p))⟩
    have left := before.queues p (queues p)
    rw [State.port_modPort]
    split_ifs with here
    · exact queue _ (before.queues t (queues t))
    · exact left
  | powerOn => exact ⟨powerOn_queuesOk, powerOn_parsersOk⟩
  | replaceDesk i d _ _ | addDesk i d _ _ =>
    exact putDesk_keeps (P := fun s => s.QueuesOk ∧ s.ParsersOk) (fun _ _ _ => id) ⟨queues, parsers⟩
  | configure c cfg f g _ _ | counter c _ _ _ | page p x _ | removeDesk i | notice v | noticeEnable v =>
    exact ⟨queues, parsers⟩

/-! ## The desk directory -/

theorem Desk.fixed_code {d e : Desk} (h : d.fixed = e.fixed) : d.code = e.code :=
  (Desk.mk.inj h).1

theorem Desk.fixed_isDefault {d e : Desk} (h : d.fixed = e.fixed) : d.isDefault = e.isDefault :=
  (Desk.mk.inj h).2.2.2.2.1

theorem Desk.fixed_fallback {d e : Desk} (h : d.fixed = e.fixed) : d.fallback = e.fallback :=
  (Desk.mk.inj h).2.2.2.1

/-- Whether the directory is lawful is a matter of its entries' codes, marks and fallbacks: it stays so
when each entry comes from one in its place, with the same code and fallback, and no new mark. -/
theorem State.DirectoryOk.of_entries (h : s.DirectoryOk)
    (from_ : ∀ i d, u.desk i = some d → ∃ e, s.desk i = some e ∧ d.code = e.code
      ∧ (d.isDefault = true → e.isDefault = true) ∧ d.fallback = e.fallback) : u.DirectoryOk where
  codes i j d e hd he same := by
    obtain ⟨d', hd', cd, _, _⟩ := from_ i d hd
    obtain ⟨e', he', ce, _, _⟩ := from_ j e he
    exact h.codes i j d' e' hd' he' (cd.symm.trans (same.trans ce))
  oneDefault i j d e hd he markD markE := by
    obtain ⟨d', hd', _, md, _⟩ := from_ i d hd
    obtain ⟨e', he', _, me, _⟩ := from_ j e he
    exact h.oneDefault i j d' e' hd' he' (md markD) (me markE)
  fallback i d hd := by
    obtain ⟨d', hd', cd, _, fd⟩ := from_ i d hd
    rw [cd, fd]
    exact h.fallback i d' hd'

theorem State.DirectoryOk.traffic (h : s.DirectoryOk) (t : Traffic s u) : u.DirectoryOk := by
  refine h.of_entries fun i d hd => ?_
  have same := t.desks i
  rw [hd] at same
  obtain ⟨e, he, eq⟩ := Option.map_eq_some_iff.1 same.symm
  exact ⟨e, he, Desk.fixed_code eq.symm, fun m => Desk.fixed_isDefault eq.symm ▸ m,
    Desk.fixed_fallback eq.symm⟩

theorem State.DirectoryOk.of_desks (h : s.DirectoryOk) (same : u.desks = s.desks) : u.DirectoryOk := by
  refine h.of_entries fun i d hd => ⟨d, ?_, rfl, id, rfl⟩
  unfold State.desk at hd ⊢
  rwa [← same]

theorem State.DirectoryOk.removeDesk (h : s.DirectoryOk) (i : Fin 32) : (s.setDesk i none).DirectoryOk := by
  refine h.of_entries fun j d hd => ⟨d, ?_, rfl, id, rfl⟩
  rw [State.desk_setDesk] at hd
  split_ifs at hd
  exact hd

/-- An entry whose code no other position holds, put in a position, keeps the directory lawful. -/
theorem State.DirectoryOk.putDesk (h : s.DirectoryOk) {i : Fin 32} {d : Desk}
    (other : d.fallback ≠ some d.code) (alone : ∀ j e, s.desk j = some e → e.code = d.code → j = i) :
    (putDesk i d s).DirectoryOk := by
  have entry : ∀ j e, (Machine.putDesk i d s).desk j = some e → (j = i ∧ e = d) ∨
      (j ≠ i ∧ ∃ e', s.desk j = some e' ∧ e.code = e'.code ∧ e.fallback = e'.fallback
        ∧ (e.isDefault = true → e'.isDefault = true ∧ d.isDefault = false)) := by
    intro j e he
    rw [putDesk_desk] at he
    split_ifs at he with here mark
    · exact .inl ⟨here, (Option.some.inj he).symm⟩
    · obtain ⟨e', he', rfl⟩ := Option.map_eq_some_iff.1 he
      exact .inr ⟨here, e', he', rfl, rfl, fun m => absurd m (by simp [Desk.notDefault])⟩
    · exact .inr ⟨here, e, he, rfl, rfl, fun m => ⟨m, by simpa using mark⟩⟩
  constructor
  · intro j k a b ha hb same
    rcases entry j a ha with ⟨rfl, rfl⟩ | ⟨offJ, a', ha', ca, _, _⟩ <;>
      rcases entry k b hb with ⟨rfl, rfl⟩ | ⟨offK, b', hb', cb, _, _⟩
    · rfl
    · exact absurd (alone k b' hb' (cb.symm.trans same.symm)) offK
    · exact absurd (alone j a' ha' (ca.symm.trans same)) offJ
    · exact h.codes j k a' b' ha' hb' (ca.symm.trans (same.trans cb))
  · intro j k a b ha hb markA markB
    rcases entry j a ha with ⟨rfl, rfl⟩ | ⟨_, a', ha', _, _, ma⟩ <;>
      rcases entry k b hb with ⟨rfl, rfl⟩ | ⟨_, b', hb', _, _, mb⟩
    · rfl
    · simp [(mb markB).2] at markA
    · simp [(ma markA).2] at markB
    · exact h.oneDefault j k a' b' ha' hb' (ma markA).1 (mb markB).1
  · intro j a ha
    rcases entry j a ha with ⟨rfl, rfl⟩ | ⟨_, a', ha', ca, fa, _⟩
    · exact other
    · rw [ca, fa]
      exact h.fallback j a' ha'

theorem State.findDesk_some {c : DeskCode} {i : Fin 32} (found : s.findDesk c = some i) :
    ∃ e, s.desk i = some e ∧ e.code = c := by
  have here := List.find?_some found
  obtain ⟨e, he, code⟩ := (Option.any_eq_true _ _).1 here
  exact ⟨e, he, by simpa using code⟩

theorem State.findDesk_none {c : DeskCode} (none : s.findDesk c = none) {j : Fin 32} {e : Desk}
    (held : s.desk j = some e) : e.code ≠ c := by
  have not := List.find?_eq_none.1 none j (List.mem_finRange j)
  simpa [held] using not

/-- Settles O11: DESK_WRITE replaces the entry of the code or adds one whose code no entry has, clears
every other default mark when it brings one, and takes no fallback that is the code itself. -/
theorem stepKeepsDirectoryLawful : Obligations.StepKeepsDirectoryLawful := by
  refine fun s t => step_adjusts (P := State.DirectoryOk) (fun _ _ h => h.of_desks rfl)
    (fun _ _ _ _ h => h.of_desks rfl) (fun s u h t => h.traffic t) fun s u h e => ?_
  cases e with
  | traffic t => exact h.traffic t
  | @registers v _ f before after _ =>
    exact State.DirectoryOk.traffic (s := v.modRegs f) ((h.traffic before).of_desks rfl) after
  | @terminal v _ t f before after _ _ =>
    exact State.DirectoryOk.traffic (s := v.modPort t f) ((h.traffic before).of_desks rfl) after
  | powerOn => exact powerOn_directoryOk
  | replaceDesk i d other found =>
    obtain ⟨e, he, code⟩ := State.findDesk_some found
    exact h.putDesk other fun j x hx same => h.codes j i x e hx he (same.trans code.symm)
  | addDesk i d other new => exact h.putDesk other fun j x hx same => absurd same (s.findDesk_none new hx)
  | removeDesk i => exact h.removeDesk i
  | configure c cfg f g _ _ | counter c _ _ _ | page p x _ | notice v | noticeEnable v => exact h.of_desks rfl

/-! ## Configurations in their ranges -/

theorem Control.start_settings (y : Control) (x : CounterSettings) (a : CounterAction) :
    (y.start x a).settings = x := by
  cases a with
  | idle | release | forceIdle | once | repeated | hold => rfl
  | delayedOnce | delayedRepeat => exact Control.settings_enterDelay _

/-- The half of O9 on configurations: each one written is a checked one. -/
theorem step_keeps_configsOk {t : State} (h : s.ConfigsOk) (e : step s = .next t) : t.ConfigsOk := by
  refine step_adjusts (P := State.ConfigsOk) (fun _ _ => id) (fun _ _ _ _ => id)
    (fun s u h t => ?_) (fun s u h e => ?_) h e
  · obtain ⟨circuits, ports, controls⟩ := h
    exact ⟨fun c => t.circuits c (circuits c), fun p => by rw [t.ports]; exact ports p,
      fun c => by rw [t.settings]; exact controls c⟩
  obtain ⟨circuits, ports, controls⟩ := h
  cases e with
  | traffic t =>
    exact ⟨fun c => t.circuits c (circuits c), fun p => by rw [t.ports]; exact ports p,
      fun c => by rw [t.settings]; exact controls c⟩
  | @registers v _ f before after _ =>
    refine ⟨fun c => after.circuits c (before.circuits c (circuits c)), fun p => ?_, fun c => ?_⟩
    · rw [after.ports, State.port_modRegs, before.ports]
      exact ports p
    · rw [after.settings, State.control_modRegs, before.settings]
      exact controls c
  | @terminal v _ t f before after valid _ =>
    refine ⟨fun c => after.circuits c (before.circuits c (circuits c)), fun p => ?_, fun c => ?_⟩
    · rw [after.ports, State.port_modPort]
      split_ifs
      · exact valid _
      · rw [before.ports]
        exact ports p
    · rw [after.settings, State.control_modPort, before.settings]
      exact controls c
  | configure c cfg f g valid _ =>
    refine ⟨fun d => ?_, ports, controls⟩
    rw [State.circuit_modCircuit]
    split_ifs
    · exact valid _ (circuits c)
    · exact circuits d
  | counter c x a valid =>
    refine ⟨circuits, ports, fun d => ?_⟩
    rw [State.control_modControl]
    split_ifs
    · rw [Control.start_settings]
      exact valid
    · exact controls d
  | powerOn => exact powerOn_configsOk
  | replaceDesk i d _ _ | addDesk i d _ _ =>
    exact putDesk_keeps (P := State.ConfigsOk) (fun _ _ _ => id) ⟨circuits, ports, controls⟩
  | page p x _ | removeDesk i | notice v | noticeEnable v => exact ⟨circuits, ports, controls⟩

end Sys2Proof.Machine

/-! PROOF. What the story table, the framers and the claims leave of outlets and control units: a property
that survives every write but the outlets' own (`Keeps`) holds after each of their operations. -/

namespace Sys2Proof.Machine

/-- Two outlet records differ at most in holder, waiting list and owed items. -/
def Outlet.SameBut (x y : Outlet) : Prop :=
  y = { x with holder := y.holder, waiting := y.waiting, owed := y.owed }

/-- A property of states that survives every write of stories, framers, circuits, ports, desks and flags,
and of an outlet's holder, waiting list and owed items. -/
structure Keeps (P : State → Prop) : Prop where
  story : ∀ {u} (k : Fin 48) (x : Story), P u → P (u.setStory k x)
  framer : ∀ {u} (i : Fin 24) (f : Framer → Framer), P u → P (u.modFramer i f)
  circuit : ∀ {u} (c : Fin 16) (f : Circuit → Circuit), P u → P (u.modCircuit c f)
  port : ∀ {u} (t : Fin 8) (f : Port → Port), P u → P (u.modPort t f)
  parser : ∀ {u} (t : Fin 8) (f : Parser → Parser), P u → P (u.modParser t f)
  desk : ∀ {u} (i : Fin 32) (d : Option Desk), P u → P (u.setDesk i d)
  table : ∀ {u : State} (l : List (Fin 48)) (n : Nat), P u → P { u with openOrder := l, nextNumber := n }
  flag : ∀ {u : State} (f : Flag), P u → P (u.raise f)
  lists : ∀ {u} (o : Fin 24) (f : Outlet → Outlet), (∀ x : Outlet, x.SameBut (f x)) → P u → P (u.modOutlet o f)

/-- Such a property, of a state it holds of. -/
structure Kept (P : State → Prop) (u : State) : Prop where
  keeps : Keeps P
  holds : P u

namespace Kept

variable {P : State → Prop} {u : State}

theorem setStory (h : Kept P u) {k : Fin 48} {x : Story} : Kept P (u.setStory k x) :=
  ⟨h.keeps, h.keeps.story k x h.holds⟩

theorem modStory (h : Kept P u) {k : Fin 48} {f : Story → Story} : Kept P (u.modStory k f) :=
  h.setStory

theorem modFramer (h : Kept P u) {i : Fin 24} {f : Framer → Framer} : Kept P (u.modFramer i f) :=
  ⟨h.keeps, h.keeps.framer i f h.holds⟩

theorem modCircuit (h : Kept P u) {c : Fin 16} {f : Circuit → Circuit} : Kept P (u.modCircuit c f) :=
  ⟨h.keeps, h.keeps.circuit c f h.holds⟩

theorem modPort (h : Kept P u) {t : Fin 8} {f : Port → Port} : Kept P (u.modPort t f) :=
  ⟨h.keeps, h.keeps.port t f h.holds⟩

theorem modParser (h : Kept P u) {t : Fin 8} {f : Parser → Parser} : Kept P (u.modParser t f) :=
  ⟨h.keeps, h.keeps.parser t f h.holds⟩

theorem setDesk (h : Kept P u) {i : Fin 32} {d : Option Desk} : Kept P (u.setDesk i d) :=
  ⟨h.keeps, h.keeps.desk i d h.holds⟩

theorem table (h : Kept P u) {l : List (Fin 48)} {n : Nat} :
    Kept P { u with openOrder := l, nextNumber := n } :=
  ⟨h.keeps, h.keeps.table l n h.holds⟩

theorem raise (h : Kept P u) {f : Flag} : Kept P (u.raise f) :=
  ⟨h.keeps, h.keeps.flag f h.holds⟩

theorem lists (h : Kept P u) {o : Fin 24} {f : Outlet → Outlet} (e : ∀ x : Outlet, x.SameBut (f x)) :
    Kept P (u.modOutlet o f) :=
  ⟨h.keeps, h.keeps.lists o f e h.holds⟩

theorem raiseIf (h : Kept P u) {b : Bool} {f : Flag} : Kept P (u.raiseIf b f) := by
  unfold State.raiseIf
  split
  · exact h.raise
  · exact h

theorem forEach {α : Type} {l : List α} {f : α → State → State}
    (e : ∀ a, ∀ v, Kept P v → Kept P (f a v)) (h : Kept P u) : Kept P (Machine.forEach l f u) :=
  forEach_keeps (fun a v => e a v) h

/-! ## Counts, replies, queues -/

theorem modCounts (h : Kept P u) {c : Fin 16} {f : CircuitCounts → CircuitCounts} :
    Kept P (u.modCounts c f) := h.modCircuit

theorem modPortCounts (h : Kept P u) {t : Fin 8} {f : PortCounts → PortCounts} :
    Kept P (u.modPortCounts t f) := h.modPort

theorem addLoose (h : Kept P u) {src : Source} {k : Nat} : Kept P (u.addLoose src k) := by
  unfold State.addLoose
  split
  · exact h.modCounts
  · exact h.modPortCounts

theorem addRefusedOpen (h : Kept P u) {src : Source} : Kept P (u.addRefusedOpen src) := by
  unfold State.addRefusedOpen
  split
  · exact h.modCounts
  · exact h.modPortCounts

theorem offerReply (h : Kept P u) {t : Fin 8} {l : List Office} :
    Kept P (u.offerReply t l) := by
  unfold State.offerReply
  split
  · exact h.modPort
  · exact h

theorem offerSource (h : Kept P u) {src : Source} {l : List Office} :
    Kept P (u.offerSource src l) := by
  cases src
  · exact h
  · exact h.offerReply

theorem popQueue (h : Kept P u) {t : Fin 8} : Kept P (popQueue t u) := h.modPort

/-! ## Circuits -/

theorem quietTest (h : Kept P u) {c : Fin 16} : Kept P (quietTest c u) := by
  unfold Machine.quietTest
  split
  · rename_i cfg hp
    split
    · exact h.modCircuit
    · exact h
  · exact h

theorem quietTestOutlet (h : Kept P u) {o : Fin 24} : Kept P (quietTestOutlet o u) := by
  unfold Machine.quietTestOutlet
  split
  · exact h.quietTest
  · exact h

theorem quietTestSource (h : Kept P u) {src : Source} :
    Kept P (quietTestSource src u) := by
  cases src
  · exact h.quietTest
  · exact h

/-! ## The story table -/

theorem freeRecord (h : Kept P u) {k : Fin 48} : Kept P (freeRecord k u) :=
  h.setStory.table

theorem allocate (h : Kept P u) {src : Source} {k : Fin 48} :
    Kept P (allocate src k u) := h.setStory.table

theorem claimSlot (h : Kept P u) : Kept P (claimSlot u).2 := by
  unfold Machine.claimSlot
  split
  · exact h
  · split
    · exact h.freeRecord
    · exact h

theorem openClaim (h : Kept P u) {src : Source} : Kept P (openClaim src u).2 := by
  have hc := h.claimSlot
  unfold Machine.openClaim
  split <;> rename_i e <;> rw [e] at hc
  · exact hc.allocate
  · exact hc.raise

theorem rejectStory (h : Kept P u) {k : Fin 48} {why : CloseReason} :
    Kept P (rejectStory k why u) := h.modStory.raise.offerSource.quietTestSource

theorem oweItem (h : Kept P u) {o : Fin 24} {kind : OwedKind} {k : Fin 48} :
    Kept P (oweItem o kind k u) := by
  unfold Machine.oweItem
  split
  · exact h.lists fun _ => rfl
  · exact h

theorem oweCut (h : Kept P u) {o : Fin 24} {k : Fin 48} {why : CutReason} :
    Kept P (oweCut o k why u) := by
  unfold Machine.oweCut
  split
  · exact h.oweItem
  · exact h

theorem cutRecord (h : Kept P u) {k : Fin 48} {o : Fin 24} {why : CutReason} :
    Kept P (cutRecord k o why u) := by
  unfold Machine.cutRecord
  split
  · exact Kept.raiseIf (Kept.oweCut (Kept.lists h.modStory (by intro; rfl)))
  · exact h

theorem closeIfDone (h : Kept P u) {k : Fin 48} : Kept P (closeIfDone k u) := by
  unfold Machine.closeIfDone
  split
  · exact h.modStory.raise
  · exact h

theorem toClosing (h : Kept P u) {k : Fin 48} {why : CloseReason} :
    Kept P (toClosing k why u) := h.modStory.quietTestSource.closeIfDone

/-! ## The framer outside a story -/

theorem modFramerOf (h : Kept P u) {src : Source} {f : Framer → Framer} :
    Kept P (modFramerOf src f u) := h.modFramer

theorem takeIdle (h : Kept P u) {src : Source} {ch : Office} :
    Kept P (takeIdle src ch u) := by
  unfold Machine.takeIdle
  dsimp only
  split
  · exact h.modFramerOf
  · split
    · exact h.modFramerOf
    · split
      · exact h.modFramerOf
      · exact h.modFramerOf.addLoose

theorem takeDiscard (h : Kept P u) {src : Source} {ch : Office} :
    Kept P (takeDiscard src ch u) := by
  unfold Machine.takeDiscard
  dsimp only
  split
  · exact h.modFramerOf
  · split
    · exact h.modFramerOf
    · split
      · exact h.modFramerOf
      · exact h.modFramerOf.addLoose

theorem completeOpener (h : Kept P u) {src : Source} :
    Kept P (completeOpener src u) := by
  have hc := h.openClaim (src := src)
  unfold Machine.completeOpener
  split <;> rename_i e <;> rw [e] at hc
  · exact hc.modFramerOf
  · exact hc.modFramerOf.addRefusedOpen.addLoose

theorem failMatch (h : Kept P u) {src : Source} {ch : Office} :
    Kept P (failMatch src ch u) := by
  unfold Machine.failMatch
  dsimp only
  split
  · exact h.modFramerOf.addLoose.takeDiscard
  · exact h.modFramerOf.addLoose.takeIdle

theorem extendOpener (h : Kept P u) {src : Source} {ch : Office} :
    Kept P (extendOpener src ch u) := by
  unfold Machine.extendOpener
  split
  · exact h.modFramerOf
  · exact h.failMatch

theorem takeOpenerMatch (h : Kept P u) {src : Source} {ch : Office} :
    Kept P (takeOpenerMatch src ch u) := by
  unfold Machine.takeOpenerMatch
  dsimp only
  split
  · exact h.extendOpener.completeOpener
  · exact h.extendOpener

theorem takeCloserDiscard (h : Kept P u) {src : Source} {ch : Office} :
    Kept P (takeCloserDiscard src ch u) := by
  unfold Machine.takeCloserDiscard
  dsimp only
  split
  · split
    · exact h.modFramerOf.addLoose
    · exact h.modFramerOf
  · exact h.failMatch

theorem takeLeftover (h : Kept P u) {src : Source} {chs : List Office} :
    Kept P (takeLeftover src chs u) := by
  refine h.forEach fun ch v hv => ?_
  split
  · exact hv.extendOpener
  · exact hv.takeIdle

theorem resetFramer (h : Kept P u) {src : Source} : Kept P (resetFramer src u) :=
  h.modFramerOf

/-! ## Writing -/

theorem lapCuts (h : Kept P u) {k : Fin 48} : Kept P (lapCuts k u) :=
  h.forEach fun _ _ hv => hv.cutRecord.quietTestOutlet

theorem writeOne (h : Kept P u) {k : Fin 48} {ch : Office} : Kept P (writeOne k ch u) := by
  unfold Machine.writeOne
  dsimp only
  split
  · exact h.lapCuts.modStory
  · exact h.modStory

theorem writeChars {k : Fin 48} {chs : List Office} (h : Kept P u) :
    Kept P (writeChars k chs u).2 := by
  induction chs generalizing u with
  | nil => exact h
  | cons ch rest ih =>
    unfold Machine.writeChars
    split
    · exact ih h.writeOne
    · exact h

theorem writeText (h : Kept P u) {k : Fin 48} {chs : List Office} :
    Kept P (writeText k chs u).2 := by
  have key : ∀ v, Kept P v → Kept P
      (if ((Machine.writeChars k chs v).2.story k).taken = Config.takenMax then
        ((Machine.writeChars k chs v).1, Machine.toClosing k .tooLong (Machine.writeChars k chs v).2)
        else Machine.writeChars k chs v).2 := by
    intro v hv
    split
    · exact hv.writeChars.toClosing
    · exact hv.writeChars
  unfold Machine.writeText
  dsimp only
  refine key _ ?_
  split
  · exact h
  · exact h.modStory

theorem completeWrite (h : Kept P u) {src : Source} {k : Fin 48} {chs : List Office} :
    Kept P (completeWrite src k chs u) := by
  unfold Machine.completeWrite
  dsimp only
  split
  · exact h.writeText.modFramerOf
  · exact h.writeText.modFramerOf.takeLeftover

theorem restartIdle (h : Kept P u) {k : Fin 48} : Kept P (restartIdle k u) := by
  unfold Machine.restartIdle
  split
  · exact h
  · exact h.setStory

theorem offerWrite (h : Kept P u) {k : Fin 48} : Kept P (offerWrite k u) := by
  unfold Machine.offerWrite
  split
  · exact h
  · dsimp only
    split
    · exact h
    · split
      · exact h.popQueue.restartIdle.completeWrite
      · exact h

theorem afterCut (h : Kept P u) {k : Fin 48} {o : Fin 24} : Kept P (afterCut k o u) :=
  h.closeIfDone.quietTestOutlet.offerWrite

theorem cutEntry (h : Kept P u) {k : Fin 48} {o : Fin 24} {why : CutReason} :
    Kept P (cutEntry k o why u) := by
  unfold Machine.cutEntry
  split
  · exact h.cutRecord.afterCut
  · exact h

theorem cutOutlet (h : Kept P u) {o : Fin 24} {why : CutReason} :
    Kept P (cutOutlet o why u) := h.forEach fun _ _ hv => hv.cutEntry

theorem takeInStory (h : Kept P u) {src : Source} {k : Fin 48} {ch : Office} :
    Kept P (takeInStory src k ch u) := by
  unfold Machine.takeInStory
  dsimp only
  split
  · exact h.modFramerOf
  · split
    · exact h.modFramerOf
    · exact h.completeWrite

theorem takeCloserStory (h : Kept P u) {src : Source} {k : Fin 48} {ch : Office} :
    Kept P (takeCloserStory src k ch u) := by
  unfold Machine.takeCloserStory
  dsimp only
  split
  · split
    · exact h.modFramerOf.toClosing
    · exact h.modFramerOf
  · exact h.completeWrite

/-! ## Headers and routing -/

theorem countRouted (h : Kept P u) {i : Fin 32} : Kept P (countRouted i u) := h.setDesk

theorem createEntry (h : Kept P u) {k : Fin 48} {e : Entry} :
    Kept P (createEntry k e u) := by
  unfold Machine.createEntry
  exact h.modStory.lists fun _ => rfl

theorem routed (h : Kept P u) {k : Fin 48} {r : Route} : Kept P (routed k r u) := by
  unfold Machine.routed
  dsimp only
  refine Kept.raise (Kept.forEach (fun _ _ hv => hv.createEntry) (Kept.modStory ?_))
  split
  · exact h.countRouted
  · exact h

theorem completeHeader (h : Kept P u) {k : Fin 48} {x : HeaderFields} :
    Kept P (completeHeader k x u).2 := by
  unfold Machine.completeHeader
  dsimp only
  split
  · exact h.modStory.routed
  · exact h.modStory.rejectStory

theorem judgeHeader (h : Kept P u) {src : Source} {k : Fin 48} {b : Bool} :
    Kept P (judgeHeader src k b u) := by
  unfold Machine.judgeHeader
  split
  · exact h.rejectStory.modFramerOf
  · rename_i x _
    have hc := h.completeHeader (k := k) (x := x)
    split <;> rename_i e <;> rw [e] at hc <;> exact hc.modFramerOf

theorem takeHeader (h : Kept P u) {src : Source} {k : Fin 48} {ch : Office} :
    Kept P (takeHeader src k ch u) := by
  unfold Machine.takeHeader
  split
  · exact h.judgeHeader
  · split
    · exact h.modFramerOf
    · exact h.rejectStory.modFramerOf.addLoose

theorem takeChar (h : Kept P u) {src : Source} {ch : Office} :
    Kept P (takeChar src ch u) := by
  unfold Machine.takeChar
  dsimp only
  split
  · split
    · exact h.takeIdle
    · exact h.takeOpenerMatch
    · exact h.takeCloserDiscard
    · exact h.takeDiscard
    all_goals exact h
  · split
    · exact h.restartIdle.takeHeader
    · exact h.restartIdle.takeInStory
    · exact h.restartIdle.takeCloserStory
    all_goals exact h.restartIdle

theorem refuseWrite (h : Kept P u) {t : Fin 8} {k : Fin 48} {chs : List Office} :
    Kept P (refuseWrite t k chs u) := by
  unfold Machine.refuseWrite
  dsimp only
  split
  · exact h.modFramerOf.modStory
  · exact h.modFramerOf

theorem takeHead (h : Kept P u) {t : Fin 8} : Kept P (takeHead t u) := by
  unfold Machine.takeHead
  split
  · exact h
  · split
    · dsimp only
      split
      · split
        · exact h.popQueue.takeChar
        · exact h.refuseWrite
      · exact h.popQueue.takeChar
    · exact h

/-! ## Claims on stories -/

theorem holdStory (h : Kept P u) {k : Fin 48} {x : Holder} : Kept P (holdStory k x u) :=
  h.modStory.modFramerOf

theorem reclaimWrite (h : Kept P u) {src : Source} : Kept P (reclaimWrite src u) := by
  unfold Machine.reclaimWrite
  split
  · exact h
  · split
    · exact h.modFramerOf.takeHead
    · exact h

theorem releaseStory (h : Kept P u) {k : Fin 48} : Kept P (releaseStory k u) :=
  h.modStory.reclaimWrite

theorem killFramer (h : Kept P u) {k : Fin 48} : Kept P (killFramer k u) := by
  unfold Machine.killFramer
  dsimp only
  split
  · exact h.modFramerOf.addLoose
  · exact h

theorem closeCut (h : Kept P u) {k : Fin 48} {why : Fin 24 → CutReason} {r : CloseReason} :
    Kept P (closeCut k why r u) :=
  Kept.forEach (fun _ _ hv => hv.quietTestOutlet)
    (Kept.modStory (h.forEach fun _ _ hv => hv.cutRecord))

theorem killStory (h : Kept P u) {k : Fin 48} {a : Option (Fin 8)} :
    Kept P (killStory k a u) := by
  have key := (h.killFramer (k := k)).closeCut (why := fun _ => .killed) (r := .killed) (k := k)
    |>.raise (f := .storyClosed) |>.quietTestSource (src := (u.story k).source)
  unfold Machine.killStory
  dsimp only
  split
  · split
    · exact key
    · exact key.offerReply
  · exact key.offerReply
  · exact key

theorem loseStory (h : Kept P u) {k : Fin 48} : Kept P (loseStory k u) := h.closeCut.raise

theorem loseSource (h : Kept P u) {src : Source} : Kept P (loseSource src u) := by
  refine Kept.resetFramer (h.forEach fun k v hv => ?_)
  split
  · exact hv.loseStory
  · exact hv

theorem setPriority (h : Kept P u) {k : Fin 48} {p : Priority} :
    Kept P (setPriority k p u) := by
  unfold Machine.setPriority
  split
  · exact h
  · exact h.modStory

theorem addOutlet (h : Kept P u) {k : Fin 48} {o : Fin 24} : Kept P (addOutlet k o u) :=
  h.createEntry

theorem flushHeld (h : Kept P u) {src : Source} {k : Fin 48} :
    Kept P (flushHeld src k u) := by
  unfold Machine.flushHeld
  dsimp only
  split
  · split
    · exact h.completeWrite
    · split
      · exact h.completeWrite
      · exact h.addLoose
  · exact h

theorem endIdle (h : Kept P u) {k : Fin 48} : Kept P (endIdle k u) := by
  unfold Machine.endIdle
  dsimp only
  split
  · exact h.modFramerOf.flushHeld.modFramerOf.toClosing
  · exact h.modFramerOf.flushHeld

theorem expireIdle (h : Kept P u) {k : Fin 48} : Kept P (expireIdle k u) := by
  unfold Machine.expireIdle
  split
  · exact h.rejectStory.modFramerOf
  · exact h.endIdle
  all_goals exact h

theorem expireBlock (h : Kept P u) {k : Fin 48} : Kept P (expireBlock k u) := by
  unfold Machine.expireBlock
  dsimp only
  split
  · exact h
  · exact Kept.offerWrite (h.forEach fun _ _ hv => hv.cutRecord.quietTestOutlet)

/-! ## Requests -/

theorem judge {t : Fin 8} {r : Request} {line : List Office} {b : Bool} {v : State}
    (e : judge t r u = .ok (line, b, v)) (h : Kept P u) : Kept P v := by
  unfold Machine.judge at e
  cases r <;> simp only [needs, onNumber, judgeStatus] at e <;> split at e <;> try split at e
  all_goals first
    | (simp only [reduceCtorEq] at e)
    | (simp only [Except.ok.injEq, Prod.mk.injEq] at e; obtain ⟨_, _, rfl⟩ := e; exact h)
    | skip
  · unfold judgeHold accepted at e
    split at e <;> try split at e
    all_goals simp at e
    obtain ⟨_, _, rfl⟩ := e
    exact h.holdStory
  · unfold judgeRelease accepted at e
    split at e <;> try split at e
    all_goals simp at e
    obtain ⟨_, _, rfl⟩ := e
    exact h.releaseStory
  · unfold judgeKill accepted at e
    split at e <;> try split at e
    all_goals simp at e
    obtain ⟨_, _, rfl⟩ := e
    exact h.killStory
  · unfold judgePriority at e
    split at e
    all_goals simp at e
    obtain ⟨_, _, rfl⟩ := e
    exact h.setPriority
  · unfold judgeJoin accepted at e
    dsimp only at e
    split at e <;> try split at e <;> try split at e
    all_goals simp at e
    obtain ⟨_, _, rfl⟩ := e
    exact h.addOutlet
  · unfold judgeLeave accepted at e
    dsimp only at e
    split at e <;> try split at e <;> try split at e
    all_goals simp at e
    obtain ⟨_, _, rfl⟩ := e
    exact h.cutEntry

theorem judgeRequest (h : Kept P u) {t : Fin 8} : Kept P (judgeRequest t u) := by
  unfold Machine.judgeRequest
  split
  · exact h.offerReply
  · unfold carryOut
    split
    · exact h.offerReply
    · rename_i e
      exact (judge e h).offerReply.raiseIf

theorem completeRequest (h : Kept P u) {t : Fin 8} : Kept P (completeRequest t u) := by
  unfold Machine.completeRequest
  dsimp only
  refine Kept.modParser ?_
  split
  · exact h.modPortCounts
  · exact h.judgeRequest

end Kept

end Sys2Proof.Machine

/-! PROOF. Control units at rest, stopped stall timers and terminal outlets without codes: what every step
keeps of them (R113, R119, R137, R153). -/

namespace Sys2Proof.Machine

variable {s u v : State}

/-! ## The control record's operations keep it at rest -/

namespace Control.RestOk

variable {x : Control}

theorem motorStop (h : x.RestOk) : x.motorStop.RestOk := ⟨fun _ => ⟨rfl, rfl⟩, h.2⟩

theorem motorLead (h : x.RestOk) {n : Nat} : (x.motorLead n).RestOk := ⟨nofun, h.2⟩

theorem motorRun (h : x.RestOk) : x.motorRun.RestOk := ⟨nofun, h.2⟩

theorem motorResume (h : x.RestOk) : x.motorResume.RestOk := ⟨nofun, h.2⟩

theorem motorRunOn (h : x.RestOk) {n : Nat} : (x.motorRunOn n).RestOk := by
  unfold Control.motorRunOn
  split
  · exact h.motorStop
  · exact ⟨nofun, h.2⟩

theorem motorTick (h : x.RestOk) : x.motorTick.RestOk := by
  unfold Control.motorTick
  split
  · exact h
  · exact h
  · next starting =>
    dsimp only
    split
    · exact ⟨nofun, h.2⟩
    · exact ⟨fun off => absurd (starting.symm.trans off) nofun, h.2⟩
  · next runOn =>
    split
    · exact h.motorStop
    · exact ⟨fun off => absurd (runOn.symm.trans off) nofun, h.2⟩

theorem rest (h : x.RestOk) : x.rest.RestOk := ⟨h.1, fun _ => rfl, fun _ => rfl⟩

theorem force (h : x.RestOk) : x.force.RestOk := ⟨h.1, fun _ => rfl, fun _ => rfl⟩

/-- Into COUNTING, from a motor at rest. -/
theorem enterCounting (motor : x.motor = .off → x.motorCount = 0 ∧ x.motorTarget = 0) :
    x.enterCounting.RestOk := ⟨motor, nofun, nofun⟩

theorem enterDelay (motor : x.motor = .off → x.motorCount = 0 ∧ x.motorTarget = 0) :
    x.enterDelay.RestOk := by
  unfold Control.enterDelay
  split
  · exact enterCounting motor
  · exact ⟨motor, nofun, fun _ => rfl⟩

theorem afterCount (motor : x.motor = .off → x.motorCount = 0 ∧ x.motorTarget = 0) :
    x.afterCount.RestOk := by
  unfold Control.afterCount
  split
  · exact enterCounting motor
  · split
    · exact enterCounting motor
    · exact enterDelay motor
  all_goals exact ⟨motor, fun _ => rfl, fun _ => rfl⟩

theorem countTick (h : x.RestOk) {off : Bool} : (x.countTick off).RestOk := by
  unfold Control.countTick
  split
  · exact h
  · exact h
  · next delay =>
    split
    · exact enterCounting h.1
    · exact ⟨h.1, fun idle => absurd (delay.symm.trans idle) nofun, h.2.2⟩
  · next counting =>
    dsimp only
    split
    · exact afterCount h.1
    · refine ⟨h.1, fun idle => absurd (counting.symm.trans idle) nofun, fun early => ?_⟩
      rcases early with idle | delay
      · exact absurd (counting.symm.trans idle) nofun
      · exact absurd (counting.symm.trans delay) nofun

/-- A counter started from IDLE, with new settings. -/
theorem start (h : x.RestOk) (idle : x.phase = .idle) {y : CounterSettings} {a : CounterAction} :
    (x.start y a).RestOk := by
  cases a with
  | idle | release | forceIdle => exact ⟨h.1, fun _ => h.2.1 idle, fun _ => rfl⟩
  | once | repeated => exact enterCounting h.1
  | delayedOnce | delayedRepeat => exact enterDelay h.1
  | hold => exact ⟨h.1, nofun, nofun⟩

theorem trafficReset (h : x.RestOk) : x.trafficReset.RestOk := h.motorStop.force

theorem writeSelector (h : x.RestOk) {n : Nat} {y : Selector} : (writeSelector n y x).RestOk := by
  unfold Machine.writeSelector
  split <;> exact h

end Control.RestOk

/-! ## Line outlets -/

theorem lineOutlet_of {o : Fin 24} {c : Fin 16} (line : outletCircuit o = some c) : o = lineOutlet c := by
  revert o c
  decide

theorem terminalOutlet_of {o : Fin 24} {t : Fin 8} (terminal : outletTerminal o = some t) :
    o = terminalOutlet t := by
  revert o t
  decide

theorem sendAsCode_stallTimer (cfg : CircuitConfig) (x : Outlet) (ch : Office) (c : Code)
    (p : SendPlane) : (sendAsCode cfg x ch c p).1.stallTimer = x.stallTimer := by
  unfold sendAsCode
  cases shiftFor x p <;> rfl

/-- A conversion leaves the stall timer. -/
theorem convertChar_stallTimer (pg : Page) (cfg : CircuitConfig) (x : Outlet) (ch : Office) :
    (convertChar pg cfg x ch).1.stallTimer = x.stallTimer := by
  unfold convertChar
  split
  · exact sendAsCode_stallTimer _ _ _ _ _
  · rfl
  · split
    · exact sendAsCode_stallTimer _ _ _ _ _
    · rfl
    · rfl

/-! ## What is kept -/

/-- The unit in progress holds no codes (R113, R119). -/
def Outlet.NoCodes (x : Outlet) : Prop := ∀ v, x.unit = some v → v.codes = []

theorem Outlet.NoCodes.of_none {x : Outlet} (h : x.unit = none) : x.NoCodes := by
  intro v hv
  simp [h] at hv

/-- What a change keeps of control units at rest, line outlets' stall timers and terminal outlets' units. -/
structure Upkeep (s u : State) : Prop where
  controls : ∀ c, (s.control c).RestOk → (u.control c).RestOk
  timers : ∀ c, (s.outlet (lineOutlet c)).stallTimer = none →
    (u.outlet (lineOutlet c)).stallTimer = none
  codes : ∀ t, (s.outlet (terminalOutlet t)).NoCodes → (u.outlet (terminalOutlet t)).NoCodes

namespace Upkeep

theorem refl (s : State) : Upkeep s s := ⟨fun _ => id, fun _ => id, fun _ => id⟩

/-- A change of neither control units nor outlets. -/
theorem apart (h : Upkeep s u) (controls : v.controls = u.controls) (outlets : v.outlets = u.outlets) :
    Upkeep s v := by
  obtain ⟨a, b, c⟩ := h
  constructor
  · unfold State.control at a ⊢
    rwa [controls]
  · unfold State.outlet at b ⊢
    rwa [outlets]
  · unfold State.outlet at c ⊢
    rwa [outlets]

theorem modControl (h : Upkeep s u) {c : Fin 16} {f : Control → Control}
    (rest : ∀ x : Control, x.RestOk → (f x).RestOk) : Upkeep s (u.modControl c f) := by
  refine ⟨fun d ok => ?_, h.timers, h.codes⟩
  have before := h.controls d ok
  rw [State.control_modControl]
  split_ifs with here
  · exact rest _ (here ▸ before)
  · exact before

theorem modOutlet (h : Upkeep s u) {o : Fin 24} {f : Outlet → Outlet}
    (timer : ∀ x : Outlet, x.stallTimer = none → (f x).stallTimer = none)
    (codes : ∀ x : Outlet, x.NoCodes → (f x).NoCodes) : Upkeep s (u.modOutlet o f) := by
  refine ⟨h.controls, fun c stopped => ?_, fun t none => ?_⟩
  · have before := h.timers c stopped
    rw [State.outlet_modOutlet]
    split_ifs with here
    · exact timer _ (here ▸ before)
    · exact before
  · have before := h.codes t none
    rw [State.outlet_modOutlet]
    split_ifs with here
    · exact codes _ (here ▸ before)
    · exact before

/-- A line outlet's unit may hold codes. -/
theorem modLine (h : Upkeep s u) {c : Fin 16} {f : Outlet → Outlet}
    (timer : (u.outlet (lineOutlet c)).stallTimer = none →
      (f (u.outlet (lineOutlet c))).stallTimer = none) : Upkeep s (u.modOutlet (lineOutlet c) f) := by
  refine ⟨h.controls, fun d stopped => ?_, fun t none => ?_⟩
  · have before := h.timers d stopped
    rw [State.outlet_modOutlet]
    split_ifs with here
    · exact timer (here ▸ before)
    · exact before
  · rw [State.outlet_modOutlet, if_neg (lineOutlet_ne_terminalOutlet c t).symm]
    exact h.codes t none

/-- A terminal outlet's stall timer may run. -/
theorem modTerminal (h : Upkeep s u) {t : Fin 8} {f : Outlet → Outlet}
    (codes : ∀ x : Outlet, x.NoCodes → (f x).NoCodes) : Upkeep s (u.modOutlet (terminalOutlet t) f) := by
  refine ⟨h.controls, fun c stopped => ?_, fun x none => ?_⟩
  · rw [State.outlet_modOutlet, if_neg (lineOutlet_ne_terminalOutlet c t)]
    exact h.timers c stopped
  · have before := h.codes x none
    rw [State.outlet_modOutlet]
    split_ifs with here
    · exact codes _ (here ▸ before)
    · exact before

theorem keeps : Keeps (Upkeep s) where
  story _ _ h := h.apart rfl rfl
  framer _ _ h := h.apart rfl rfl
  circuit _ _ h := h.apart rfl rfl
  port _ _ h := h.apart rfl rfl
  parser _ _ h := h.apart rfl rfl
  desk _ _ h := h.apart rfl rfl
  table _ _ h := h.apart rfl rfl
  flag _ h := h.apart rfl rfl
  lists o f same h := by
    refine h.modOutlet (fun x stopped => ?_) fun x none => ?_
    · rw [same x]
      exact stopped
    · unfold Outlet.NoCodes
      rw [same x]
      exact none

theorem kept (h : Upkeep s u) : Kept (Upkeep s) u := ⟨keeps, h⟩

theorem modPort (h : Upkeep s u) {t : Fin 8} {f : Port → Port} : Upkeep s (u.modPort t f) :=
  h.apart rfl rfl

theorem modCircuit (h : Upkeep s u) {c : Fin 16} {f : Circuit → Circuit} : Upkeep s (u.modCircuit c f) :=
  h.apart rfl rfl

theorem raise (h : Upkeep s u) {f : Flag} : Upkeep s (u.raise f) := h.apart rfl rfl

theorem modParser (h : Upkeep s u) {t : Fin 8} {f : Parser → Parser} : Upkeep s (u.modParser t f) :=
  h.apart rfl rfl

theorem forEach {α : Type} {l : List α} {f : α → State → State}
    (each : ∀ a v, Upkeep s v → Upkeep s (f a v)) (h : Upkeep s u) :
    Upkeep s (Machine.forEach l f u) :=
  forEach_keeps each h

/-! ## Units -/

theorem grant (h : Upkeep s u) {o : Fin 24} {k : Fin 48} : Upkeep s (grant o k u) := by
  unfold Machine.grant
  exact (Kept.lists h.kept.modStory (by intro; rfl)).holds

theorem suspended (h : Upkeep s u) {o : Fin 24} {k : Fin 48} {f : Story → Story} :
    Upkeep s ((u.modStory k f).modOutlet o fun x => x.suspend k) :=
  (Kept.lists h.kept.modStory (by intro; rfl)).holds

theorem oweItem (h : Upkeep s u) {o : Fin 24} {kind : OwedKind} {k : Fin 48} :
    Upkeep s (oweItem o kind k u) := h.kept.oweItem.holds

theorem preempt (h : Upkeep s u) {o : Fin 24} {k : Fin 48} : Upkeep s (preempt o k u) := by
  unfold Machine.preempt
  dsimp only
  split
  · exact h.suspended.oweItem
  · exact h.suspended

theorem arbitrate (h : Upkeep s u) {o : Fin 24} : Upkeep s (arbitrate o u) := by
  unfold Machine.arbitrate
  split
  · exact h
  · exact h.grant
  · exact h.preempt.grant

theorem suspendCaughtUp (h : Upkeep s u) {o : Fin 24} : Upkeep s (suspendCaughtUp o u) := by
  unfold Machine.suspendCaughtUp
  split
  · exact h
  · split
    · exact h.suspended.oweItem
    · exact h

theorem beginUnit (h : Upkeep s u) {o : Fin 24} {kind : UnitKind} {l : List Office} :
    Upkeep s (beginUnit o kind l u) := by
  refine h.modOutlet (fun x => id) fun x _ => ?_
  rintro v ⟨⟩
  rfl

theorem beginItem (h : Upkeep s u) {o : Fin 24} {i : OwedItem} {l : List OwedItem} :
    Upkeep s (beginItem o i l u) := by
  unfold Machine.beginItem
  exact beginUnit (Kept.lists h.kept (by intro; rfl)).holds

theorem beginText (h : Upkeep s u) {o : Fin 24} {k : Fin 48} {ch : Office} :
    Upkeep s (beginText o k ch u) :=
  (Kept.offerWrite (beginUnit (h.kept.modStory).holds).kept).holds

theorem beginHolder (h : Upkeep s u) {o : Fin 24} {k : Fin 48} {e : Entry} :
    Upkeep s (beginHolder o k e u) := by
  unfold Machine.beginHolder
  dsimp only
  split
  · exact h.beginUnit
  · split
    · split
      · exact h.beginText
      · exact h
    · split
      · exact h.beginUnit
      · exact h

theorem beginCarried (h : Upkeep s u) {o : Fin 24} : Upkeep s (beginCarried o u) := by
  have granted := h.arbitrate (o := o)
  unfold Machine.beginCarried
  dsimp only
  split
  · exact granted.beginItem
  · split
    · exact granted
    · split
      · exact granted.beginHolder
      · exact granted

theorem takeBoundary (h : Upkeep s u) {o : Fin 24} : Upkeep s (takeBoundary o u) := by
  have examined := h.suspendCaughtUp (o := o)
  unfold Machine.takeBoundary
  dsimp only
  split
  · exact examined.beginUnit
  · split
    · exact examined.beginItem
    · split
      · exact examined.beginUnit
      · exact examined.beginCarried

theorem modCarried (h : Upkeep s u) {o : Fin 24} {k : Fin 48} {f : Entry → Entry} :
    Upkeep s (u.modCarried o k f) := by
  unfold State.modCarried
  split
  · exact h.kept.modStory.holds
  · exact h

theorem claimDone (h : Upkeep s u) {o : Fin 24} {k : Fin 48} : Upkeep s (claimDone o k u) := by
  unfold Machine.claimDone
  split
  · exact (Kept.afterCut (Kept.lists h.kept.modStory (by intro; rfl))).holds
  · exact h

theorem emptyReply (h : Upkeep s u) {o : Fin 24} : Upkeep s (emptyReply o u) := by
  unfold Machine.emptyReply
  split
  · exact h.modPort
  · exact h

theorem completeUnit (h : Upkeep s u) {o : Fin 24} {x : OutUnit} : Upkeep s (completeUnit o x u) := by
  have ended := h.modOutlet (o := o) (f := fun y => { y.dropMore x.chars.length with unit := none })
    (fun _ => id) fun _ _ => .of_none rfl
  unfold Machine.completeUnit
  dsimp only
  split
  · exact ended
  · exact ended
  · exact ended.modCarried
  · exact ended.claimDone
  · exact ended.emptyReply
  · exact ended.modOutlet (fun _ => id) fun _ => id

/-! ## Driving an outlet -/

theorem setOutletState (h : Upkeep s u) {o : Fin 24} {x : OutletState} :
    Upkeep s (setOutletState o x u) := h.modOutlet (fun _ => id) fun _ => id

theorem pauseOutlet (h : Upkeep s u) {o : Fin 24} : Upkeep s (pauseOutlet o u) := by
  unfold Machine.pauseOutlet
  split
  · exact h
  · exact h.setOutletState

theorem clearFill (h : Upkeep s u) {o : Fin 24} : Upkeep s (clearFill o u) := by
  unfold Machine.clearFill
  split
  · exact h.modControl fun _ => id
  · exact h

theorem fallIdle (h : Upkeep s u) {o : Fin 24} : Upkeep s (fallIdle o u) := by
  unfold Machine.fallIdle
  dsimp only
  split
  · exact h.setOutletState.modControl fun _ ok => ok.motorRunOn
  · exact h.setOutletState

/-- Only a line outlet's character is converted, into codes. -/
theorem convertNext (h : Upkeep s u) {o : Fin 24} {x : OutUnit} : Upkeep s (convertNext o x u) := by
  unfold Machine.convertNext
  split
  · next line _ =>
    obtain rfl := lineOutlet_of line
    refine h.modLine fun stopped => ?_
    exact (convertChar_stallTimer _ _ _ _).trans stopped
  · exact h

/-- A terminal outlet's unit goes without codes. -/
theorem handOver (h : Upkeep s u) {o : Fin 24} {x : OutUnit} (held : (u.outlet o).unit = some x) :
    Upkeep s (handOver o x u) := by
  unfold Machine.handOver
  split
  · next line =>
    obtain rfl := lineOutlet_of line
    split
    · exact Upkeep.modLine h.modCircuit id
    · exact h
  · split
    · refine ⟨h.controls, fun c stopped => ?_, fun t none => ?_⟩
      · have before := h.timers c stopped
        rw [State.outlet_modOutlet]
        split_ifs with here
        · exact here ▸ before
        · exact before
      · have before := h.codes t none
        rw [State.outlet_modOutlet]
        split_ifs with here
        · rintro v ⟨⟩
          exact before x (here ▸ held)
        · exact before
    · exact h
  · exact h

theorem drive {n : Nat} {o : Fin 24} (h : Upkeep s u) : Upkeep s (drive n o u) := by
  induction n generalizing u with
  | zero => exact h
  | succ n ih =>
    unfold Machine.drive
    dsimp only
    split
    · split
      · exact h.pauseOutlet
      · split
        · exact ih h.takeBoundary.setOutletState
        · exact h.takeBoundary.fallIdle
    · next x held =>
      split
      · exact ih h.completeUnit
      · split
        · exact h.pauseOutlet
        · split
          · exact h.setOutletState
          · split
            · exact ih h.setOutletState.convertNext
            · exact h.setOutletState.handOver (by simpa [Machine.setOutletState] using held)

theorem goOn (h : Upkeep s u) {o : Fin 24} : Upkeep s (goOn o u) := by
  unfold Machine.goOn
  exact h.drive

theorem lineGainsWork (h : Upkeep s u) {o : Fin 24} {c : Fin 16} : Upkeep s (lineGainsWork o c u) := by
  have led : Upkeep s (Machine.arbitrate o (Machine.setOutletState o .starting
      (u.modControl c (fun x => x.motorLead (u.circuit c).config.motorLead)))) :=
    (h.modControl fun _ ok => ok.motorLead).setOutletState.arbitrate
  unfold Machine.lineGainsWork
  dsimp only
  split
  · split
    · exact (led.modControl fun _ ok => ok.motorRun).goOn
    · exact led
  · exact (h.modControl fun _ ok => ok.motorResume).goOn

theorem gainWork (h : Upkeep s u) {o : Fin 24} : Upkeep s (gainWork o u) := by
  unfold Machine.gainWork
  dsimp only
  split
  · exact h.clearFill.lineGainsWork
  · exact h.clearFill.goOn

theorem leavePause (h : Upkeep s u) {o : Fin 24} : Upkeep s (leavePause o u) := by
  unfold Machine.leavePause
  split
  · split
    · exact h.completeUnit
    · exact h
  · split
    · exact h.setOutletState
    · exact h.goOn

theorem react (h : Upkeep s u) {o : Fin 24} : Upkeep s (react o u) := by
  unfold Machine.react
  split
  · exact h
  · exact h
  · exact h.gainWork
  · exact h.goOn
  · exact h.goOn
  · exact h.leavePause

theorem reactAll {n : Nat} (h : Upkeep s u) : Upkeep s (reactAll n u) := by
  induction n generalizing u with
  | zero => exact h
  | succ n ih =>
    unfold Machine.reactAll
    split
    · exact h
    · exact ih h.react

theorem settle (h : Upkeep s u) : Upkeep s (settle u) := by
  unfold Machine.settle
  refine forEach (fun c v hv => ?_) (forEach (fun t v hv => ?_) h.reactAll)
  · unfold driveOutputs showCauses
    refine modControl (modOutlet hv ?_ ?_) ?_ <;> exact fun _ => id
  · unfold stallTimer
    exact hv.modTerminal fun _ => id

end Upkeep

end Sys2Proof.Machine

/-! PROOF. Every effect keeps control units at rest, line outlets' stall timers stopped and terminal outlets'
units without codes (`Upkeep`); what settling makes of the stall timers. -/

namespace Sys2Proof.Machine

variable {s u v : State}

namespace Upkeep

/-! ## Service -/

theorem toOff (h : Upkeep s u) {o : Fin 24} : Upkeep s (u.modOutlet o fun x => x.toOff) :=
  h.modOutlet (fun _ _ => rfl) fun _ _ => .of_none rfl

theorem outletOff (h : Upkeep s u) {o : Fin 24} : Upkeep s (outletOff o u) :=
  (toOff h.kept.cutOutlet.holds).clearFill

theorem leaveService (h : Upkeep s u) {c : Fin 16} : Upkeep s (leaveService c u) := by
  unfold Machine.leaveService
  have stopped := modControl (c := c) (f := fun x => x.motorStop)
    (outletOff (o := lineOutlet c) (h.kept.loseSource (src := .circuit c)).holds) fun _ ok => ok.motorStop
  exact stopped.kept.quietTest.holds

theorem closeCircuit (h : Upkeep s u) {c : Fin 16} : Upkeep s (closeCircuit c u) := by
  unfold Machine.closeCircuit
  exact modControl (leaveService h.modCircuit) fun _ ok => ok.force

theorem lineOn (h : Upkeep s u) {o : Fin 24} : Upkeep s (u.modOutlet o fun x => x.lineOn) :=
  h.modOutlet (fun _ => id) fun _ => id

theorem openCircuit (h : Upkeep s u) {c : Fin 16} : Upkeep s (openCircuit c u) := by
  unfold Machine.openCircuit
  exact h.modCircuit.modOutlet (fun _ => id) fun _ => id

theorem adoptClass (h : Upkeep s u) {c : Fin 16} {k : Nat} : Upkeep s (adoptClass c k u) := by
  unfold Machine.adoptClass
  dsimp only
  split
  · exact h.modCircuit.modCircuit
  · split
    · exact h.modCircuit.modCircuit
    · exact h.modCircuit.modCircuit

theorem finishSurvey (h : Upkeep s u) {c : Fin 16} : Upkeep s (finishSurvey c u) := by
  unfold Machine.finishSurvey adoptResult
  refine raise ?_
  split
  · split
    · exact h.modCircuit.adoptClass
    · exact h.modCircuit
  all_goals exact h.modCircuit

theorem cancelSurvey (h : Upkeep s u) {c : Fin 16} : Upkeep s (cancelSurvey c u) := h.modCircuit.raise

theorem setTerminal (h : Upkeep s u) {t : Fin 8} {cfg : PortConfig} : Upkeep s (setTerminal t cfg u) := by
  unfold Machine.setTerminal
  split
  · unfold enablePort
    refine modOutlet h.modPort ?_ ?_ <;> exact fun _ => id
  · exact h.modPort
  · unfold turnOff
    split
    · unfold disablePort
      exact modParser (modPort (outletOff h.kept.loseSource.holds))
    · exact h.modPort

theorem modRegs (h : Upkeep s u) {f : HostRegs → HostRegs} : Upkeep s (u.modRegs f) := h.apart rfl rfl

theorem resetCircuit (h : Upkeep s u) {c : Fin 16} : Upkeep s (resetCircuit c u) := by
  unfold Machine.resetCircuit
  refine modCircuit (h.modOutlet (fun x _ => ?_) fun x _ => .of_none ?_) <;>
    (unfold Outlet.lineReset; split <;> rfl)

theorem resetTerminal (h : Upkeep s u) {t : Fin 8} : Upkeep s (resetTerminal t u) := by
  unfold Machine.resetTerminal
  refine modParser (modPort (h.modOutlet (fun x _ => ?_) fun x _ => .of_none ?_)) <;>
    (unfold Outlet.terminalReset; split <;> rfl)

theorem trafficCleared (h : Upkeep s u) : Upkeep s (trafficCleared u) := by
  have emptied : Upkeep s { u with
      stories := Vector.replicate 48 {}
      openOrder := []
      framers := Vector.replicate 24 {}
      notices := u.notices.withFlags 0#11 } := h.apart rfl rfl
  unfold Machine.trafficCleared
  refine modRegs (forEach (fun c w g => ?_) (forEach (fun t w g => ?_) (forEach (fun c w g => ?_) emptied)))
  · exact g.modControl fun _ ok => ok.trafficReset
  · exact g.resetTerminal
  · exact g.resetCircuit

/-! ## Characters -/

theorem handToFramer (h : Upkeep s u) {c : Fin 16} {ch : Option Office} :
    Upkeep s (handToFramer c ch u) := by
  cases ch with
  | none => exact h
  | some o => exact h.kept.takeChar.holds

theorem goodCode (h : Upkeep s u) {c : Fin 16} {code : Code} : Upkeep s (goodCode c code u) := by
  unfold Machine.goodCode
  dsimp only
  refine modCircuit ?_
  unfold Machine.requestAnswerback
  split
  · exact h.modCircuit.handToFramer.modOutlet (fun _ => id) fun _ => id
  · exact h.modCircuit.handToFramer

theorem badStop (h : Upkeep s u) {c : Fin 16} {code : Code} : Upkeep s (badStop c code u) := by
  unfold Machine.badStop
  exact h.modCircuit.handToFramer

theorem offerQueue (h : Upkeep s u) {t : Fin 8} {ch : Office} : Upkeep s (offerQueue t ch u) := by
  unfold Machine.offerQueue
  split
  · exact h.modPort
  · exact h.kept.modPortCounts.raise.holds

theorem sortRest (h : Upkeep s u) {t : Fin 8} {ch : Office} : Upkeep s (sortRest t ch u) := by
  unfold Machine.sortRest
  split
  · unfold toParser
    split
    · exact h.modPort.kept.completeRequest.holds
    · exact h.modParser
  · split
    · exact h.modPort.modParser
    · exact h.offerQueue

theorem sortChar (h : Upkeep s u) {t : Fin 8} {ch : Office} : Upkeep s (sortChar t ch u) := by
  unfold Machine.sortChar
  split
  · exact h.modPort
  · split
    · dsimp only
      split
      · exact h.modPort
      · exact h.modPort.sortRest
    · exact h.sortRest

theorem stallOutlet (h : Upkeep s u) {t : Fin 8} : Upkeep s (stallOutlet t u) := by
  unfold Machine.stallOutlet
  exact raise (modPort (modOutlet h.kept.cutOutlet.holds (fun _ _ => rfl) fun _ _ => .of_none rfl))

end Upkeep

theorem Acts.upkeep (e : Acts s u) : Upkeep s u := by
  have start := Upkeep.refl s
  cases e with
  | same => exact start
  | kill k _ _ => exact start.kept.killStory.holds
  | hold k _ _ => exact start.kept.holdStory.holds
  | release k _ => exact start.kept.releaseStory.holds
  | priority k p _ => exact start.kept.setPriority.holds
  | add k o _ _ => exact start.kept.addOutlet.holds
  | drop k o => exact start.kept.cutEntry.holds
  | configure c cfg valid => exact start.apart rfl rfl
  | openCircuit c _ _ => exact start.openCircuit
  | closeCircuit c => exact start.closeCircuit
  | closeSurveyed c _ => exact start.cancelSurvey.closeCircuit
  | cancelSurvey c _ => exact start.cancelSurvey
  | startSurvey c gate adopt => exact start.kept.modCircuit.resetFramer.holds
  | finishSurvey c _ => exact start.finishSurvey
  | releaseCounter c => exact start.modControl fun _ ok => ok.rest
  | forceCounter c => exact start.modControl fun _ ok => ok.force
  | startCounter c x a valid idle =>
    refine ⟨fun d ok => ?_, start.timers, start.codes⟩
    rw [State.control_modControl]
    split_ifs with here
    · exact Control.RestOk.start (here ▸ ok) idle
    · exact ok
  | selector c n x => exact start.modControl fun _ ok => ok.writeSelector
  | terminal t cfg valid => exact start.setTerminal
  | page p n w written _ => exact start.apart rfl rfl
  | trafficReset => exact start.trafficCleared
  | markEdge c | breakBegun c | sent c => exact start.modCircuit
  | goodCode c code => exact start.goodCode
  | badStop c code => exact start.badStop
  | lost c => exact start.modCircuit.leaveService.raise
  | restored c _ => exact start.modCircuit.lineOn.raise
  | terminalCharacter t stop bad ch _ => exact start.modPort.kept.modPortCounts.holds.sortChar
  | terminalSent t => exact start.modPort
  | readyRises t _ =>
    refine start.modPort.modOutlet (fun x stopped => ?_) fun x none => ?_
    · unfold Outlet.unstalled
      split <;> exact stopped
    · unfold Outlet.unstalled
      split <;> exact none
  | readyFalls t _ =>
    refine start.modPort.modOutlet (fun x stopped => ?_) fun x none => ?_
    · unfold Outlet.paused
      split <;> exact stopped
    · unfold Outlet.paused
      split <;> exact none
  | framerTake t => exact start.kept.takeHead.holds
  | idleExpiry k => exact start.kept.expireIdle.holds
  | blockExpiry k => exact start.kept.expireBlock.holds
  | stall t => exact start.stallOutlet
  | motorTime c => exact start.modControl fun _ ok => ok.motorTick
  | counterTime c => exact start.modControl fun _ ok => ok.countTick
  | bothTimes c =>
    exact (start.modControl fun _ ok => ok.motorTick).modControl fun _ ok => ok.countTick

theorem powerOn_outlet (o : Fin 24) :
    (powerOn s).outlet o = { shiftOwed := decide (o.val < 16) } := by
  have each : ∀ o : Fin 24, powerOnOutlets.get o = { shiftOwed := decide (o.val < 16) } := by decide
  exact each o

theorem powerOn_controlsOk : (powerOn s).ControlsOk := by
  intro c
  rw [powerOn_control]
  exact ⟨fun _ => ⟨rfl, rfl⟩, fun _ => rfl, fun _ => rfl⟩

theorem Quietly.upkeep (e : Quietly s u) : Upkeep s u := by
  have start := Upkeep.refl s
  cases e with
  | powerOn =>
    refine ⟨fun c _ => ?_, fun c _ => ?_, fun t _ => ?_⟩
    · exact powerOn_controlsOk c
    · rw [powerOn_outlet]
    · exact .of_none (by rw [powerOn_outlet])
  | retire k _ _ => exact start.kept.freeRecord.holds
  | retireClosed => exact start.forEach fun _ _ h => h.kept.freeRecord.holds
  | replaceDesk i d _ _ | addDesk i d _ _ =>
    exact putDesk_keeps (P := Upkeep s) (fun _ _ _ h => h.apart rfl rfl) start
  | snapshot x =>
    unfold takeSnapshot State.clearMarks
    cases x with
    | story k | circuit c | desk i | terminal t | outlet o | page p | table => exact start.apart rfl rfl
  | insideEdge c level ticks | lateEdge c level ticks _ =>
    unfold judgedEdge
    exact start.modCircuit.kept.raiseIf.holds
  | timeFill c _ =>
    unfold takeFill
    refine (start.modCircuit.modControl ?_).modOutlet ?_ ?_ <;> exact fun _ => id
  | second =>
    unfold secondPasses
    refine Upkeep.forEach (fun o w g => g.modOutlet (fun x stopped => ?_) fun _ => id) ?_
    · simp [tick, stopped]
    refine Upkeep.forEach (fun k w g => g.kept.setStory.holds) ?_
    exact Upkeep.forEach (fun c w g => g.modCircuit) start.modRegs
  | same | number n _ _ | removeDesk i | draft _ | pending c cfg _ | clock n _ | blockLimit n _ _
  | argument _ _ | clockRead | select _ | windowRead _ | notice _ | noticeEnable _ | spaceEdge c
  | falseStart c _ | surveyEdge c _ _ | startEdge t | terminalFalseStart t | markReturn t
  | readyPin t _ _ => exact start.apart rfl rfl

/-- Settles O9: each configuration written is a checked one, and each operation of a control unit that
stops or ends a mechanism clears what belongs to it. -/
theorem stepKeepsConfigurationsInRangeAndControlsAtRest :
    Obligations.StepKeepsConfigurationsInRangeAndControlsAtRest := by
  rintro s t ⟨configs, controls⟩ e
  refine ⟨step_keeps_configsOk configs e, ?_⟩
  exact step_keeps (P := State.ControlsOk) (fun _ _ => id) (fun _ _ _ _ => id)
    (fun s u h e c => e.upkeep.settle.controls c (h c)) (fun s u h e c => e.upkeep.controls c (h c)) controls e

/-! ## What follows the reactions -/

/-- The last part of settling writes of an outlet its stall timer and the pause causes shown, and of a control
unit its two outputs. -/
structure Shown (s u : State) : Prop where
  outlets : ∀ o, ∃ timer br fb,
    u.outlet o = { s.outlet o with stallTimer := timer, counterBreak := br, farBreak := fb }
  controls : ∀ c, ∃ m g, u.control c = { s.control c with motorOut := m, signalOut := g }
  rest : u = { s with outlets := u.outlets, controls := u.controls }

namespace Shown

theorem refl (s : State) : Shown s s := ⟨fun _ => ⟨_, _, _, rfl⟩, fun _ => ⟨_, _, rfl⟩, rfl⟩

theorem trans (h : Shown s u) (g : Shown u v) : Shown s v := by
  refine ⟨fun o => ?_, fun c => ?_, ?_⟩
  · obtain ⟨_, _, _, first⟩ := h.outlets o
    obtain ⟨timer, br, fb, second⟩ := g.outlets o
    exact ⟨timer, br, fb, by rw [second, first]⟩
  · obtain ⟨_, _, first⟩ := h.controls c
    obtain ⟨m, g, second⟩ := g.controls c
    exact ⟨m, g, by rw [second, first]⟩
  · rw [g.rest, h.rest]

theorem modOutlet {o : Fin 24} {f : Outlet → Outlet}
    (shows : ∃ timer br fb,
      f (s.outlet o) = { s.outlet o with stallTimer := timer, counterBreak := br, farBreak := fb }) :
    Shown s (s.modOutlet o f) := by
  refine ⟨fun x => ?_, fun c => ⟨_, _, rfl⟩, rfl⟩
  rw [State.outlet_modOutlet]
  split_ifs with here
  · exact here ▸ shows
  · exact ⟨_, _, _, rfl⟩

theorem stallTimer (t : Fin 8) (s : State) : Shown s (stallTimer t s) := by
  unfold Machine.stallTimer
  exact modOutlet ⟨_, _, _, rfl⟩

theorem showCauses (c : Fin 16) (s : State) : Shown s (showCauses c s) := by
  unfold Machine.showCauses
  exact modOutlet ⟨_, _, _, rfl⟩

theorem driveOutputs (c : Fin 16) (s : State) : Shown s (driveOutputs c s) := by
  refine ⟨fun o => ⟨_, _, _, rfl⟩, fun d => ?_, rfl⟩
  unfold Machine.driveOutputs
  rw [State.control_modControl]
  split_ifs with here
  · exact here ▸ ⟨_, _, rfl⟩
  · exact ⟨_, _, rfl⟩

/-- Every stall timer judged and every cause and output shown. -/
theorem settle (s : State) : Shown (reactAll Config.settleFuel s) (settle s) := by
  unfold Machine.settle
  refine forEach_keeps (P := Shown _) (fun c v h => ?_) (forEach_keeps (fun t v h => ?_) (.refl _))
  · exact (h.trans (.showCauses c v)).trans (.driveOutputs c _)
  · exact h.trans (.stallTimer t v)

theorem story (h : Shown s u) (k : Fin 48) : u.story k = s.story k := by rw [h.rest]; rfl

theorem circuit (h : Shown s u) (c : Fin 16) : u.circuit c = s.circuit c := by rw [h.rest]; rfl

theorem port (h : Shown s u) (t : Fin 8) : u.port t = s.port t := by rw [h.rest]; rfl

theorem page (h : Shown s u) (p : Fin 4) : u.page p = s.page p := by rw [h.rest]; rfl

theorem openOrder (h : Shown s u) : u.openOrder = s.openOrder := by rw [h.rest]

theorem outlet (h : Shown s u) (o : Fin 24) :
    (u.outlet o).state = (s.outlet o).state ∧ (u.outlet o).holder = (s.outlet o).holder
      ∧ (u.outlet o).waiting = (s.outlet o).waiting ∧ (u.outlet o).owed = (s.outlet o).owed
      ∧ (u.outlet o).unit = (s.outlet o).unit
      ∧ (u.outlet o).answerbackOwed = (s.outlet o).answerbackOwed := by
  obtain ⟨_, _, _, same⟩ := h.outlets o
  rw [same]
  exact ⟨rfl, rfl, rfl, rfl, rfl, rfl⟩

theorem state (h : Shown s u) (o : Fin 24) : (u.outlet o).state = (s.outlet o).state := (h.outlet o).1

theorem holder (h : Shown s u) (o : Fin 24) : (u.outlet o).holder = (s.outlet o).holder :=
  (h.outlet o).2.1

theorem waiting (h : Shown s u) (o : Fin 24) : (u.outlet o).waiting = (s.outlet o).waiting :=
  (h.outlet o).2.2.1

end Shown

/-! ## Stall timers -/

/-- A terminal outlet's stall timer is as settling leaves it: it runs on a PAUSED outlet alone. -/
def State.TimersJudged (s : State) (t : Fin 8) : Prop :=
  (s.outlet (terminalOutlet t)).stallTimer.isSome = true → (s.outlet (terminalOutlet t)).state = .paused

theorem stallTimer_judged (t : Fin 8) (s : State) : (stallTimer t s).TimersJudged t := by
  unfold stallTimer State.TimersJudged
  simp only [State.outlet_modOutlet_self]
  cases paused : decide ((s.outlet (terminalOutlet t)).state = .paused) with
  | false => simp
  | true => exact fun _ => of_decide_eq_true paused

theorem stallTimer_keeps {t x : Fin 8} (h : s.TimersJudged t) : (stallTimer x s).TimersJudged t := by
  by_cases same : t = x
  · exact same ▸ stallTimer_judged _ s
  · unfold stallTimer State.TimersJudged
    rw [State.outlet_modOutlet, if_neg fun e => same (terminalOutlet_inj.1 e)]
    exact h

theorem showCauses_terminal (c : Fin 16) (s : State) (t : Fin 8) :
    (driveOutputs c (showCauses c s)).outlet (terminalOutlet t) = s.outlet (terminalOutlet t) := by
  unfold driveOutputs showCauses
  rw [State.outlet_modControl, State.outlet_modOutlet, if_neg (lineOutlet_ne_terminalOutlet c t).symm]

/-- Settling leaves each terminal's stall timer running on a PAUSED outlet alone, whatever the state. -/
theorem settle_timersJudged (s : State) (t : Fin 8) : (settle s).TimersJudged t := by
  unfold settle
  generalize reactAll Config.settleFuel s = w
  refine forEach_keeps (P := fun s => s.TimersJudged t) (fun c v h => ?_)
    (forEach_each (l := allTerminals) (Q := fun x s => s.TimersJudged x) (fun x v => stallTimer_judged x v) (fun _ _ _ h => stallTimer_keeps h) _ t
      (List.mem_finRange t))
  unfold State.TimersJudged
  rw [showCauses_terminal]
  exact h

/-- An outlet record with another shift-owed mark and another value in a running stall timer. -/
def Outlet.Ticked (x y : Outlet) : Prop :=
  ∃ timer shift, y = { x with stallTimer := timer, shiftOwed := shift }
    ∧ timer.isSome = x.stallTimer.isSome

theorem Outlet.Ticked.refl (x : Outlet) : x.Ticked x := ⟨_, _, rfl, rfl⟩

theorem Outlet.Ticked.second {x y : Outlet} (h : x.Ticked y) :
    x.Ticked { y with stallTimer := tick y.stallTimer } := by
  obtain ⟨timer, shift, rfl, runs⟩ := h
  exact ⟨tick timer, shift, rfl, by rw [← runs]; exact Option.isSome_map⟩

/-- What effects on their own write of an outlet, unless the part starts afresh: the shift-owed mark under a
fill, and a second of its stall timer. -/
theorem Quietly.outlet (e : Quietly s u) :
    u = Machine.powerOn s ∨ ∀ o, (s.outlet o).Ticked (u.outlet o) := by
  have unchanged : ∀ v : State, v.outlets = s.outlets → ∀ o, (s.outlet o).Ticked (v.outlet o) := by
    intro v same o
    unfold State.outlet
    rw [same]
    exact .refl _
  cases e with
  | powerOn => exact .inl rfl
  | retireClosed =>
    exact .inr (unchanged _
      (forEach_keeps (f := freeRecord) (P := fun v => v.outlets = s.outlets) (fun _ _ h => h) rfl))
  | replaceDesk i d _ _ | addDesk i d _ _ =>
    exact .inr (unchanged _ (putDesk_keeps (P := fun v => v.outlets = s.outlets) (fun _ _ _ => id) rfl))
  | snapshot x =>
    refine .inr (unchanged _ ?_)
    cases x <;> rfl
  | insideEdge c level ticks | lateEdge c level ticks _ =>
    refine .inr (unchanged _ ?_)
    unfold judgedEdge State.raiseIf
    dsimp only
    split <;> rfl
  | timeFill c _ =>
    refine .inr fun o => ?_
    unfold takeFill
    rw [State.outlet_modOutlet]
    split_ifs with here
    · exact here ▸ ⟨_, _, rfl, rfl⟩
    · exact .refl _
  | second =>
    refine .inr fun o => ?_
    unfold secondPasses
    dsimp only
    refine forEach_keeps (P := fun v => (s.outlet o).Ticked (v.outlet o)) (fun x v h => ?_) ?_
    · rw [State.outlet_modOutlet]
      split_ifs with here
      · exact here ▸ h.second
      · exact h
    refine forEach_keeps (P := fun v => (s.outlet o).Ticked (v.outlet o)) (fun x v h => ?_) ?_
    · exact h
    refine forEach_keeps (P := fun v => (s.outlet o).Ticked (v.outlet o)) (fun x v h => ?_) ?_
    · exact h
    · exact .refl _
  | same | retire k _ _ | number n _ _ | removeDesk i | draft _ | pending c cfg _ | clock n _
  | blockLimit n _ _ | argument _ _ | clockRead | select _ | windowRead _ | notice _ | noticeEnable _
  | spaceEdge c | falseStart c _ | surveyEdge c _ _ | startEdge t | terminalFalseStart t | markReturn t
  | readyPin t _ _ => exact .inr (unchanged _ rfl)

/-- Effects on their own leave terminal outlets' states, and no stall timer begins to run. -/
theorem Quietly.timersJudged (e : Quietly s u) {t : Fin 8} (h : s.TimersJudged t) : u.TimersJudged t := by
  rcases e.outlet with rfl | same
  · unfold State.TimersJudged
    rw [powerOn_outlet]
    nofun
  · obtain ⟨timer, shift, eq, runs⟩ := same (terminalOutlet t)
    unfold State.TimersJudged
    rw [eq]
    exact fun running => h (runs.symm.trans running)

/-- Settles O13: a line outlet's stall timer is never started, and settling judges the terminals'. -/
theorem stepKeepsStallTimersOnPausedOutlets : Obligations.StepKeepsStallTimersOnPausedOutlets := by
  refine fun s t => step_keeps (P := State.StallTimersOk) (fun _ _ => id) (fun _ _ _ _ => id)
    (fun s u h e => ⟨fun c => e.upkeep.settle.timers c (h.1 c), fun t => settle_timersJudged u t⟩)
    (fun s u h e => ⟨fun c => e.upkeep.timers c (h.1 c), fun t => e.timersJudged (h.2 t)⟩)

end Sys2Proof.Machine

/-! PROOF. The control outputs are what their selectors give (R151): settling drives them last, and the effects
that nothing settles leave what the conditions read. -/

namespace Sys2Proof.Machine

variable {s u : State}

/-! ## What the conditions of a circuit read -/

/-- Two states give every condition of a circuit one value (R151). -/
structure Alike (c : Fin 16) (s u : State) : Prop where
  service : (u.circuit c).state = (s.circuit c).state
  farBreak : (u.circuit c).rxPhase = .farBreak ↔ (s.circuit c).rxPhase = .farBreak
  motor : (u.control c).motor = (s.control c).motor
  wave : (u.control c).wave = (s.control c).wave
  state : (u.outlet (lineOutlet c)).state = (s.outlet (lineOutlet c)).state
  holder : (u.outlet (lineOutlet c)).holder = (s.outlet (lineOutlet c)).holder
  waiting : (u.outlet (lineOutlet c)).waiting = (s.outlet (lineOutlet c)).waiting
  priority : ∀ h, (s.outlet (lineOutlet c)).holder = some h → (u.story h).priority = (s.story h).priority
  eligible : ∀ k ∈ (s.outlet (lineOutlet c)).waiting,
    u.eligible (lineOutlet c) k = s.eligible (lineOutlet c) k

theorem any_congr_mem {α : Type} {l : List α} {p q : α → Bool} (h : ∀ a ∈ l, p a = q a) :
    l.any p = l.any q := by
  induction l with
  | nil => rfl
  | cons a l ih =>
    rw [List.any_cons, List.any_cons, h a List.mem_cons_self,
      ih fun b hb => h b (List.mem_cons_of_mem a hb)]

namespace Alike

variable {c : Fin 16}

theorem condition (h : Alike c s u) (x : Condition) : u.condition c x = s.condition c x := by
  unfold State.condition
  cases x with
  | motorWanted => rw [h.motor]
  | counterWave => rw [h.wave]
  | flashHeld =>
    simp only [h.holder]
    cases held : (s.outlet (lineOutlet c)).holder with
    | none => rfl
    | some k => simp only [Option.any_some, h.priority k held]
  | storyWaiting =>
    simp only [h.waiting]
    exact any_congr_mem h.eligible
  | farBreak => exact decide_eq_decide.2 h.farBreak
  | outletPaused => rw [h.state]
  | zero => rfl

theorem outputLevel (h : Alike c s u) (x : Selector) : u.outputLevel c x = s.outputLevel c x := by
  unfold State.outputLevel
  rw [h.service, funext h.condition]

/-- States whose outlets and stories are the same, and whose circuit and control unit read alike. -/
theorem of_records (service : (u.circuit c).state = (s.circuit c).state)
    (farBreak : (u.circuit c).rxPhase = .farBreak ↔ (s.circuit c).rxPhase = .farBreak)
    (control : u.control c = s.control c) (outlets : u.outlets = s.outlets) (stories : u.stories = s.stories) :
    Alike c s u := by
  have outlet : ∀ o, u.outlet o = s.outlet o := fun o => by unfold State.outlet; rw [outlets]
  have story : ∀ k, u.story k = s.story k := fun k => by unfold State.story; rw [stories]
  refine ⟨service, farBreak, by rw [control], by rw [control], by rw [outlet], by rw [outlet],
    by rw [outlet], fun h _ => by rw [story], fun k _ => ?_⟩
  unfold State.eligible State.entry
  rw [story]

end Alike

/-! ## Settling drives the outputs -/

theorem Shown.alike (h : Shown s u) (c : Fin 16) : Alike c s u := by
  obtain ⟨_, _, control⟩ := h.controls c
  refine ⟨by rw [h.circuit], by rw [h.circuit], by rw [control], by rw [control], h.state _, h.holder _,
    h.waiting _, fun k _ => by rw [h.story], fun k _ => ?_⟩
  unfold State.eligible State.entry
  rw [h.story]

/-- The outputs of a circuit are what its selectors give. -/
def State.OutputsOn (s : State) (c : Fin 16) : Prop :=
  (s.control c).motorOut = s.outputLevel c (s.control c).motorSel
    ∧ (s.control c).signalOut = s.outputLevel c (s.control c).signalSel

theorem driveOutputs_on (c : Fin 16) (s : State) : (driveOutputs c s).OutputsOn c := by
  have same := (Shown.driveOutputs c s).alike c
  have control : (driveOutputs c s).control c = { s.control c with
      motorOut := s.outputLevel c (s.control c).motorSel
      signalOut := s.outputLevel c (s.control c).signalSel } := State.control_modControl_self _ _ _
  unfold State.OutputsOn
  rw [control, same.outputLevel, same.outputLevel]
  exact ⟨rfl, rfl⟩

theorem driveOutputs_keeps {c d : Fin 16} (h : s.OutputsOn c) :
    (driveOutputs d (showCauses d s)).OutputsOn c := by
  by_cases here : c = d
  · exact here ▸ driveOutputs_on d _
  · have same := ((Shown.showCauses d s).trans (.driveOutputs d _)).alike c
    have control : (driveOutputs d (showCauses d s)).control c = s.control c := by
      unfold driveOutputs
      rw [State.control_modControl, if_neg here]
      rfl
    unfold State.OutputsOn
    rw [control, same.outputLevel, same.outputLevel]
    exact h

/-- Every circuit's outputs driven, whatever the state. -/
theorem driveAll_on (s : State) (c : Fin 16) :
    (forEach allCircuits (fun c t => driveOutputs c (showCauses c t)) s).OutputsOn c :=
  forEach_each (Q := fun c v => State.OutputsOn v c) (f := fun c t => driveOutputs c (showCauses c t))
    (fun d _ => driveOutputs_on d _) (fun _ _ _ h => driveOutputs_keeps h) s c (List.mem_finRange c)

/-- Settling leaves every output as its selector gives, whatever the state. -/
theorem settle_outputsOk (s : State) : (settle s).OutputsOk := driveAll_on _

/-! ## Effects on their own -/

/-- A control unit whose fill mark alone may differ. -/
def Control.Filled (x y : Control) : Prop := ∃ fill, y = { x with fillOwed := fill }

/-- A circuit record in the same service, configuration and far break. -/
structure Circuit.Heard (x y : Circuit) : Prop where
  state : y.state = x.state
  config : y.config = x.config
  farBreak : y.rxPhase = .farBreak ↔ x.rxPhase = .farBreak

theorem Circuit.Heard.refl (x : Circuit) : x.Heard x := ⟨rfl, rfl, Iff.rfl⟩

theorem Circuit.Heard.trans {x y z : Circuit} (h : x.Heard y) (g : y.Heard z) : x.Heard z :=
  ⟨g.state.trans h.state, g.config.trans h.config, g.farBreak.trans h.farBreak⟩

/-- A change of the receiver that neither begins nor ends a far break. -/
theorem Circuit.Heard.of_phase {x y : Circuit} (state : y.state = x.state) (config : y.config = x.config)
    (before : x.rxPhase ≠ .farBreak) (after : y.rxPhase ≠ .farBreak) : x.Heard y :=
  ⟨state, config, iff_of_false after before⟩

theorem Circuit.heard_spaceEdge (x : Circuit) : x.Heard x.spaceEdge := by
  unfold Circuit.spaceEdge
  dsimp only
  split_ifs with hunting lost
  · exact .of_phase rfl rfl (by simp [hunting.2]) nofun
  · exact ⟨rfl, rfl, Iff.rfl⟩
  · exact ⟨rfl, rfl, Iff.rfl⟩

theorem Circuit.heard_markEdge {x : Circuit} (hunts : x.rxPhase = .hunting) : x.Heard x.markEdge := by
  unfold Circuit.markEdge
  simp only [hunts]
  unfold Circuit.allSpaceOver
  split
  · exact .of_phase rfl rfl (by simp [hunts]) (by simp [Circuit.withInput, hunts])
  · exact .of_phase rfl rfl (by simp [hunts]) (by simp [Circuit.withInput, hunts])

theorem Circuit.heard_slipped (x : Circuit) (y : Slip) : x.Heard (x.slipped y) := by
  cases y <;> exact ⟨rfl, rfl, Iff.rfl⟩

/-- A story record whose timers and changed mark alone may differ. -/
def Story.Aged (x y : Story) : Prop :=
  ∃ idle block changed, y = { x with idleTimer := idle, blockTimer := block, changed := changed }

theorem Story.Aged.refl (x : Story) : x.Aged x := ⟨_, _, _, rfl⟩

theorem circuit_raiseIf (s : State) (b : Bool) (x : Flag) (c : Fin 16) :
    (s.raiseIf b x).circuit c = s.circuit c := by
  unfold State.raiseIf
  split <;> rfl

theorem story_freeRecord (s : State) (k j : Fin 48) :
    (freeRecord k s).story j = if j = k then {} else s.story j :=
  State.story_setStory s k {} j

theorem story_freeRecords (l : List (Fin 48)) (s : State) (j : Fin 48) :
    (forEach l freeRecord s).story j = if j ∈ l then {} else s.story j := by
  induction l generalizing s with
  | nil => rfl
  | cons k l ih =>
    rw [forEach_cons, ih, story_freeRecord]
    by_cases here : j = k <;> simp [here]

/-- What effects on their own write of a circuit: not its service, its configuration or a far break. -/
theorem Quietly.circuit (e : Quietly s u) :
    u = Machine.powerOn s ∨ ∀ c, (s.circuit c).Heard (u.circuit c) := by
  have unchanged : ∀ v : State, v.circuits = s.circuits → ∀ c, (s.circuit c).Heard (v.circuit c) := by
    intro v same c
    unfold State.circuit
    rw [same]
    exact .refl _
  have one : ∀ (v : State) (c : Fin 16) (f : Circuit → Circuit), v.circuits = s.circuits →
      (s.circuit c).Heard (f (s.circuit c)) → ∀ d, (s.circuit d).Heard ((v.modCircuit c f).circuit d) := by
    intro v c f same heard d
    have left : v.circuit = s.circuit := by
      unfold State.circuit
      rw [same]
    rw [State.circuit_modCircuit, left]
    split_ifs with here
    · exact here ▸ heard
    · exact .refl _
  cases e with
  | powerOn => exact .inl rfl
  | retireClosed =>
    exact .inr (unchanged _
      (forEach_keeps (f := freeRecord) (P := fun v => v.circuits = s.circuits) (fun _ _ h => h) rfl))
  | replaceDesk i d _ _ | addDesk i d _ _ =>
    exact .inr (unchanged _ (putDesk_keeps (P := fun v => v.circuits = s.circuits) (fun _ _ _ => id) rfl))
  | snapshot x =>
    cases x with
    | circuit c =>
      exact .inr (one s c (fun x => { x with slipFlag := false }) rfl ⟨rfl, rfl, Iff.rfl⟩)
    | story k | desk i | terminal t | outlet o | page p | table => exact .inr (unchanged _ rfl)
  | pending c cfg _ => exact .inr (one _ c _ rfl ⟨rfl, rfl, Iff.rfl⟩)
  | spaceEdge c => exact .inr (one s c _ rfl (Circuit.heard_spaceEdge _))
  | falseStart c receiving => exact .inr (one s c _ rfl (.of_phase rfl rfl (by simp [receiving]) nofun))
  | insideEdge c level ticks =>
    refine .inr fun d => ?_
    unfold judgedEdge
    rw [circuit_raiseIf]
    have recorded : (s.circuit c).Heard ((s.circuit c).recordEdge level ticks) := ⟨rfl, rfl, Iff.rfl⟩
    exact one s c _ rfl (recorded.trans (Circuit.heard_slipped _ _)) d
  | lateEdge c level ticks hunts =>
    refine .inr fun d => ?_
    unfold judgedEdge
    rw [circuit_raiseIf]
    refine one s c _ rfl (Circuit.Heard.trans ?_ (Circuit.heard_slipped _ _)) d
    cases level with
    | space => exact Circuit.heard_spaceEdge _
    | mark => exact Circuit.heard_markEdge hunts
  | surveyEdge c _ _ => exact .inr (one s c _ rfl ⟨rfl, rfl, Iff.rfl⟩)
  | timeFill c _ =>
    exact .inr (one s c (fun x => { x with sending := some (x.startChar 31#5 .fill) }) rfl
      ⟨rfl, rfl, Iff.rfl⟩)
  | second =>
    refine .inr fun c => ?_
    unfold secondPasses
    dsimp only
    refine forEach_keeps (P := fun v => (s.circuit c).Heard (v.circuit c)) (fun x v h => ?_) ?_
    · exact h
    refine forEach_keeps (P := fun v => (s.circuit c).Heard (v.circuit c)) (fun x v h => ?_) ?_
    · exact h
    refine forEach_keeps (P := fun v => (s.circuit c).Heard (v.circuit c)) (fun x v h => ?_) ?_
    · rw [State.circuit_modCircuit]
      split_ifs with here
      · exact here ▸ h.trans ⟨rfl, rfl, Iff.rfl⟩
      · exact h
    · exact .refl _
  | same | retire k _ _ | number n _ _ | removeDesk i | draft _ | clock n _ | blockLimit n _ _
  | argument _ _ | clockRead | select _ | windowRead _ | notice _ | noticeEnable _ | startEdge t
  | terminalFalseStart t | markReturn t | readyPin t _ _ => exact .inr (unchanged _ rfl)

/-- What effects on their own write of a control unit: a fill mark. -/
theorem Quietly.control (e : Quietly s u) :
    u = Machine.powerOn s ∨ ∀ c, (s.control c).Filled (u.control c) := by
  have unchanged : ∀ v : State, v.controls = s.controls → ∀ c, (s.control c).Filled (v.control c) := by
    intro v same c
    unfold State.control
    rw [same]
    exact ⟨_, rfl⟩
  cases e with
  | powerOn => exact .inl rfl
  | retireClosed =>
    exact .inr (unchanged _
      (forEach_keeps (f := freeRecord) (P := fun v => v.controls = s.controls) (fun _ _ h => h) rfl))
  | replaceDesk i d _ _ | addDesk i d _ _ =>
    exact .inr (unchanged _ (putDesk_keeps (P := fun v => v.controls = s.controls) (fun _ _ _ => id) rfl))
  | snapshot x =>
    refine .inr (unchanged _ ?_)
    cases x <;> rfl
  | insideEdge c level ticks | lateEdge c level ticks _ =>
    refine .inr (unchanged _ ?_)
    unfold judgedEdge State.raiseIf
    dsimp only
    split <;> rfl
  | timeFill c _ =>
    refine .inr fun d => ?_
    unfold takeFill
    rw [State.control_modOutlet, State.control_modControl]
    split_ifs with here
    · exact here ▸ ⟨_, rfl⟩
    · exact ⟨_, rfl⟩
  | second =>
    refine .inr (unchanged _ ?_)
    unfold secondPasses
    dsimp only
    refine forEach_keeps (P := fun v => v.controls = s.controls) (fun x v h => ?_) ?_
    · exact h
    refine forEach_keeps (P := fun v => v.controls = s.controls) (fun x v h => ?_) ?_
    · exact h
    refine forEach_keeps (P := fun v => v.controls = s.controls) (fun x v h => ?_) rfl
    exact h
  | same | retire k _ _ | number n _ _ | removeDesk i | draft _ | pending c cfg _ | clock n _
  | blockLimit n _ _ | argument _ _ | clockRead | select _ | windowRead _ | notice _ | noticeEnable _
  | spaceEdge c | falseStart c _ | surveyEdge c _ _ | startEdge t | terminalFalseStart t | markReturn t
  | readyPin t _ _ => exact .inr (unchanged _ rfl)

/-- What effects on their own write of a story: its timers and its changed mark, or a CLOSED record is made
FREE. -/
theorem Quietly.story (e : Quietly s u) : u = Machine.powerOn s ∨
    ∀ k, (s.story k).Aged (u.story k) ∨ (s.story k).state = .closed ∧ u.story k = {} := by
  have unchanged : ∀ v : State, v.stories = s.stories →
      ∀ k, (s.story k).Aged (v.story k) ∨ (s.story k).state = .closed ∧ v.story k = {} := by
    intro v same k
    unfold State.story
    rw [same]
    exact .inl (.refl _)
  cases e with
  | powerOn => exact .inl rfl
  | retire k closed _ =>
    refine .inr fun j => ?_
    rw [story_freeRecord]
    split_ifs with here
    · exact .inr ⟨here ▸ closed, rfl⟩
    · exact .inl (.refl _)
  | retireClosed =>
    refine .inr fun j => ?_
    rw [story_freeRecords]
    split_ifs with free
    · have closed := (List.mem_filter.1 free).2
      simp only [State.retirable, Bool.and_eq_true, decide_eq_true_eq] at closed
      exact .inr ⟨closed.1, rfl⟩
    · exact .inl (.refl _)
  | replaceDesk i d _ _ | addDesk i d _ _ =>
    exact .inr (unchanged _ (putDesk_keeps (P := fun v => v.stories = s.stories) (fun _ _ _ => id) rfl))
  | snapshot x =>
    cases x with
    | story k =>
      refine .inr fun j => .inl ?_
      unfold takeSnapshot State.clearMarks
      rw [State.story_modRegs, State.story_setStory]
      split_ifs with here
      · exact here ▸ ⟨_, _, _, rfl⟩
      · exact .refl _
    | circuit c | desk i | terminal t | outlet o | page p | table => exact .inr (unchanged _ rfl)
  | insideEdge c level ticks | lateEdge c level ticks _ =>
    refine .inr (unchanged _ ?_)
    unfold judgedEdge State.raiseIf
    dsimp only
    split <;> rfl
  | second =>
    refine .inr fun k => .inl ?_
    unfold secondPasses
    dsimp only
    refine forEach_keeps (P := fun v => (s.story k).Aged (v.story k)) (fun x v h => ?_) ?_
    · exact h
    refine forEach_keeps (P := fun v => (s.story k).Aged (v.story k)) (fun x v h => ?_) ?_
    · rw [State.story_setStory]
      split_ifs with here
      · obtain ⟨_, _, _, eq⟩ := h
        rw [← here, eq]
        exact ⟨_, _, _, rfl⟩
      · exact h
    refine forEach_keeps (P := fun v => (s.story k).Aged (v.story k)) (fun x v h => ?_) (.refl _)
    exact h
  | same | number n _ _ | removeDesk i | draft _ | pending c cfg _ | clock n _
  | blockLimit n _ _ | argument _ _ | clockRead | select _ | windowRead _ | notice _ | noticeEnable _
  | spaceEdge c | falseStart c _ | surveyEdge c _ _ | startEdge t | terminalFalseStart t | markReturn t
  | readyPin t _ _ | timeFill c _ => exact .inr (unchanged _ rfl)

/-! ## The outputs after every step -/

/-- A CLOSED record is neither holder nor waiting. -/
theorem State.Consistent.closed_off (h : s.Consistent) {k : Fin 48} (closed : (s.story k).state = .closed)
    (o : Fin 24) : (s.outlet o).holder ≠ some k ∧ k ∉ (s.outlet o).waiting := by
  have dead := (h.table.stories k).has_closed closed o
  refine ⟨fun holds => ?_, fun waits => ?_⟩
  · exact absurd (Story.liveOn_of_carrying (((h.table.outlets o).holds k).1 holds)) (by simp [dead])
  · exact absurd (Story.liveOn_of_waits (((h.table.outlets o).waits k).1 waits)) (by simp [dead])

theorem Story.Aged.eligible {o : Fin 24} {k : Fin 48} (h : (s.story k).Aged (u.story k)) :
    u.eligible o k = s.eligible o k := by
  obtain ⟨_, _, _, eq⟩ := h
  unfold State.eligible State.entry
  rw [eq]
  rfl

theorem Quietly.alike (e : Quietly s u) (h : s.Consistent) : u = Machine.powerOn s ∨ ∀ c, Alike c s u := by
  rcases e.circuit with rfl | circuit
  · exact .inl rfl
  rcases e.control with rfl | control
  · exact .inl rfl
  rcases e.outlet with rfl | outlet
  · exact .inl rfl
  rcases e.story with rfl | story
  · exact .inl rfl
  refine .inr fun c => ?_
  obtain ⟨_, filled⟩ := control c
  obtain ⟨_, _, same, _⟩ := outlet (lineOutlet c)
  have aged : ∀ k, (s.story k).state ≠ .closed → (s.story k).Aged (u.story k) := fun k stands =>
    (story k).resolve_right fun freed => stands freed.1
  refine ⟨(circuit c).state, (circuit c).farBreak, by rw [filled], by rw [filled], by rw [same],
    by rw [same], by rw [same], fun k holds => ?_, fun k waits => ?_⟩
  · obtain ⟨_, _, _, eq⟩ := aged k fun closed => (h.closed_off closed _).1 holds
    rw [eq]
  · exact (aged k fun closed => (h.closed_off closed _).2 waits).eligible

/-- Power-on reset leaves every output low, as its selector gives for a CLOSED circuit. -/
theorem powerOn_outputsOk : (powerOn s).OutputsOk := by
  intro c
  unfold State.outputLevel
  rw [powerOn_control, powerOn_circuit]
  exact ⟨rfl, rfl⟩

theorem State.OutputsOn.alike {c : Fin 16} (h : s.OutputsOn c) (same : Alike c s u)
    (control : (s.control c).Filled (u.control c)) : u.OutputsOn c := by
  obtain ⟨fill, eq⟩ := control
  unfold State.OutputsOn
  rw [eq, same.outputLevel, same.outputLevel]
  exact h

/-- Settles O12: settling drives the outputs last, and what nothing settles leaves the conditions as they
were. -/
theorem stepKeepsControlOutputsSelected : Obligations.StepKeepsControlOutputsSelected := by
  intro s t consistent outputs e
  refine (step_keeps (P := fun s => s.Consistent ∧ s.OutputsOk)
    (fun s _ h => ⟨h.1.aside { Aside.refl s with }, h.2⟩)
    (fun s _ _ _ h => ⟨h.1.aside (Aside.refl s).modRegs, h.2⟩)
    (fun s u h e => ⟨(h.1.acts e).settle, settle_outputsOk u⟩)
    (fun s u h e => ⟨h.1.quietly e, ?_⟩) ⟨consistent, outputs⟩ e).2
  rcases e.alike h.1 with rfl | alike
  · exact powerOn_outputsOk
  rcases e.control with rfl | control
  · exact powerOn_outputsOk
  · exact fun c => State.OutputsOn.alike (h.2 c) (alike c) (control c)

end Sys2Proof.Machine

/-! PROOF. Steps, resets and the command port (R1, R28, R43, R56, R73 to R77, R101, R113, R140, R154, R164 to
R166, R174 to R176). -/

namespace Sys2Proof.Machine

variable {s t u : State}

/-! ## Steps and resets -/

/-- Settles O1: the front command is taken off the queue and run. -/
theorem stepRunsTheFrontCommand : Obligations.StepRunsTheFrontCommand := fun _ _ _ => rfl

/-- Settles O2: with no command waiting the state stays. -/
theorem emptyQueueIdles : Obligations.EmptyQueueIdles := by
  intro s empty
  unfold step
  rw [empty]

theorem powerOn_framer (i : Fin 24) : (powerOn s).framer i = {} := by
  simp [powerOn, State.reset, State.framer]

theorem powerOn_story (k : Fin 48) : (powerOn s).story k = {} := by
  simp [powerOn, State.reset, State.story]

/-- Settles O3: each block's record is the one a fresh part has, but for the pins. -/
theorem powerOnResetStartsEveryBlockAfresh : Obligations.PowerOnResetStartsEveryBlockAfresh := by
  intro s
  refine ⟨powerOn s, rfl, powerOn_circuit, powerOn_port, powerOn_parser, powerOn_framer, powerOn_story,
    fun c => ?_, fun p => ?_, powerOn_control, powerOn_desk, rfl, rfl, rfl, rfl, rfl, rfl⟩
  · rw [powerOn_outlet, decide_eq_true (by exact c.isLt)]
  · rw [powerOn_outlet, decide_eq_false (by exact Nat.not_lt.2 (Nat.le_add_right 16 p))]

/-- The part right after power-on reset is the one a second power-on reset leaves. -/
theorem powerOn_reset : powerOn State.reset = State.reset := by
  have circuits : (Vector.ofFn fun c : Fin 16 => ({ rxLine := (State.reset.circuit c).rxLine } : Circuit))
      = Vector.replicate 16 {} := by
    ext i hi : 1
    simp [State.reset, State.circuit]
  have ports : (Vector.ofFn fun p : Fin 8 =>
        ({ rxMark := (State.reset.port p).rxMark
           readyPin := (State.reset.port p).readyPin
           readyIn := (State.reset.port p).readyPin } : Port))
      = Vector.replicate 8 {} := by
    ext i hi : 1
    simp [State.reset, State.port]
  unfold powerOn
  rw [circuits, ports]
  rfl

theorem reset_circuit (c : Fin 16) : State.reset.circuit c = {} := by
  simp [State.reset, State.circuit]

theorem reset_port (p : Fin 8) : State.reset.port p = {} := by
  simp [State.reset, State.port]

theorem reset_outlet (o : Fin 24) : State.reset.outlet o = { shiftOwed := decide (o.val < 16) } := by
  rw [← powerOn_reset]
  exact powerOn_outlet o

theorem reset_page_empty (p : Fin 4) (other : p ≠ 0) :
    (∀ i, (State.reset.page p).rxLetters.get i = .subst ∧ (State.reset.page p).rxFigures.get i = .subst)
      ∧ (∀ i, (State.reset.page p).send.get i = .subst)
      ∧ (State.reset.page p).substitute = office '?' := by
  have blank : State.reset.page p = blankPage := by
    fin_cases p
    · exact absurd rfl other
    all_goals rfl
  rw [blank]
  exact ⟨fun i => ⟨Vector.get_replicate _ _ i, Vector.get_replicate _ _ i⟩,
    fun i => Vector.get_replicate _ _ i, rfl⟩

/-- Settles O4: the records' default values are the stated ones. -/
theorem resetStateHoldsTheStatedValues : Obligations.ResetStateHoldsTheStatedValues := by
  refine ⟨⟨rfl, rfl, fun k => ?_, rfl, rfl, rfl, rfl, rfl, rfl, rfl, rfl⟩, ⟨rfl, rfl, rfl⟩,
    fun c => reset_circuit c, fun p => reset_port p, fun p => ?_, fun i => ?_, fun k => ?_, rfl, rfl,
    fun i => ?_, fun o => ?_, fun c => ?_, fun c => ?_, rfl, fun p other => reset_page_empty p other⟩
  · exact Vector.get_replicate _ _ k
  · exact Vector.get_replicate _ _ p
  · exact Vector.get_replicate _ _ i
  · exact congrArg Story.state (Vector.get_replicate _ _ k)
  · exact Vector.get_replicate _ _ i
  · rw [reset_outlet]
  · rw [reset_outlet, decide_eq_true (by exact c.isLt)]
  · have fresh : State.reset.control c = {} := Vector.get_replicate _ _ c
    rw [fresh]

/-- Settles O5: the empty table and the default records satisfy every invariant. -/
theorem resetStateIsWellKept : Obligations.ResetStateIsWellKept := by
  rw [Obligations.ResetStateIsWellKept, ← powerOn_reset]
  have outlet := fun o => powerOn_outlet (s := State.reset) o
  refine ⟨.powerOn _, powerOn_registersOk, powerOn_interruptOk, rfl, powerOn_configsOk, powerOn_controlsOk,
    powerOn_queuesOk, powerOn_parsersOk, powerOn_directoryOk, powerOn_outputsOk, ⟨fun c => ?_, fun p => ?_⟩,
    ⟨fun o => ?_, fun p v held => ?_⟩⟩
  · rw [outlet]
  · rw [outlet]
    nofun
  · unfold State.CalmOn
    rw [outlet]
    trivial
  · rw [outlet] at held
    cases held

/-! ## The command port -/

/-- A number of 1 to 26 is answered: refused with the state's records as they were, or carried out with the
argument words as they were. -/
def Answers (n : Nat) (s t : State) : Prop :=
  (∃ code, code ≠ .ok ∧ t = s.refuse n code)
    ∨ ∃ (u : State) (words : ResultWords), t = u.answer n .ok words ∧ u.regs.args = s.regs.args

namespace Answers

variable {n : Nat}

theorem refuse {code : ResultCode} (bad : code ≠ .ok := by nofun) : Answers n s (s.refuse n code) :=
  .inl ⟨code, bad, rfl⟩

theorem answer {words : ResultWords} (args : u.regs.args = s.regs.args) :
    Answers n s (u.answer n .ok words) :=
  .inr ⟨u, words, rfl, args⟩

/-- Traffic and the outlets' reactions leave the argument words. -/
theorem settled {v : State} {words : ResultWords} (args : u.regs.args = s.regs.args) (h : Traffic u v) :
    Answers n s ((settle v).answer n .ok words) :=
  answer (by rw [h.settle.regs, args])

theorem done {v : State} (h : Traffic s v) : Answers n s (v.done n) := settled rfl h

theorem onStory {f : Fin 48 → State → State} (each : ∀ k, Answers n s (f k s)) :
    Answers n s (onStory n f s) := by
  unfold Machine.onStory
  split
  · exact refuse
  · exact each _

theorem storyFind : Answers 1 s (storyFind s) := by
  have found (x : Option (Fin 48)) : Answers 1 s (answerFound s x) := by
    cases x with
    | none => exact refuse
    | some k => exact answer rfl
  unfold Machine.storyFind
  split
  · unfold findBySlot
    split
    · exact found _
    · exact refuse
  · unfold findByNumber
    dsimp only
    split
    · exact found _
    · exact refuse
  · unfold findBySlug
    split
    · exact found _
    · exact refuse
  · exact refuse

theorem storyKill : Answers 2 s (storyKill s) := by
  refine onStory fun k => ?_
  split
  · exact refuse
  · exact done (Traffic.refl s).killStory

theorem storyHold : Answers 3 s (storyHold s) := by
  refine onStory fun k => ?_
  split_ifs
  · exact refuse
  · exact refuse
  · exact done (Traffic.refl s).holdStory

theorem storyRelease : Answers 4 s (storyRelease s) := by
  refine onStory fun k => ?_
  split_ifs
  · exact refuse
  · exact done (Traffic.refl s).releaseStory

theorem storyPriority : Answers 5 s (storyPriority s) := by
  unfold Machine.storyPriority
  split
  · exact refuse
  · refine onStory fun k => ?_
    split_ifs
    · exact done (Traffic.refl s).setPriority
    · exact refuse

theorem storyAddOutlet : Answers 6 s (storyAddOutlet s) := by
  unfold Machine.storyAddOutlet
  split
  · exact refuse
  · refine onStory fun k => ?_
    split_ifs with ok
    · exact done (Traffic.refl s).addOutlet
    · exact refuse ok

theorem storyDropOutlet : Answers 7 s (storyDropOutlet s) := by
  unfold Machine.storyDropOutlet
  split
  · exact refuse
  · refine onStory fun k => ?_
    split_ifs
    · exact done (Traffic.refl s).cutEntry
    · exact refuse

theorem retireCommand : Answers 8 s (retireCommand s) := by
  unfold Machine.retireCommand
  split
  · exact refuse
  · split_ifs
    · exact refuse
    · exact refuse
    · exact answer rfl

theorem retireClosed : Answers 9 s (retireClosed s) :=
  answer (forEach_keeps (f := freeRecord) (P := fun u => u.regs.args = s.regs.args) (fun _ _ h => h) rfl)

theorem nextChanged : Answers 10 s (nextChanged s) := by
  unfold Machine.nextChanged
  split <;> exact answer rfl

theorem setNextNumber : Answers 11 s (setNextNumber s) := by
  unfold Machine.setNextNumber
  dsimp only
  split_ifs
  · exact refuse
  · exact refuse
  · exact answer rfl

theorem putDesk {i : Fin 32} {d : Desk} : Answers 12 s ((putDesk i d s).answer 12 .ok) :=
  answer (putDesk_keeps (P := fun u => u.regs.args = s.regs.args) (fun _ _ _ => id) rfl)

theorem deskWrite : Answers 12 s (deskWrite s) := by
  unfold Machine.deskWrite
  split
  · exact refuse
  · split
    · exact putDesk
    · exact putDesk
    · exact refuse

theorem deskRemove : Answers 13 s (deskRemove s) := by
  unfold Machine.deskRemove
  split
  · exact refuse
  · split
    · exact refuse
    · exact answer rfl

theorem placeConfig {c : Fin 16} {cfg : CircuitConfig} : Answers 14 s (placeConfig c cfg s) := by
  unfold Machine.placeConfig
  dsimp only
  split_ifs
  · exact settled (u := applyConfig c cfg (s.modRegs fun r => { r with draft := none })) rfl (.refl _)
  · exact answer rfl

theorem circuitSet : Answers 14 s (circuitSet s) := by
  unfold Machine.circuitSet
  split
  · unfold submitConfig
    split
    · exact refuse
    · split
      · exact refuse
      · exact placeConfig
  · unfold setSection1
    dsimp only
    split
    · exact refuse
    · split_ifs
      · exact answer rfl
      · exact refuse
  · unfold setSection2
    dsimp only
    split
    · exact refuse
    · split_ifs
      · exact answer rfl
      · exact refuse
  · exact refuse

theorem circuitOpen : Answers 15 s (circuitOpen s) := by
  unfold Machine.circuitOpen
  split
  · exact refuse
  · dsimp only
    split_ifs
    · exact refuse
    · exact refuse
    · exact done (Traffic.refl s).openCircuit

theorem circuitClose : Answers 16 s (circuitClose s) := by
  unfold Machine.circuitClose
  split
  · exact refuse
  · next c _ =>
    have ended : Traffic s (if (s.circuit c).survey then cancelSurvey c s else s) := by
      split_ifs
      · exact (Traffic.refl s).cancelSurvey
      · exact .refl s
    refine done ?_
    split_ifs at ended ⊢
    · exact ended
    · exact ended
    · exact ended.closeCircuit
    · exact ended.closeCircuit

theorem surveyStart : Answers 17 s (surveyStart s) := by
  unfold Machine.surveyStart
  split
  · split_ifs
    · exact refuse
    · exact refuse
    · exact done ((Traffic.refl s).circuitKeeps fun x => Traffic.startSurvey_config x _ _).resetFramer
  · exact refuse

theorem onSurvey {f : Fin 16 → State → State} (each : ∀ c, Traffic s (f c s)) :
    Answers n s (onSurvey n f s) := by
  unfold Machine.onSurvey
  split
  · exact refuse
  · split_ifs
    · exact done (each _)
    · exact refuse

theorem counterAction : Answers 20 s (counterAction s) := by
  unfold Machine.counterAction
  split
  · unfold releaseCounter
    split_ifs
    · exact done ((Traffic.refl s).modControl fun _ => rfl)
    · exact refuse
  · exact done ((Traffic.refl s).modControl fun _ => rfl)
  · unfold startCounter
    split
    · exact refuse
    · split_ifs
      · exact refuse
      · exact refuse
      · exact settled (u := s.modControl _ _) rfl (.refl _)
  · exact refuse

theorem outputSet : Answers 21 s (outputSet s) := by
  unfold Machine.outputSet
  split
  · split_ifs
    · exact done ((Traffic.refl s).modControl (Traffic.writeSelector_settings _ _))
    · exact refuse
  · exact refuse

theorem terminalSet : Answers 22 s (terminalSet s) := by
  unfold Machine.terminalSet
  split
  · next t cfg _ _ =>
    refine settled (u := Machine.setTerminal t cfg s) ?_ (.refl _)
    unfold Machine.setTerminal enablePort turnOff disablePort
    split
    · rfl
    · rfl
    · split
      · exact congrArg HostRegs.args (Traffic.outletOff (Traffic.loseSource (.refl s))).regs
      · rfl
  · exact refuse

theorem pageWrite : Answers 23 s (pageWrite s) := by
  unfold Machine.pageWrite
  split
  · exact refuse
  · split
    · exact refuse
    · split
      · exact refuse
      · split
        · exact refuse
        · exact settled (u := s.setPage _ _) rfl (.refl _)

theorem clockSet : Answers 24 s (clockSet s) := by
  unfold Machine.clockSet
  dsimp only
  split_ifs
  · exact answer rfl
  · exact refuse

theorem setBlockLimit : Answers 25 s (setBlockLimit s) := by
  unfold Machine.setBlockLimit
  dsimp only
  split_ifs
  · exact answer rfl
  · exact refuse

theorem trafficReset : Answers 26 s (trafficResetCommand s) := by
  obtain ⟨w, before, eq⟩ := (Traffic.refl s).trafficCleared
  refine settled (u := trafficCleared s) ?_ (.refl _)
  rw [eq]
  exact (congrArg HostRegs.args before.regs : w.regs.args = s.regs.args)

end Answers

/-- Each command answers, and with its own number. -/
theorem takeCommand_answers (s : State) {n : Word} (least : 1 ≤ n.toNat) (most : n.toNat ≤ 26) :
    Answers n.toNat s (takeCommand n s) := by
  unfold takeCommand
  interval_cases n.toNat
  · exact .storyFind
  · exact .storyKill
  · exact .storyHold
  · exact .storyRelease
  · exact .storyPriority
  · exact .storyAddOutlet
  · exact .storyDropOutlet
  · exact .retireCommand
  · exact .retireClosed
  · exact .nextChanged
  · exact .setNextNumber
  · exact .deskWrite
  · exact .deskRemove
  · exact .circuitSet
  · exact .circuitOpen
  · exact .circuitClose
  · exact .surveyStart
  · exact .onSurvey fun _ => (Traffic.refl s).finishSurvey
  · exact .onSurvey fun _ => (Traffic.refl s).cancelSurvey
  · exact .counterAction
  · exact .outputSet
  · exact .terminalSet
  · exact .pageWrite
  · exact .clockSet
  · exact .setBlockLimit
  · exact .trafficReset

/-- Settles O15: each command ends in one answer with its number; a refusal writes the answer alone. -/
theorem everyCommandIsAnsweredAndRefusalsChangeNothing :
    Obligations.EveryCommandIsAnsweredAndRefusalsChangeNothing := by
  intro s n least most
  have number : word n.toNat = n := by
    unfold word
    exact BitVec.ofNat_toNat _ n
  refine ⟨takeCommand n s, rfl, ?_⟩
  rcases takeCommand_answers s least most with ⟨code, bad, eq⟩ | ⟨u, words, eq, args⟩
  · rw [eq]
    refine ⟨number, rfl, .inr ⟨code, bad, rfl, ?_⟩⟩
    unfold State.refuse State.answer
    rw [number]
    rfl
  · rw [eq]
    exact ⟨number, args, .inl rfl⟩

/-- Settles O16: outside 1 to 26 no command's case of the number applies. -/
theorem unknownNumbersChangeNothing : Obligations.UnknownNumbersChangeNothing := by
  intro s n
  split
  · next known => exact congrArg Host.Outcome.next (if_pos known)
  · next unknown =>
    have refused : exec (.unknownCommand n) s = .next (unknownCommand n s) :=
      congrArg Host.Outcome.next (if_neg unknown)
    refine ⟨refused, ?_⟩
    rw [refused]
    refine congrArg Host.Outcome.next ?_
    show takeCommand n s = _
    unfold takeCommand
    split
    case h_27 => rfl
    all_goals exfalso; omega

/-! ## The rows of the split commands -/

theorem circuitSetAs_eq {n : Nat} (row : hiByte (s.arg 0) = n ∨ 2 < hiByte (s.arg 0)) :
    circuitSetAs n s = circuitSet s := if_pos row

theorem counterActionAs_eq {a : CounterAction} {n : Nat} (names : named actions n = some a)
    (row : loByte (s.arg 0) = n ∨ 7 < loByte (s.arg 0)) : counterActionAs a s = counterAction s := by
  unfold counterActionAs
  rcases row with here | beyond
  · rw [here, names]
    exact if_pos rfl
  · have no : named actions (loByte (s.arg 0)) = none :=
      List.getElem?_eq_none (by exact beyond)
    rw [no]

theorem terminalSetAs_of_invalid {a : TerminalCase}
    (row : 8 ≤ (s.arg 0).toNat ∨ portConfigOf s.regs.args = none) : terminalSetAs a s = terminalSet s := by
  unfold terminalSetAs
  rcases row with beyond | bad
  · have no : terminalOf (s.arg 0).toNat = none := dif_neg (Nat.not_lt.2 beyond)
    rw [no]
  · rw [bad]
    cases terminalOf (s.arg 0).toNat <;> rfl

theorem terminalOf_eq {n : Nat} {t : Fin 8} (h : n = t.val) : terminalOf n = some t := by
  subst h
  exact dif_pos t.isLt

theorem terminalSetAs_of_case {a : TerminalCase} {t : Fin 8} (names : (s.arg 0).toNat = t.val)
    (row : ∀ cfg, portConfigOf s.regs.args = some cfg → terminalCase (s.port t) cfg = a) :
    terminalSetAs a s = terminalSet s := by
  cases read : portConfigOf s.regs.args with
  | none => exact terminalSetAs_of_invalid (.inr read)
  | some cfg =>
    unfold terminalSetAs
    rw [terminalOf_eq names, read]
    exact if_pos (row cfg read)

theorem portConfigOf_enable {cfg : PortConfig} (read : portConfigOf s.regs.args = some cfg) :
    optionOf (s.arg 7).toNat = some cfg.enable := by
  unfold portConfigOf at read
  simp only [Option.bind_eq_bind, Option.bind_eq_some_iff] at read
  obtain ⟨_, _, _, _, _, _, enable, named, rest⟩ := read
  split at rest
  · obtain rfl := Option.some.inj rest
    exact named
  · cases rest

/-- Settles O17: each row's own meaning is its command's, and a split command's row gives it up only to
another row's case. -/
theorem commandRowsAreWritesOfTheirNumbers : Obligations.CommandRowsAreWritesOfTheirNumbers := by
  intro s written
  refine ⟨?commands, ?circuitSet, ?counterAction, ?noCase, fun t names => ⟨?enable, ?reconfigure, ?disable⟩⟩
  case commands =>
    simp only [List.forall_mem_cons]
    exact ⟨rfl, rfl, rfl, rfl, rfl, rfl, rfl, rfl, rfl, rfl, rfl, rfl, rfl, rfl, rfl, rfl, rfl, rfl, rfl, rfl,
      rfl, rfl, rfl, nofun⟩
  case circuitSet =>
    simp only [List.forall_mem_cons]
    refine ⟨fun row => ?_, fun row => ?_, fun row => ?_, nofun⟩ <;>
      exact congrArg Host.Outcome.next (circuitSetAs_eq row)
  case counterAction =>
    simp only [List.forall_mem_cons]
    refine ⟨fun row => ?_, fun row => ?_, fun row => ?_, fun row => ?_, fun row => ?_, fun row => ?_,
      fun row => ?_, fun row => ?_, nofun⟩ <;>
      exact congrArg Host.Outcome.next (counterActionAs_eq rfl row)
  case noCase =>
    intro row
    refine ⟨?_, ?_, ?_⟩ <;> exact congrArg Host.Outcome.next (terminalSetAs_of_invalid row)
  case enable =>
    intro on disabled
    refine congrArg Host.Outcome.next (terminalSetAs_of_case names fun cfg read => ?_)
    have enable := portConfigOf_enable read
    rw [on] at enable
    simp [terminalCase, ← Option.some.inj enable, disabled]
  case reconfigure =>
    intro on enabled
    refine congrArg Host.Outcome.next (terminalSetAs_of_case names fun cfg read => ?_)
    have enable := portConfigOf_enable read
    rw [on] at enable
    simp [terminalCase, ← Option.some.inj enable, enabled]
  case disable =>
    intro off
    refine congrArg Host.Outcome.next (terminalSetAs_of_case names fun cfg read => ?_)
    have enable := portConfigOf_enable read
    rw [off] at enable
    simp [terminalCase, ← Option.some.inj enable]

/-! ## Words of the window written -/

/-- Settles O18: the offset names the word, and those that act have rows of their own. -/
theorem registerWritesActByOffset : Obligations.RegisterWritesActByOffset := by
  intro s v
  refine ⟨fun k => ?args, rfl, rfl, rfl, rfl, fun n inside idle => ?idle, fun n outside => ?outside⟩
  case args => fin_cases k <;> rfl
  case idle =>
    have written : exec (.registerWrite n v) s = .next (writeWord n v s) := if_pos inside
    rw [written]
    unfold writeWord
    split
    case h_14 => rfl
    all_goals omega
  case outside => exact if_neg (Nat.not_lt.2 outside)

end Sys2Proof.Machine

/-! PROOF. The notices, the clock and the next story number as the host writes them (R77, R174 to R176). -/

namespace Sys2Proof.Machine

variable {s t u : State}

/-! ## Notices -/

theorem Flag.bit_lt (f : Flag) : f.bit < 11 := by cases f <;> decide

/-- Each bit of NOTICE is a flag's. -/
theorem Flag.of_bit {i : Nat} (h : i < 11) : ∃ f : Flag, f.bit = i := by
  interval_cases i
  · exact ⟨.storyOpened, rfl⟩
  · exact ⟨.storyClosed, rfl⟩
  · exact ⟨.storyRejected, rfl⟩
  · exact ⟨.destCut, rfl⟩
  · exact ⟨.circuitLost, rfl⟩
  · exact ⟨.circuitRestored, rfl⟩
  · exact ⟨.surveyDone, rfl⟩
  · exact ⟨.slip, rfl⟩
  · exact ⟨.deskRequest, rfl⟩
  · exact ⟨.terminalOverrun, rfl⟩
  · exact ⟨.tableFull, rfl⟩

theorem interruptLevel_high_iff (flags enables : BitVec 11) : interruptLevel flags enables = .high ↔
    ∃ f : Flag, flags.getLsbD f.bit = true ∧ enables.getLsbD f.bit = true := by
  unfold interruptLevel
  constructor
  · intro high
    split at high
    · cases high
    · next some =>
      by_contra none
      refine some (BitVec.eq_of_getLsbD_eq fun i hi => ?_)
      obtain ⟨f, rfl⟩ := Flag.of_bit hi
      rw [BitVec.getLsbD_and, BitVec.getLsbD_zero, Bool.eq_false_iff]
      intro both
      exact none ⟨f, by simpa using both⟩
  · rintro ⟨f, flag, enable⟩
    refine if_neg fun none => ?_
    have both : (flags &&& enables).getLsbD f.bit = true := by
      rw [BitVec.getLsbD_and, flag, enable]
      rfl
    rw [none] at both
    simp at both

theorem flagSet_writeNotice (s : State) (v : Word) (f : Flag) :
    (writeNotice v s).flagSet f = (s.flagSet f && !v.getLsbD f.bit) := by
  have small := f.bit_lt
  simp [writeNotice, State.flagSet, Notices.withFlags, small]

/-- Settles O19: the flags written are masked, the enables replaced, and both writes recompute the output. -/
theorem noticeWritesMoveFlagsEnablesAndInterrupt : Obligations.NoticeWritesMoveFlagsEnablesAndInterrupt := by
  intro s v
  refine ⟨⟨writeNotice v s, rfl, rfl, rfl, flagSet_writeNotice s v, ?_⟩,
    ⟨writeNoticeEnable v s, rfl, rfl, rfl, fun f => ?_, ?_⟩⟩
  · exact interruptLevel_high_iff _ _
  · have small := f.bit_lt
    simp [writeNoticeEnable, Notices.withEnables, small]
  · refine (interruptLevel_high_iff _ _).trans (exists_congr fun f => and_congr_right fun _ => ?_)
    have small := f.bit_lt
    simp [small]

/-! ## The clock and the next number -/

/-- Settles O21. -/
theorem clockIsSetAndCapturedWhole : Obligations.ClockIsSetAndCapturedWhole := by
  intro s n
  refine ⟨fun late => ?_, fun inDay => ?_, rfl⟩
  · exact congrArg Host.Outcome.next (if_neg (Nat.not_le.2 late))
  · exact congrArg Host.Outcome.next (if_pos inDay)

theorem findNumber_isSome_iff (s : State) (n : Nat) : (s.findNumber n).isSome = true ↔
    ∃ k, (s.story k).state ≠ .free ∧ (s.story k).number = n := by
  constructor
  · intro found
    obtain ⟨k, hk⟩ := Option.isSome_iff_exists.1 found
    exact ⟨k, findNumber_some hk⟩
  · rintro ⟨k, stands, number⟩
    rw [Option.isSome_iff_ne_none]
    intro none
    exact findNumber_none none k stands number

/-- Settles O24: the checks of SET_NEXT_NUMBER, in their order. -/
theorem nextNumberIsSetUnlessInUse : Obligations.NextNumberIsSetUnlessInUse := by
  intro s n used
  have row : exec .setNextNumber s = .next (setNextNumber s) := rfl
  refine ⟨fun outside => ?_, fun least most inUse => ?_, fun least most free => ?_⟩
  all_goals rw [row]; unfold setNextNumber; dsimp only
  · rw [if_pos outside]
  · rw [if_neg (by omega), if_pos ((findNumber_isSome_iff s n).2 inUse)]
  · rw [if_neg (by omega), if_neg (fun found => free ((findNumber_isSome_iff s n).1 found))]

end Sys2Proof.Machine

/-! PROOF. The selection and the views of the window (R164, R166, R171 to R173). -/

namespace Sys2Proof.Machine

variable {s t u : State}

/-! ## The words' forms -/

theorem optWord_eq (n : Option Nat) : optWord n = (n.map word).getD 0xFFFF#16 := by cases n <;> rfl

theorem markWord_eq (b : Bool) : markWord b = if b then 1#16 else 0#16 := rfl

theorem optDeskWord_eq (d : Option DeskCode) : optDeskWord d =
    (d.map (fun x => word (256 * x.first.toNat + x.second.toNat))).getD 0#16 := by cases d <;> rfl

theorem optTimeWords_eq (n : Option Nat) : optTimeWords n =
    (n.map (fun m => [word (m / 65536), word (m % 65536)])).getD [0xFFFF#16, 0xFFFF#16] := by
  cases n <;> rfl

theorem slugSymbol_eq (x : Office) : slugSymbol x =
    if isCapital x then x.toNat - 64 else if isDigit x then x.toNat - 21 else 37 := by
  unfold slugSymbol
  split_ifs with capital digit
  · rfl
  · simp only [isDigit, decide_eq_true_eq] at digit
    omega
  · rfl

theorem causeNumber_eq (x : EntryState) : x.causeNumber = (match x with
    | .suspended .preempted => 1
    | .suspended .held => 2
    | .waiting | .carrying | .done | .cut _ => 0) := by
  cases x with
  | suspended c => cases c <;> rfl
  | waiting | carrying | done | cut r => rfl

/-! ## Selections -/

theorem selected_iff (v : BitVec 15) (r : Selected) : selected v = some r ↔
    recordOf (selKind v) (selIndex v) = some r ∧ selSection v < sectionsOf r := by
  unfold selected
  split
  · next x found =>
    rw [found, Option.some_inj]
    constructor
    · intro taken
      split at taken
      · next inside =>
        obtain rfl := Option.some.inj taken
        exact ⟨rfl, inside⟩
      · cases taken
    · rintro ⟨rfl, inside⟩
      exact if_pos inside
  · next none =>
    simp [none]

theorem dite_eq_some_iff {m n : Nat} (k : Fin m) :
    (if h : n < m then some (⟨n, h⟩ : Fin m) else none) = some k ↔ n = k.val := by
  constructor
  · intro found
    split at found
    · exact congrArg Fin.val (Option.some.inj found)
    · cases found
  · rintro rfl
    exact dif_pos k.isLt

theorem slotOf_eq_some {n : Nat} {k : Fin 48} : slotOf n = some k ↔ n = k.val := dite_eq_some_iff k

theorem positionOf_eq_some {n : Nat} {i : Fin 32} : positionOf n = some i ↔ n = i.val :=
  dite_eq_some_iff i

theorem circuitOf_eq_some {n : Nat} {c : Fin 16} : circuitOf n = some c ↔ n = c.val :=
  dite_eq_some_iff c

theorem terminalOf_eq_some {n : Nat} {t : Fin 8} : terminalOf n = some t ↔ n = t.val :=
  dite_eq_some_iff t

theorem outletOf_eq_some {n : Nat} {o : Fin 24} : outletOf n = some o ↔ n = o.val :=
  dite_eq_some_iff o

theorem pageOf_eq_some {n : Nat} {p : Fin 4} : pageOf n = some p ↔ n = p.val := dite_eq_some_iff p

/-- The kind and the index that name a record (R171). -/
def Selected.Named (kind index : Nat) : Selected → Prop
  | .story k => kind = 0 ∧ index = k.val
  | .desk i => kind = 1 ∧ index = i.val
  | .circuit c => kind = 2 ∧ index = c.val
  | .terminal t => kind = 3 ∧ index = t.val
  | .outlet o => kind = 4 ∧ index = o.val
  | .page p => kind = 5 ∧ index = p.val
  | .table => kind = 6 ∧ index = 0

theorem recordOf_iff (kind index : Nat) (r : Selected) :
    recordOf kind index = some r ↔ r.Named kind index := by
  unfold recordOf Selected.Named
  split
  case h_8 =>
    cases r <;> simp_all
  all_goals
    cases r <;> simp [slotOf_eq_some, positionOf_eq_some, circuitOf_eq_some, terminalOf_eq_some,
      outletOf_eq_some, pageOf_eq_some]

/-! ## Views -/

theorem statusWord_eq (e : Entry) : e.words = [word (2048 * e.outlet.val
      + 256 * (match e.state with
        | .waiting => 0
        | .carrying => 1
        | .suspended _ => 2
        | .done => 3
        | .cut _ => 4)
      + 64 * (match e.state with
        | .suspended .preempted => 1
        | .suspended .held => 2
        | .waiting | .carrying | .done | .cut _ => 0)
      + (if e.holdMark then 32 else 0) + 8 * List.idxOf e.owed [.none, .header, .resume, .joined]
      + (match e.state with
        | .cut r => List.idxOf r [.lapped, .blockLimit, .stall, .removed, .killed, .outletLost] + 1
        | .waiting | .carrying | .suspended _ | .done => 0)),
    word e.start, word e.read, word e.lost] := by
  unfold Entry.words Entry.statusWord
  rw [causeNumber_eq]
  rfl

theorem pageInUse_eq (s : State) (p : Fin 4) :
    s.pageInUse p = decide (∃ c, (s.circuit c).config.page = p ∧ ¬s.AtQuietPoint c) := by
  rw [Bool.eq_iff_iff, decide_eq_true_iff]
  simp [State.pageInUse, allCircuits, ← quiet_iff]

theorem sameRecord_iff (x : BitVec 15) (v : Word) : sameRecord x (v.setWidth 15) = true ↔
    x.toNat / 4096 = v.toNat % 32768 / 4096 ∧ x.toNat % 256 = v.toNat % 256 := by
  simp only [sameRecord, selKind, selIndex, BitVec.toNat_setWidth, Bool.and_eq_true, decide_eq_true_eq]
  omega

theorem readWord_window {n j : Nat} (inside : j < 64) (h : n = 0x16 + j) :
    s.readWord n = s.windowWord j := by
  unfold State.readWord
  split
  case h_22 =>
    refine (if_pos ?_).trans ?_
    · omega
    · rw [h, Nat.add_sub_cancel_left]
  all_goals omega

theorem readWord_unused {n : Nat} (h : n = 0x14 ∨ 0x56 ≤ n) : s.readWord n = 0#16 := by
  unfold State.readWord
  split
  case h_22 =>
    refine if_neg fun ⟨least, most⟩ => ?_
    rcases h with control | beyond
    · exact absurd (control ▸ least) (by decide)
    · exact absurd (beyond.trans most) (by decide)
  all_goals omega

/-! ## The selection register and WINDOW0 -/

theorem exec_window0Read : exec .window0Read s = .next (readWindow0 s) := rfl

theorem readWindow0_of_none (none : selected s.regs.select = none) :
    readWindow0 s = s.modRegs fun r => { r with readData := 0#16 } := by
  unfold readWindow0
  rw [none]

theorem readWindow0_held {x : Selected} (names : selected s.regs.select = some x)
    (other : selSection s.regs.select ≠ 0) :
    readWindow0 s = s.modRegs fun r => { r with
      readData := (s.regs.snapshot[selSection s.regs.select * 64]?).getD 0#16 } := by
  unfold readWindow0 State.windowWord
  simp only [names]
  exact if_neg other

theorem readWindow0_taken {x : Selected} (names : selected s.regs.select = some x)
    (first : selSection s.regs.select = 0) : readWindow0 s = takeSnapshot x s := by
  unfold readWindow0
  simp only [names]
  exact if_pos first

theorem takeSnapshot_regs (x : Selected) : (takeSnapshot x s).regs =
    { s.regs with snapshot := s.viewOf x, readData := (s.viewOf x).headD 0#16 } := by
  cases x <;> rfl

theorem takeSnapshot_rest (x : Selected) : takeSnapshot x s = { s with
    regs := (takeSnapshot x s).regs
    stories := (takeSnapshot x s).stories
    circuits := (takeSnapshot x s).circuits } := by
  cases x <;> rfl

theorem takeSnapshot_story (x : Selected) (k : Fin 48) : (takeSnapshot x s).story k =
    if x = .story k then { s.story k with changed := false } else s.story k := by
  cases x with
  | story j =>
    have set : (takeSnapshot (.story j) s).story k =
        if k = j then { s.story j with changed := false } else s.story k := State.story_setStory s j _ k
    rw [set]
    by_cases here : k = j
    · subst here
      rw [if_pos rfl, if_pos rfl]
    · rw [if_neg here, if_neg fun e => here (Selected.story.inj e).symm]
  | circuit c | desk i | terminal t | outlet o | page p | table => exact (if_neg nofun).symm

theorem takeSnapshot_circuit (x : Selected) (c : Fin 16) : (takeSnapshot x s).circuit c =
    if x = .circuit c then { s.circuit c with slipFlag := false } else s.circuit c := by
  cases x with
  | circuit d =>
    have set : (takeSnapshot (.circuit d) s).circuit c =
        if c = d then { s.circuit d with slipFlag := false } else s.circuit c :=
      State.circuit_modCircuit s d (fun x => { x with slipFlag := false }) c
    rw [set]
    by_cases here : c = d
    · subst here
      rw [if_pos rfl, if_pos rfl]
    · rw [if_neg here, if_neg fun e => here (Selected.circuit.inj e).symm]
  | story k | desk i | terminal t | outlet o | page p | table => exact (if_neg nofun).symm

theorem writeSelect_eq (v : Word) : writeSelect v s = { s with regs := { s.regs with
    select := v.setWidth 15
    snapshot := if s.regs.select.toNat / 4096 = v.toNat % 32768 / 4096
      ∧ s.regs.select.toNat % 256 = v.toNat % 256 then s.regs.snapshot else [] } } := by
  unfold writeSelect State.modRegs
  simp only [sameRecord_iff]

/-! ## The obligation -/

theorem slugWords_eq (cs : List Office) : slugWords cs = (List.range 7).map (fun i =>
    word (1444 * ((cs[3 * i]?.map (fun x =>
        if isCapital x then x.toNat - 64 else if isDigit x then x.toNat - 21 else 37)).getD 0)
      + 38 * ((cs[3 * i + 1]?.map (fun x =>
        if isCapital x then x.toNat - 64 else if isDigit x then x.toNat - 21 else 37)).getD 0)
      + ((cs[3 * i + 2]?.map (fun x =>
        if isCapital x then x.toNat - 64 else if isDigit x then x.toNat - 21 else 37)).getD 0))) := by
  unfold slugWords
  rw [funext slugSymbol_eq]

theorem unitWord_eq (v : Option OutUnit) : unitWord v = (match v.map (·.kind) with
    | none => 0#16
    | some .text => 1#16
    | some (.notice _) => 2#16
    | some .reply => 3#16
    | some .answerback => 4#16) := by
  cases v with
  | none => rfl
  | some x =>
    obtain ⟨kind, _, _⟩ := x
    cases kind <;> rfl

theorem sourceWord_eq (src : Source) : sourceWord src = word (match src with
    | .circuit c => c.val
    | .terminal t => 16 + t.val) := by
  cases src <;> rfl

theorem holderWord_eq (x : Option Holder) : holderWord x = (match x with
    | none => 0xFFFF#16
    | some .host => 24#16
    | some (.terminal t) => word (16 + t.val)) := by
  cases x with
  | none => rfl
  | some y => cases y <;> rfl

theorem rxEntryWord_eq (e : RxEntry) : e.asWord = (match e with
    | .char o => word o.toNat
    | .planeLetters => 128#16
    | .planeFigures => 129#16
    | .drop => 130#16
    | .bell => 131#16
    | .answerback => 132#16
    | .subst => 133#16) := by
  cases e <;> rfl

theorem sendEntryWord_eq (e : SendEntry) : e.asWord = (match e with
    | .code c .letters => word (c.toNat + 32)
    | .code c .figures => word (c.toNat + 64)
    | .code c .both => word (c.toNat + 96)
    | .subst => 128#16
    | .drop => 129#16) := by
  cases e with
  | code c p => cases p <;> rfl
  | subst | drop => rfl

theorem isSome_outletCircuit (o : Fin 24) : (outletCircuit o).isSome = decide (o.val < 16) := by
  revert o
  decide

/-- Settles O20: a write to SELECT empties the snapshot of another record; WINDOW0 takes one; each view is
its words in their forms. -/
theorem selectAndWindow0TakeSnapshots : Obligations.SelectAndWindow0TakeSnapshots := by
  unfold Obligations.SelectAndWindow0TakeSnapshots
  refine ⟨?select, ?window0, ?selected, ?read, ?views⟩
  case select =>
    intro s v kept
    have row : exec (.selectWrite v) s = .next (writeSelect v s) := rfl
    rw [row, writeSelect_eq]
  case window0 =>
    intro s
    refine ⟨fun none => ?_, fun x names => ⟨fun other => ?_, fun first => ?_⟩⟩
    · rw [exec_window0Read, readWindow0_of_none none]
      rfl
    · rw [exec_window0Read, readWindow0_held names other]
      rfl
    · rw [exec_window0Read, readWindow0_taken names first]
      exact ⟨_, rfl, takeSnapshot_regs x, takeSnapshot_rest x, takeSnapshot_story x, takeSnapshot_circuit x⟩
  case selected =>
    intro v kind section_ index
    refine ⟨fun k => ?_, fun i => ?_, fun c => ?_, fun t => ?_, fun o => ?_, fun p => ?_, ?_⟩ <;>
      simp only [selected_iff, recordOf_iff, Selected.Named, sectionsOf, selKind, selIndex, selSection,
        kind, section_, index] <;> omega
  case read =>
    intro s n w
    refine ⟨?_, ?_, ?_, fun k => ?_, ?_, ?_, ?_, ?_, ?_, ?_, ?_, ?_, ?_, ?_, fun j inside => ?_, readWord_unused⟩
    case refine_4 =>
      rintro rfl
      fin_cases k <;> rfl
    case refine_9 | refine_10 | refine_11 =>
      rintro rfl
      exact BitVec.ofNat_toNat _ _
    case refine_14 =>
      rintro rfl
      show (if s.regs.resetCause = .traffic then 1#16 else 0#16) = _
      cases s.regs.resetCause <;> rfl
    case refine_15 =>
      intro h
      simp only [w, readWord_window inside h, State.windowWord]
      refine ⟨fun none => by rw [none], fun some => ?_⟩
      split
      · contradiction
      · rfl
    all_goals
      rintro rfl
      rfl
  case views =>
    intro s num mark code time padded priorities_ symbol slug states_ entry
    have num_eq : num = optWord := funext fun n => (optWord_eq n).symm
    have mark_eq : mark = markWord := rfl
    have code_eq : code = optDeskWord := funext fun d => (optDeskWord_eq d).symm
    have time_eq : time = optTimeWords := funext fun n => (optTimeWords_eq n).symm
    have padded_eq : padded = padTo 64 := rfl
    have slug_eq : slug = slugWords := funext fun cs => (slugWords_eq cs).symm
    have entry_eq : entry = Entry.words := funext fun e => (statusWord_eq e).symm
    simp only [num_eq, mark_eq, code_eq, time_eq, padded_eq, slug_eq, entry_eq]
    refine ⟨fun k => ⟨fun free => if_pos free, fun stands => ?_⟩, fun i => ⟨fun none => ?_, fun d held => ?_⟩,
      fun c => ?_, fun t => rfl, fun o => ⟨fun line => ?_, fun terminal => ?_⟩, fun p => ?_, ?_⟩
    · refine (if_neg stands).trans ?_
      unfold Story.headWords entryWords
      simp only [List.append_assoc, sourceWord_eq, holderWord_eq]
      rfl
    · show deskView (s.desk i) = _
      rw [none]
      rfl
    · show deskView (s.desk i) = _
      rw [held]
      rfl
    · rfl
    · refine ⟨Config.absentOutletField o.val 9, Config.absentOutletField o.val 12, ?_⟩
      show outletView o (s.outlet o) = _
      unfold outletView outletWords
      rw [isSome_outletCircuit, decide_eq_true line, unitWord_eq]
      rfl
    · refine ⟨Config.absentOutletField o.val 3, Config.absentOutletField o.val 4,
        Config.absentOutletField o.val 5, Config.absentOutletField o.val 6, Config.absentOutletField o.val 7, ?_⟩
      show outletView o (s.outlet o) = _
      unfold outletView outletWords
      rw [isSome_outletCircuit, decide_eq_false (Nat.not_lt.2 terminal), unitWord_eq]
      rfl
    · show pageView _ _ = _
      rw [pageInUse_eq]
      unfold pageView
      rw [funext rxEntryWord_eq, funext sendEntryWord_eq] <;> rfl
    · rfl

end Sys2Proof.Machine

/-! PROOF. Finding and retiring stories, and the desk directory (R96, R98, R102 to R104, R167). -/

namespace Sys2Proof.Machine

variable {s t u : State}

/-! ## Numbers the arguments name -/

theorem slotOf_eq_none {n : Nat} (h : 47 < n) : slotOf n = none := dif_neg (by omega)

theorem pageOf_eq_none {n : Nat} (h : 3 < n) : pageOf n = none := dif_neg (by omega)

theorem circuitOf_eq_none {n : Nat} (h : 16 ≤ n) : circuitOf n = none := dif_neg (by omega)

/-! ## STORY_FIND -/

theorem exec_storyFind : exec .storyFind s = .next (storyFind s) := rfl

theorem storyFind_slot (h : (s.arg 0).toNat = 0) : storyFind s = findBySlot s := by
  unfold storyFind
  simp only [h]

theorem storyFind_number (h : (s.arg 0).toNat = 1) : storyFind s = findByNumber s := by
  unfold storyFind
  simp only [h]

theorem storyFind_slug (h : (s.arg 0).toNat = 2) : storyFind s = findBySlug s := by
  unfold storyFind
  simp only [h]

theorem storyFind_other (h : 2 < (s.arg 0).toNat) : storyFind s = s.refuse 1 .badArgument := by
  unfold storyFind
  split
  · omega
  · omega
  · omega
  · rfl

/-- The latest record of the open-order list with a slug is the one with no other after it. -/
theorem findSlug_latest {cs : List Office} {l r : List (Fin 48)} {k : Fin 48}
    (order : s.openOrder = l ++ k :: r) (here : (s.story k).slug = some cs)
    (after : ∀ j ∈ r, (s.story j).slug ≠ some cs) : s.findSlug cs = some k := by
  unfold State.findSlug
  have none : r.reverse.find? (fun k => (s.story k).slug = some cs) = none :=
    List.find?_eq_none.2 fun j hj => by simpa using after j (List.mem_reverse.1 hj)
  simp [order, none, here]

/-- Settles O25: each lookup answers the record its search finds. -/
theorem storyFindAnswersTheRecord : Obligations.StoryFindAnswersTheRecord := by
  intro s found n
  refine ⟨fun kind => ⟨fun beyond => ?_, fun k names => ?_⟩,
    fun kind => ⟨fun outside => ?_, fun least most => ⟨fun none => ?_, fun ⟨k, stands, number⟩ => ?_⟩⟩,
    fun kind => ⟨fun bad => ?_, fun cs read => ⟨fun none => ?_, fun l k r order here after => ?_⟩⟩,
    fun kind => ?_⟩
  all_goals rw [exec_storyFind]
  · rw [storyFind_slot kind, findBySlot, slotOf_eq_none beyond]
  · rw [storyFind_slot kind, findBySlot, slotOf_eq_some.2 names]
    rfl
  · rw [storyFind_number kind, findByNumber]
    exact congrArg Host.Outcome.next (if_neg (by omega))
  · rw [storyFind_number kind, findByNumber]
    refine congrArg Host.Outcome.next ((if_pos ⟨least, most⟩).trans ?_)
    cases search : s.findNumber (s.arg 1).toNat with
    | none => rfl
    | some k => exact absurd (findNumber_some search).2 (none k (findNumber_some search).1)
  · cases search : s.findNumber (s.arg 1).toNat with
    | none => exact absurd number (findNumber_none search k stands)
    | some j =>
      refine ⟨j, (findNumber_some search).1, (findNumber_some search).2, ?_⟩
      rw [storyFind_number kind, findByNumber]
      refine congrArg Host.Outcome.next ((if_pos ⟨least, most⟩).trans ?_)
      rw [search]
      rfl
  · rw [storyFind_slug kind, findBySlug, bad]
  · rw [storyFind_slug kind, findBySlug, read]
    have search : s.findSlug cs = Option.none :=
      List.find?_eq_none.2 fun j hj => by simpa using none j (List.mem_reverse.1 hj)
    simp only [search]
    rfl
  · rw [storyFind_slug kind, findBySlug, read]
    simp only [findSlug_latest order here after]
    rfl
  · rw [storyFind_other kind]

/-! ## Retiring -/

theorem owedAnywhere_iff (s : State) (k : Fin 48) :
    s.owedAnywhere k = true ↔ ∃ o, ∃ i ∈ (s.outlet o).owed, i.slot = k := by
  simp [State.owedAnywhere, allOutlets]

theorem retirable_iff_unowed (s : State) (k : Fin 48) : s.retirable k = true ↔
    (s.story k).state = .closed ∧ ¬∃ o, ∃ i ∈ (s.outlet o).owed, i.slot = k := by
  rw [← owedAnywhere_iff]
  simp [State.retirable]

theorem freeRecords_order (l : List (Fin 48)) (s : State) :
    (forEach l freeRecord s).openOrder = s.openOrder.filter fun j => decide (j ∉ l) := by
  induction l generalizing s with
  | nil => simp [forEach]
  | cons k l ih =>
    rw [forEach_cons, ih]
    show (s.openOrder.filter fun j => decide (j ≠ k)).filter _ = _
    rw [List.filter_filter]
    congr 1
    funext j
    simp [Bool.and_comm]

theorem freeRecords_rest (l : List (Fin 48)) (s : State) : forEach l freeRecord s =
    { s with stories := (forEach l freeRecord s).stories, openOrder := (forEach l freeRecord s).openOrder } :=
  forEach_keeps (f := freeRecord)
    (P := fun t => t = { s with stories := t.stories, openOrder := t.openOrder })
    (fun k t h => by rw [h]; rfl) rfl

/-- Settles O26: a record is made FREE where it is CLOSED and unowed, one by one or all that are. -/
theorem retiringFreesClosedRecords : Obligations.RetiringFreesClosedRecords := by
  intro s owed
  have row : exec .retire s = .next (retireCommand s) := rfl
  refine ⟨fun beyond => ?_, fun k names => ⟨fun stands => ?_, fun closed isOwed => ?_,
    fun closed free => ?_⟩, ?_⟩
  · rw [row, retireCommand, slotOf_eq_none beyond]
  · rw [row, retireCommand, slotOf_eq_some.2 names]
    exact congrArg Host.Outcome.next (if_pos stands)
  · rw [row, retireCommand, slotOf_eq_some.2 names]
    exact congrArg Host.Outcome.next ((if_neg (not_not.2 closed)).trans
      (if_pos ((owedAnywhere_iff s k).2 isOwed)))
  · rw [row, retireCommand, slotOf_eq_some.2 names]
    exact congrArg Host.Outcome.next ((if_neg (not_not.2 closed)).trans
      (if_neg fun isOwed => free ((owedAnywhere_iff s k).1 isOwed)))
  · let ks := allSlots.filter s.retirable
    have mem (k : Fin 48) : k ∈ ks ↔ (s.story k).state = .closed ∧ ¬owed k := by
      rw [List.mem_filter, retirable_iff_unowed]
      exact and_iff_right (List.mem_finRange k)
    refine ⟨forEach ks freeRecord s, ks.length, rfl, freeRecords_rest ks s, fun k closed free => ?_,
      fun k stays => ?_, ?_, ks, (List.nodup_finRange 48).filter _, rfl, mem⟩
    · have inside := (mem k).2 ⟨closed, free⟩
      rw [story_freeRecords, if_pos inside, freeRecords_order]
      exact ⟨rfl, fun h => by simp [inside] at h⟩
    · have outside : k ∉ ks := fun h => stays.elim (· ((mem k).1 h).1) ((mem k).1 h).2
      rw [story_freeRecords, if_neg outside, freeRecords_order]
      exact ⟨rfl, by simp [outside]⟩
    · rw [freeRecords_order]
      exact List.filter_sublist

/-! ## The directory -/

theorem exec_deskRemove : exec .deskRemove s = .next (deskRemove s) := rfl

/-- A code's position is the lowest one whose entry carries it. -/
theorem findDesk_lowest {code : DeskCode} {i : Fin 32} {e : Desk} (held : s.desk i = some e)
    (carries : e.code = code) (below : ∀ j, j < i → ∀ d, s.desk j = some d → d.code ≠ code) :
    s.findDesk code = some i := by
  unfold State.findDesk
  rw [show allPositions = List.finRange 32 from rfl, ← Fin.find?_eq_find?_finRange]
  refine Fin.find?_eq_some_iff.2 ⟨by simp [held, carries], fun j before => ?_⟩
  cases other : s.desk j with
  | none => rfl
  | some d => simpa using below j before d other

theorem findDesk_absent {code : DeskCode} (absent : ∀ i e, s.desk i = some e → e.code ≠ code) :
    s.findDesk code = none := by
  refine List.find?_eq_none.2 fun i _ => ?_
  cases held : s.desk i with
  | none => simp
  | some e => simpa using absent i e held

/-- Settles O28. -/
theorem deskRemoveEmptiesThePosition : Obligations.DeskRemoveEmptiesThePosition := by
  intro s
  refine ⟨fun bad => ?_, fun code read => ⟨fun absent => ?_, fun i e held carries below => ?_⟩⟩
  · rw [exec_deskRemove, deskRemove, bad]
  · rw [exec_deskRemove, deskRemove, read]
    simp only
    rw [findDesk_absent absent]
  · rw [exec_deskRemove, deskRemove, read]
    simp only [findDesk_lowest held carries below]
    rfl

theorem named_priorities {n : Nat} {p : Priority} (h : named priorities n = some p) : p.rank = n := by
  have small : n < 5 := (List.getElem?_eq_some_iff.1 h).1
  interval_cases n <;> cases h <;> rfl

theorem named_priorities_none {n : Nat} : named priorities n = none ↔ 4 < n := by
  unfold named
  rw [List.getElem?_eq_none_iff]
  rfl

theorem fallbackOf_none {w : Word} {own : DeskCode} : fallbackOf w own = none ↔
    w ≠ 0#16 ∧ (deskCodeOf w = none ∨ deskCodeOf w = some own) := by
  unfold fallbackOf
  split_ifs with absent
  · simp [absent]
  · cases read : deskCodeOf w with
    | none => simp [absent]
    | some d =>
      by_cases same : d = own <;> simp [absent, same]

theorem fallbackOf_some {w : Word} {own : DeskCode} {f : Option DeskCode}
    (h : fallbackOf w own = some f) : f = if w = 0#16 then none else deskCodeOf w := by
  unfold fallbackOf at h
  split_ifs at h ⊢
  · exact (Option.some.inj h).symm
  · split at h
    · next d read =>
      split_ifs at h
      rw [read]
      exact (Option.some.inj h).symm
    · cases h

/-- What makes DESK_WRITE's arguments bad (R102). -/
def State.deskBad (s : State) : Prop :=
  deskCodeOf (s.arg 0) = none ∨ 4 < (s.arg 3).toNat
    ∨ (s.arg 4 ≠ 0#16 ∧ (deskCodeOf (s.arg 4) = none ∨ deskCodeOf (s.arg 4) = deskCodeOf (s.arg 0)))

theorem deskOfArgs_bad (bad : s.deskBad) : deskOfArgs s.regs.args = none := by
  show (deskCodeOf (s.arg 0)).bind _ = none
  cases read : deskCodeOf (s.arg 0) with
  | none => rfl
  | some code =>
    show (named priorities (s.arg 3).toNat).bind _ = none
    cases floor : named priorities (s.arg 3).toNat with
    | none => rfl
    | some p =>
      show (fallbackOf (s.arg 4) code).bind _ = none
      rcases bad with none | high | fallback
      · rw [read] at none
        cases none
      · rw [named_priorities_none.2 high] at floor
        cases floor
      · rw [read] at fallback
        rw [fallbackOf_none.2 fallback]
        rfl

/-- The entry of good arguments (R102). -/
theorem deskOfArgs_good {code : DeskCode} (read : deskCodeOf (s.arg 0) = some code) (good : ¬s.deskBad) :
    ∃ d, deskOfArgs s.regs.args = some d ∧ d.code = code ∧ d.outlets = outletSetOf (s.arg 1) (s.arg 2)
      ∧ d.floor.rank = (s.arg 3).toNat
      ∧ d.fallback = (if s.arg 4 = 0#16 then none else deskCodeOf (s.arg 4))
      ∧ d.isDefault = markOf (hiByte (s.arg 5)) ∧ d.echo = markOf (loByte (s.arg 5)) ∧ d.routed = 0 := by
  unfold State.deskBad at good
  rw [read] at good
  cases floor : named priorities (s.arg 3).toNat with
  | none => exact absurd (.inr (.inl (named_priorities_none.1 floor))) good
  | some p =>
    cases fallback : fallbackOf (s.arg 4) code with
    | none => exact absurd (.inr (.inr (fallbackOf_none.1 fallback))) good
    | some f =>
      refine ⟨{ code := code, outlets := outletSetOf (s.arg 1) (s.arg 2), floor := p, fallback := f
                isDefault := markOf (hiByte (s.arg 5)), echo := markOf (loByte (s.arg 5)) },
        ?_, rfl, rfl, named_priorities floor, fallbackOf_some fallback, rfl, rfl, rfl⟩
      show (deskCodeOf (s.arg 0)).bind _ = _
      rw [read]
      show (named priorities (s.arg 3).toNat).bind _ = _
      rw [floor]
      show (fallbackOf (s.arg 4) code).bind _ = _
      rw [fallback]
      rfl

theorem markOf_iff {n : Nat} (range : n ≤ 1) : markOf n = true ↔ n = 1 := by
  interval_cases n <;> simp [markOf]

theorem emptyPosition_lowest {i : Fin 32} (empty : s.desk i = none) (below : ∀ j, j < i → s.desk j ≠ none) :
    s.emptyPosition = some i := by
  unfold State.emptyPosition
  rw [show allPositions = List.finRange 32 from rfl, ← Fin.find?_eq_find?_finRange]
  refine Fin.find?_eq_some_iff.2 ⟨by simp [empty], fun j before => ?_⟩
  simpa [Option.isSome_iff_ne_none] using below j before

theorem emptyPosition_none (full : ∀ i, s.desk i ≠ none) : s.emptyPosition = none :=
  List.find?_eq_none.2 fun i _ => by simpa using full i

theorem putDesk_rest (i : Fin 32) (d : Desk) (s : State) :
    putDesk i d s = { s with desks := (putDesk i d s).desks } :=
  putDesk_keeps (P := fun t => t = { s with desks := t.desks }) (fun t j e h => by rw [h]; rfl) rfl

/-- Settles O27: the position is the code's, or the lowest empty one; the entry is the arguments', with the
routed count it had. -/
theorem deskWritePlacesTheEntry : Obligations.DeskWritePlacesTheEntry := by
  intro s bad
  have row : exec .deskWrite s = .next (deskWrite s) := rfl
  refine ⟨fun isBad => ?_, fun code read good => ?_⟩
  · rw [row, deskWrite, deskOfArgs_bad isBad]
  obtain ⟨d, args, isCode, outlets, floor, fallback, isDefault, echo, routed⟩ := deskOfArgs_good read good
  refine ⟨fun full => ?_, fun i place => ?_⟩
  · have absent : s.findDesk code = none := findDesk_absent fun i e held => by
      obtain ⟨x, holds, other⟩ := full i
      rw [holds] at held
      exact Option.some.inj held ▸ other
    have noRoom : s.emptyPosition = none := emptyPosition_none fun i => by
      obtain ⟨x, holds, _⟩ := full i
      simp [holds]
    rw [row, deskWrite, args]
    simp only [isCode, absent, noRoom]
  have written : deskWrite s = (putDesk i { d with routed := s.routedAt i } s).answer 12 .ok := by
    unfold deskWrite
    rw [args]
    simp only [isCode]
    rcases place with ⟨⟨e, held, carries⟩, below⟩ | ⟨absent, empty, below⟩
    · rw [findDesk_lowest held carries below]
    · rw [findDesk_absent absent, emptyPosition_lowest empty below]
      have none : s.routedAt i = 0 := by
        unfold State.routedAt
        rw [empty]
        rfl
      have same : { d with routed := s.routedAt i } = d := by rw [none, ← routed]
      rw [isCode] at same
      rw [same]
  have desk (j : Fin 32) := putDesk_desk i { d with routed := s.routedAt i } s j
  refine ⟨_, _, by rw [row, written], putDesk_rest _ _ _, (desk i).trans (if_pos rfl), isCode, outlets, floor,
    fallback, fun range => ?_, fun range => ?_, rfl, fun j other => (desk j).trans (if_neg other)⟩
  · show d.isDefault = true ↔ _
    rw [isDefault, markOf_iff range]
  · show d.echo = true ↔ _
    rw [echo, markOf_iff range]

end Sys2Proof.Machine

/-! PROOF. PAGE_WRITE (R27, R40, R41). -/

namespace Sys2Proof.Machine

variable {s t u : State}

/-! ## Values read and written -/

theorem readAll_some_iff {α : Type} {f : Nat → Option α} {l : List Nat} {r : List α} :
    readAll f l = some r ↔ l.map f = r.map some := by
  induction l generalizing r with
  | nil => cases r <;> simp [readAll]
  | cons n l ih =>
    unfold readAll
    cases head : f n with
    | none => cases r <;> simp [head]
    | some a =>
      cases tail : readAll f l with
      | none =>
        cases r with
        | nil => simp
        | cons b r => simpa [head] using fun _ same => by simp [ih.2 same] at tail
      | some x =>
        cases r with
        | nil => simp
        | cons b r =>
          have same := ih.1 tail
          simp only [List.map_cons, head, same, Option.some.injEq, List.cons.injEq]
          exact and_congr_right fun _ => (List.map_injective_iff.2 (Option.some_injective _)).eq_iff.symm

theorem readAll_none_iff {α : Type} {f : Nat → Option α} {l : List Nat} :
    readAll f l = none ↔ ∃ n ∈ l, f n = none := by
  induction l with
  | nil => simp [readAll]
  | cons n l ih =>
    unfold readAll
    cases head : f n with
    | none => simp [head]
    | some a =>
      cases tail : readAll f l with
      | none => simpa [head] using ih.1 tail
      | some x => simpa [head, tail] using ih

/-- The entries of values written from an index on: each takes its value, the others stay (R40). -/
theorem writeFrom_get {α : Type} {n : Nat} {f : Nat → Option α} {l : List Nat} {r : List α}
    (read : readAll f l = some r) (first : Nat) (v : Vector α n) (i : Fin n) :
    (first ≤ i.val ∧ i.val < first + l.length →
        some ((writeFrom first r v).get i) = f ((l[i.val - first]?).getD 0))
      ∧ (¬(first ≤ i.val ∧ i.val < first + l.length) → (writeFrom first r v).get i = v.get i) := by
  have same := readAll_some_iff.1 read
  have length : l.length = r.length := by simpa using congrArg List.length same
  have entry : (writeFrom first r v).get i =
      if first ≤ i.val then (r[i.val - first]?).getD (v.get i) else v.get i := Vector.get_ofFn _ i
  rw [entry]
  constructor
  · rintro ⟨from_, below⟩
    have inside : i.val - first < l.length := by omega
    have value := congrArg (·[i.val - first]?) same
    simp only [List.getElem?_map, List.getElem?_eq_getElem inside,
      List.getElem?_eq_getElem (length ▸ inside), Option.map_some, Option.some.injEq] at value
    rw [if_pos from_, List.getElem?_eq_getElem inside, List.getElem?_eq_getElem (length ▸ inside)]
    exact value.symm
  · intro outside
    split_ifs with from_
    · rw [List.getElem?_eq_none (by omega)]
      rfl
    · rfl

/-- The value words of PAGE_WRITE. -/
def State.pageWords (s : State) : List Word := [s.arg 4, s.arg 5, s.arg 6, s.arg 7]

theorem pageValues_eq (s : State) :
    pageValues s.regs.args = (s.pageWords.map BitVec.toNat).take (s.arg 3).toNat := rfl

theorem pageValues_length (most : (s.arg 3).toNat ≤ 4) :
    (pageValues s.regs.args).length = (s.arg 3).toNat := by
  rw [pageValues_eq, List.length_take]
  exact min_eq_left most

theorem pageValues_get {i : Nat} (inside : i < (s.arg 3).toNat) :
    ((pageValues s.regs.args)[i]?).getD 0 = ((s.pageWords[i]?).getD 0#16).toNat := by
  rw [pageValues_eq, List.getElem?_take_of_lt inside, List.getElem?_map]
  cases s.pageWords[i]? <;> rfl

theorem mem_pageValues (most : (s.arg 3).toNat ≤ 4) {n : Nat} :
    n ∈ pageValues s.regs.args ↔ ∃ i < (s.arg 3).toNat, ((s.pageWords[i]?).getD 0#16).toNat = n := by
  constructor
  · intro mem
    obtain ⟨i, inside, value⟩ := List.mem_iff_getElem.1 mem
    have small := pageValues_length most ▸ inside
    refine ⟨i, small, ?_⟩
    rw [← pageValues_get small, List.getElem?_eq_getElem inside, ← value]
    rfl
  · rintro ⟨i, small, rfl⟩
    have inside : i < (pageValues s.regs.args).length := (pageValues_length most).symm ▸ small
    rw [← pageValues_get small, List.getElem?_eq_getElem inside]
    exact List.getElem_mem inside

theorem pageRangeValid_iff (part first count : Nat) : pageRangeValid part first count = true ↔
    part ≤ 3 ∧ 1 ≤ count ∧ count ≤ 4 ∧ (part = 3 → count = 1)
      ∧ first + count ≤ (if part = 2 then 128 else if part = 3 then 1 else 32) := by
  unfold pageRangeValid
  rw [Bool.and_eq_true, decide_eq_true_eq]
  split
  case h_5 =>
    simp only [Bool.false_eq_true, and_false, false_iff]
    rintro ⟨small, _⟩
    interval_cases part <;> contradiction
  all_goals
    simp
    omega

/-! ## The write carried -/

/-- The page a write of read values makes of a page's part (R40). -/
inductive Written (part first : Nat) (l : List Nat) (p : Page) : Page → Prop
  | letters {r : List RxEntry} (here : part = 0) (read : readAll rxEntryOf l = some r) :
      Written part first l p { p with rxLetters := writeFrom first r p.rxLetters }
  | figures {r : List RxEntry} (here : part = 1) (read : readAll rxEntryOf l = some r) :
      Written part first l p { p with rxFigures := writeFrom first r p.rxFigures }
  | send {r : List SendEntry} (here : part = 2) (read : readAll sendEntryOf l = some r) :
      Written part first l p { p with send := writeFrom first r p.send }
  | substitute {n : Nat} {x : Office} (here : part = 3) (one : l = [n]) (read : substituteOf n = some x) :
      Written part first l p { p with substitute := x }

/-- Every value is one of the part (R27, R40). -/
def Allowed (part : Nat) (l : List Nat) : Prop :=
  (part ≤ 1 → ∀ n ∈ l, rxEntryOf n ≠ none) ∧ (part = 2 → ∀ n ∈ l, sendEntryOf n ≠ none)
    ∧ (part = 3 → ∀ n ∈ l, substituteOf n ≠ none)

/-- What PAGE_WRITE's arguments carry: no write, or one that writes values of the part. -/
def Carries (part first : Nat) (l : List Nat) (w : Option PageWrite) : Prop :=
  (w = none ∧ ¬Allowed part l)
    ∨ ∃ x, w = some x ∧ Allowed part l ∧ ∀ p : Page, Written part first l p (p.write first x)

theorem carries_letters {first : Nat} {l : List Nat} :
    Carries 0 first l ((readAll rxEntryOf l).map .letters) := by
  cases read : readAll rxEntryOf l with
  | none =>
    obtain ⟨n, mem, bad⟩ := readAll_none_iff.1 read
    exact .inl ⟨rfl, fun ok => ok.1 (by decide) n mem bad⟩
  | some r =>
    have good : ∀ n ∈ l, rxEntryOf n ≠ none := fun n mem bad => by
      simp [readAll_none_iff.2 ⟨n, mem, bad⟩] at read
    exact .inr ⟨_, rfl, ⟨fun _ => good, nofun, nofun⟩, fun p => .letters rfl read⟩

theorem carries_figures {first : Nat} {l : List Nat} :
    Carries 1 first l ((readAll rxEntryOf l).map .figures) := by
  cases read : readAll rxEntryOf l with
  | none =>
    obtain ⟨n, mem, bad⟩ := readAll_none_iff.1 read
    exact .inl ⟨rfl, fun ok => ok.1 (by decide) n mem bad⟩
  | some r =>
    have good : ∀ n ∈ l, rxEntryOf n ≠ none := fun n mem bad => by
      simp [readAll_none_iff.2 ⟨n, mem, bad⟩] at read
    exact .inr ⟨_, rfl, ⟨fun _ => good, nofun, nofun⟩, fun p => .figures rfl read⟩

theorem carries_send {first : Nat} {l : List Nat} :
    Carries 2 first l ((readAll sendEntryOf l).map .send) := by
  cases read : readAll sendEntryOf l with
  | none =>
    obtain ⟨n, mem, bad⟩ := readAll_none_iff.1 read
    exact .inl ⟨rfl, fun ok => ok.2.1 rfl n mem bad⟩
  | some r =>
    have good : ∀ n ∈ l, sendEntryOf n ≠ none := fun n mem bad => by
      simp [readAll_none_iff.2 ⟨n, mem, bad⟩] at read
    exact .inr ⟨_, rfl, ⟨nofun, fun _ => good, nofun⟩, fun p => .send rfl read⟩

theorem carries_substitute {first n : Nat} :
    Carries 3 first [n] ((substituteOf n).map .substitute) := by
  cases read : substituteOf n with
  | none => exact .inl ⟨rfl, fun ok => ok.2.2 rfl n (List.mem_singleton_self n) read⟩
  | some x =>
    refine .inr ⟨_, rfl, ⟨nofun, nofun, fun _ m mem => ?_⟩, fun p => .substitute rfl rfl read⟩
    rw [List.mem_singleton.1 mem, read]
    nofun

/-- In a range the page has, the arguments carry the write of their values. -/
theorem pageWriteOf_carries
    (ranged : pageRangeValid (s.arg 1).toNat (s.arg 2).toNat (s.arg 3).toNat = true) :
    Carries (s.arg 1).toNat (s.arg 2).toNat (pageValues s.regs.args) (pageWriteOf s.regs.args) := by
  obtain ⟨isPart, least, most, single, _⟩ := (pageRangeValid_iff _ _ _).1 ranged
  have length := pageValues_length most
  have same : pageWriteOf s.regs.args = _ := if_pos ranged
  rw [same]
  have arg : (s.regs.args.get 1).toNat = (s.arg 1).toNat := rfl
  rw [arg]
  generalize (s.arg 1).toNat = part at *
  interval_cases part
  · exact carries_letters
  · exact carries_figures
  · exact carries_send
  · obtain ⟨n, one⟩ := List.length_eq_one_iff.1 (length.trans (single rfl))
    rw [one]
    exact carries_substitute

theorem pageWriteOf_outside
    (outside : ¬pageRangeValid (s.arg 1).toNat (s.arg 2).toNat (s.arg 3).toNat = true) :
    pageWriteOf s.regs.args = none := if_neg outside

theorem allowed_pageValues (most : (s.arg 3).toNat ≤ 4) {part : Nat} :
    Allowed part (pageValues s.regs.args) ↔ ∀ i, i < (s.arg 3).toNat →
      (part ≤ 1 → rxEntryOf ((s.pageWords[i]?).getD 0#16).toNat ≠ none)
        ∧ (part = 2 → sendEntryOf ((s.pageWords[i]?).getD 0#16).toNat ≠ none)
        ∧ (part = 3 → substituteOf ((s.pageWords[i]?).getD 0#16).toNat ≠ none) := by
  constructor
  · rintro ⟨rx, send, substitute⟩ i below
    have mem := (mem_pageValues most).2 ⟨i, below, rfl⟩
    exact ⟨fun h => rx h _ mem, fun h => send h _ mem, fun h => substitute h _ mem⟩
  · intro each
    refine ⟨fun h n mem => ?_, fun h n mem => ?_, fun h n mem => ?_⟩ <;>
      obtain ⟨i, below, rfl⟩ := (mem_pageValues most).1 mem
    · exact (each i below).1 h
    · exact (each i below).2.1 h
    · exact (each i below).2.2 h

/-- The entries of a part after a write of the values of PAGE_WRITE (R40). -/
theorem writeFrom_pageValues (most : (s.arg 3).toNat ≤ 4) {α : Type} {n : Nat} {f : Nat → Option α}
    {r : List α} (read : readAll f (pageValues s.regs.args) = some r) (first : Nat) (v : Vector α n)
    (i : Fin n) :
    (first ≤ i.val ∧ i.val < first + (s.arg 3).toNat →
        some ((writeFrom first r v).get i)
          = f ((s.pageWords[i.val - first]?).getD 0#16).toNat)
      ∧ (¬(first ≤ i.val ∧ i.val < first + (s.arg 3).toNat) →
        (writeFrom first r v).get i = v.get i) := by
  have entry := writeFrom_get read first v i
  rw [pageValues_length most] at entry
  refine ⟨fun inside => ?_, entry.2⟩
  rw [entry.1 inside, pageValues_get (by omega)]

/-! ## The obligation -/

theorem exec_pageWrite : exec .pageWrite s = .next (pageWrite s) := rfl

theorem pageWrite_bad {k : Fin 4} (other : k ≠ 0) (names : (s.arg 0).toNat = k.val)
    (none : pageWriteOf s.regs.args = none) : pageWrite s = s.refuse 23 .badArgument := by
  unfold pageWrite
  rw [pageOf_eq_some.2 names]
  simp only [none]
  exact if_neg other

theorem pageWrite_used {k : Fin 4} (other : k ≠ 0) (names : (s.arg 0).toNat = k.val) {w : PageWrite}
    (some : pageWriteOf s.regs.args = some w) (used : s.pageInUse k = true) :
    pageWrite s = s.refuse 23 .pageInUse := by
  unfold pageWrite
  rw [pageOf_eq_some.2 names]
  simp only [some]
  exact (if_neg other).trans (if_pos used)

theorem pageWrite_written {k : Fin 4} (other : k ≠ 0) (names : (s.arg 0).toNat = k.val) {w : PageWrite}
    (some : pageWriteOf s.regs.args = some w) (unused : s.pageInUse k = false) :
    pageWrite s = (s.setPage k ((s.page k).write (s.arg 2).toNat w)).done 23 := by
  unfold pageWrite
  rw [pageOf_eq_some.2 names]
  simp only [some]
  exact (if_neg other).trans (if_neg (by simp [unused]))

theorem pageInUse_iff (s : State) (k : Fin 4) : s.pageInUse k = true ↔
    ∃ c, (s.circuit c).config.page = k
      ∧ ((∃ j, (s.story j).source = .circuit c ∧ (s.story j).state.live = true)
        ∨ ∃ j, (s.story j).liveOn (lineOutlet c) = true) := by
  rw [pageInUse_eq, decide_eq_true_iff]
  simp only [State.AtQuietPoint, not_and_or, not_forall, exists_prop, Bool.not_eq_false]

/-- Settles O29: the checks come first, and each part's values go to its entries from the first index on. -/
theorem pageWriteWritesItsEntries : Obligations.PageWriteWritesItsEntries := by
  intro s part first count words value size ranged allowed written
  refine ⟨fun beyond => ?_, fun fixed => ?_, fun k other names => ?_⟩
  · rw [exec_pageWrite, pageWrite, pageOf_eq_none beyond]
  · rw [exec_pageWrite, pageWrite, pageOf_eq_some.2 (show _ = (0 : Fin 4).val from fixed)]
    rfl
  have carried := fun inRange : ranged =>
    pageWriteOf_carries (s := s) ((pageRangeValid_iff _ _ _).2 inRange)
  intro used
  refine ⟨fun bad => ?_, fun inRange ok inUse => ?_, fun inRange ok free => ?_⟩
  · have nothing : pageWriteOf s.regs.args = none := by
      by_cases inRange : ranged
      · obtain ⟨nothing, _⟩ | ⟨x, _, ok, _⟩ := carried inRange
        · exact nothing
        · exact absurd ⟨inRange, (allowed_pageValues inRange.2.2.1).1 ok⟩ bad
      · exact pageWriteOf_outside fun valid => inRange ((pageRangeValid_iff _ _ _).1 valid)
    rw [exec_pageWrite, pageWrite_bad other names nothing]
  all_goals
    obtain ⟨_, bad⟩ | ⟨x, some, _, writes⟩ := carried inRange
    · exact absurd ((allowed_pageValues inRange.2.2.1).2 ok) bad
  · rw [exec_pageWrite, pageWrite_used other names some ((pageInUse_iff s k).2 inUse)]
  · have unused : s.pageInUse k = false :=
      Bool.eq_false_iff.2 fun inUse => free ((pageInUse_iff s k).1 inUse)
    refine ⟨s.setPage k ((s.page k).write (s.arg 2).toNat x), ?_, rfl, fun q apart => ?_, ?_⟩
    · rw [exec_pageWrite, pageWrite_written other names some unused]
      rfl
    · rw [State.page_setPage, if_neg apart]
    · rw [State.page_setPage_self]
      have entries := fun {α : Type} {n : Nat} {f : Nat → Option α} {r : List α} =>
        @writeFrom_pageValues s inRange.2.2.1 α n f r
      have apart : ∀ {p q : Nat}, part = p → p ≠ q → ∀ i, ¬written q i :=
        fun here other i at_ => other (here.symm.trans at_.1)
      have else_ : ∀ {p : Nat}, part = p → ∀ {i : Nat}, ¬written p i →
          ¬(first ≤ i ∧ i < first + count) := fun here _ outside inside => outside ⟨here, inside⟩
      generalize page : (s.page k).write (s.arg 2).toNat x = w
      cases page ▸ writes (s.page k) with
      | letters here read =>
        refine ⟨fun i => ⟨fun at_ => (entries read _ _ i).1 at_.2,
          fun out => (entries read _ _ i).2 (else_ here out),
          fun at_ => absurd at_ (apart here (by decide) _), fun _ => rfl⟩,
          fun i => ⟨fun at_ => absurd at_ (apart here (by decide) _), fun _ => rfl⟩,
          fun at_ => absurd (here.symm.trans at_) (by decide), fun _ => rfl⟩
      | figures here read =>
        refine ⟨fun i => ⟨fun at_ => absurd at_ (apart here (by decide) _), fun _ => rfl,
          fun at_ => (entries read _ _ i).1 at_.2,
          fun out => (entries read _ _ i).2 (else_ here out)⟩,
          fun i => ⟨fun at_ => absurd at_ (apart here (by decide) _), fun _ => rfl⟩,
          fun at_ => absurd (here.symm.trans at_) (by decide), fun _ => rfl⟩
      | send here read =>
        refine ⟨fun i => ⟨fun at_ => absurd at_ (apart here (by decide) _), fun _ => rfl,
          fun at_ => absurd at_ (apart here (by decide) _), fun _ => rfl⟩,
          fun i => ⟨fun at_ => (entries read _ _ i).1 at_.2,
          fun out => (entries read _ _ i).2 (else_ here out)⟩,
          fun at_ => absurd (here.symm.trans at_) (by decide), fun _ => rfl⟩
      | @substitute n _ here one read =>
        have first_ : n = value 0 := by
          have entry := pageValues_get (s := s) (i := 0) inRange.2.1
          rw [one] at entry
          exact entry
        refine ⟨fun i => ⟨fun at_ => absurd at_ (apart here (by decide) _), fun _ => rfl,
          fun at_ => absurd at_ (apart here (by decide) _), fun _ => rfl⟩,
          fun i => ⟨fun at_ => absurd at_ (apart here (by decide) _), fun _ => rfl⟩,
          fun _ => first_ ▸ read.symm, fun out => absurd here out⟩

end Sys2Proof.Machine

/-! PROOF. CIRCUIT_SET and the traffic reset (R8 to R10, R25, R169, R177). -/

namespace Sys2Proof.Machine

variable {s t u : State}

/-! ## The rows of CIRCUIT_SET -/

theorem exec_circuitSet (s : State) : exec .circuitSet s = .next (circuitSetAs 0 s) := rfl

theorem exec_circuitSetSection1 (s : State) : exec .circuitSetSection1 s = .next (circuitSetAs 1 s) := rfl

theorem exec_circuitSetSection2 (s : State) : exec .circuitSetSection2 s = .next (circuitSetAs 2 s) := rfl

theorem circuitSetAs_apart {n : Nat} (other : hiByte (s.arg 0) ≠ n) (valid : hiByte (s.arg 0) ≤ 2) :
    circuitSetAs n s = s := if_neg (not_or.2 ⟨other, Nat.not_lt.2 valid⟩)

theorem circuitSet_beyond (beyond : 2 < hiByte (s.arg 0)) : circuitSet s = s.refuse 14 .badArgument := by
  unfold circuitSet State.circuitSetSection
  split
  · omega
  · omega
  · omega
  · rfl

theorem circuitSet_0 (here : hiByte (s.arg 0) = 0) : circuitSet s = submitConfig s := by
  unfold circuitSet State.circuitSetSection
  simp only [here]

theorem circuitSet_1 (here : hiByte (s.arg 0) = 1) : circuitSet s = setSection1 s := by
  unfold circuitSet State.circuitSetSection
  simp only [here]

theorem circuitSet_2 (here : hiByte (s.arg 0) = 2) : circuitSet s = setSection2 s := by
  unfold circuitSet State.circuitSetSection
  simp only [here]

theorem circuitSetCircuit_none (beyond : 16 ≤ loByte (s.arg 0)) : s.circuitSetCircuit = none :=
  circuitOf_eq_none beyond

theorem circuitSetCircuit_some {c : Fin 16} (names : loByte (s.arg 0) = c.val) :
    s.circuitSetCircuit = some c := circuitOf_eq_some.2 names

/-! ## Sections 1 and 2 -/

theorem sectionValid_iff (first length : Nat) (bytes : List (BitVec 8)) :
    sectionValid first length bytes = true ↔ ∀ i, i < bytes.length → first + i < length →
      answerbackByte ((bytes[i]?).getD 0#8) = true := by
  unfold sectionValid
  rw [List.all_eq_true]
  constructor
  · intro all i inside below
    rw [List.getElem?_eq_getElem inside]
    exact all _ (List.mem_take_iff_getElem.2 ⟨i, by omega, rfl⟩)
  · intro each b mem
    obtain ⟨i, inside, rfl⟩ := List.mem_take_iff_getElem.1 mem
    have byte := each i (by omega) (by omega)
    rwa [List.getElem?_eq_getElem (by omega)] at byte

theorem writeBytes_get (first : Nat) (bytes : List (BitVec 8)) (v : Vector (BitVec 8) 20) (i : Fin 20) :
    (writeBytes first bytes v).get i =
      if first ≤ i.val then (bytes[i.val - first]?).getD (v.get i) else v.get i :=
  Vector.get_ofFn _ i

/-- The draft held for a circuit, or a fresh one (R169). -/
theorem draftFor_eq {c : Fin 16} {old : Draft}
    (held : (s.regs.draft = some old ∧ old.circuit = c)
      ∨ ((∀ d, s.regs.draft = some d → d.circuit ≠ c)
        ∧ old = { circuit := c, length := 0, chars := Vector.replicate 20 0#8, section2 := false })) :
    s.draftFor c = old := by
  unfold State.draftFor
  rcases held with ⟨draft, here⟩ | ⟨apart, rfl⟩
  · rw [draft]
    exact if_pos here
  · cases draft : s.regs.draft with
    | none => rfl
    | some d => exact if_neg (apart d draft)

theorem draftFor_circuit (s : State) (c : Fin 16) : (s.draftFor c).circuit = c := by
  unfold State.draftFor
  split
  · split_ifs with here
    · exact here
    · rfl
  · rfl

theorem setSection1_none (none : s.circuitSetCircuit = none) : setSection1 s = s.refuse 14 .badArgument := by
  unfold setSection1
  rw [none]

theorem setSection2_none (none : s.circuitSetCircuit = none) : setSection2 s = s.refuse 14 .badArgument := by
  unfold setSection2
  rw [none]

theorem setSection1_some {c : Fin 16} (some : s.circuitSetCircuit = some c) :
    setSection1 s = if (s.arg 1).toNat ≤ 20 ∧ sectionValid 0 (s.arg 1).toNat (s.argBytes [2, 3, 4, 5, 6, 7]) then
      (s.modRegs (fun r => { r with draft := .some { s.draftFor c with
        length := (s.arg 1).toNat
        chars := writeBytes 0 (s.argBytes [2, 3, 4, 5, 6, 7]) (s.draftFor c).chars } })).answer 14 .ok
    else s.refuse 14 .badArgument := by
  unfold setSection1
  rw [some]

theorem setSection2_some {c : Fin 16} (some : s.circuitSetCircuit = some c) :
    setSection2 s = if sectionValid 12 (s.draftFor c).length (s.argBytes [1, 2, 3, 4]) then
      (s.modRegs (fun r => { r with draft := .some { s.draftFor c with
        section2 := true
        chars := writeBytes 12 (s.argBytes [1, 2, 3, 4]) (s.draftFor c).chars } })).answer 14 .ok
    else s.refuse 14 .badArgument := by
  unfold setSection2
  rw [some]

/-- Settles O30: a section's row writes its own characters into the draft of the circuit named. -/
theorem circuitSetSectionsFillTheDraft : Obligations.CircuitSetSectionsFillTheDraft := by
  intro s section_ byte
  have row1 (here : section_ = 1) : exec .circuitSetSection1 s = .next (setSection1 s) := by
    rw [exec_circuitSetSection1, circuitSetAs_eq (.inl here), circuitSet_1 here]
  have row2 (here : section_ = 2) : exec .circuitSetSection2 s = .next (setSection2 s) := by
    rw [exec_circuitSetSection2, circuitSetAs_eq (.inl here), circuitSet_2 here]
  refine ⟨fun beyond => ?beyond, fun apart => ?apart1, fun apart => ?apart2, fun here outside => ?none1,
    fun here outside => ?none2, fun c names old held => ⟨fun here => ?one, fun here => ?two⟩⟩
  case beyond =>
    rw [exec_circuitSet, exec_circuitSetSection1, exec_circuitSetSection2, circuitSetAs_eq (.inr beyond),
      circuitSetAs_eq (.inr beyond), circuitSetAs_eq (.inr beyond), circuitSet_beyond beyond]
    exact ⟨rfl, rfl, rfl⟩
  case apart1 =>
    have other : section_ ≠ 1 ∧ section_ ≤ 2 := by omega
    rw [exec_circuitSetSection1, circuitSetAs_apart other.1 other.2]
  case apart2 =>
    have other : section_ ≠ 2 ∧ section_ ≤ 2 := by omega
    rw [exec_circuitSetSection2, circuitSetAs_apart other.1 other.2]
  case none1 => rw [row1 here, setSection1_none (circuitSetCircuit_none outside)]
  case none2 => rw [row2 here, setSection2_none (circuitSetCircuit_none outside)]
  case one =>
    have valid := sectionValid_iff 0 (s.arg 1).toNat (s.argBytes [2, 3, 4, 5, 6, 7])
    simp only [Nat.zero_add] at valid
    rw [row1 here, setSection1_some (circuitSetCircuit_some names), draftFor_eq held]
    refine ⟨fun bad => congrArg _ (if_neg fun good => bad ⟨good.1, valid.1 good.2⟩), fun good =>
      ⟨_, congrArg _ (if_pos ⟨good.1, valid.2 good.2⟩), ?_, rfl, rfl, fun i => ?_⟩⟩
    · exact draftFor_eq held ▸ draftFor_circuit s c
    · refine (writeBytes_get 0 _ old.chars i).trans ?_
      have size : (s.argBytes [2, 3, 4, 5, 6, 7]).length = 12 := rfl
      show (s.argBytes [2, 3, 4, 5, 6, 7])[i.val]?.getD (old.chars.get i) = _
      split_ifs with inside
      · rw [List.getElem?_eq_getElem (size ▸ inside)]
        exact (congrArg (·.getD 0#8) (List.getElem?_eq_getElem (size ▸ inside))).symm
      · rw [List.getElem?_eq_none (size ▸ Nat.not_lt.1 inside)]
        rfl
  case two =>
    have valid := sectionValid_iff 12 old.length (s.argBytes [1, 2, 3, 4])
    rw [row2 here, setSection2_some (circuitSetCircuit_some names), draftFor_eq held]
    refine ⟨fun bad => congrArg _ (if_neg fun good => bad (valid.1 good)), fun good =>
      ⟨_, congrArg _ (if_pos (valid.2 good)), ?_, rfl, rfl, fun i => ?_⟩⟩
    · exact draftFor_eq held ▸ draftFor_circuit s c
    · refine (writeBytes_get 12 _ old.chars i).trans ?_
      have size : (s.argBytes [1, 2, 3, 4]).length = 8 := rfl
      by_cases before : i.val < 12
      · rw [if_neg (Nat.not_le.2 before), if_pos before]
      · have inside : i.val - 12 < (s.argBytes [1, 2, 3, 4]).length := by omega
        rw [if_pos (Nat.not_lt.1 before), if_neg before, List.getElem?_eq_getElem inside]
        exact (congrArg (·.getD 0#8) (List.getElem?_eq_getElem inside)).symm

/-! ## Section 0 -/

theorem submitConfig_outside (outside : s.circuitSetCircuit = none) :
    submitConfig s = s.refuse 14 .badArgument := by
  unfold submitConfig
  rw [outside]

theorem submitConfig_bad {c : Fin 16} (names : s.circuitSetCircuit = some c)
    (bad : (s.submittedString c).bind (circuitConfigOf s.regs.args) = none) :
    submitConfig s = s.refuse 14 .badArgument := by
  unfold submitConfig
  simp only [names, bad]

theorem submitConfig_placed {c : Fin 16} {cfg : CircuitConfig} (names : s.circuitSetCircuit = some c)
    (good : (s.submittedString c).bind (circuitConfigOf s.regs.args) = some cfg) :
    submitConfig s = placeConfig c cfg s := by
  unfold submitConfig
  simp only [names, good]

theorem submittedString_absent {c : Fin 16} (absent : ∀ d, s.regs.draft = some d → d.circuit ≠ c) :
    s.submittedString c = some [] := by
  unfold State.submittedString
  split
  · rfl
  · next d draft => exact if_pos (absent d draft)

theorem submittedString_held {c : Fin 16} {d : Draft} (draft : s.regs.draft = some d)
    (here : d.circuit = c) : s.submittedString c =
      if (12 < d.length ∧ d.section2 = false)
          ∨ ∃ b ∈ d.chars.toList.take d.length, answerbackByte b = false then none
      else some ((d.chars.toList.take d.length).map (fun b => BitVec.ofNat 7 b.toNat)) := by
  unfold State.submittedString
  simp only [draft, here, ne_eq, not_true_eq_false, if_false, List.all_eq_false, Bool.not_eq_true]
  rfl

/-- The answerback string an obligation names by the draft is the one submitted (R169). -/
theorem submittedString_eq {c : Fin 16} {string : Option (List Office)}
    (absent : (∀ d, s.regs.draft = some d → d.circuit ≠ c) → string = some [])
    (held : ∀ d, s.regs.draft = some d → d.circuit = c →
      string = if (12 < d.length ∧ d.section2 = false)
          ∨ ∃ b ∈ d.chars.toList.take d.length, answerbackByte b = false then none
        else some ((d.chars.toList.take d.length).map (fun b => BitVec.ofNat 7 b.toNat))) :
    s.submittedString c = string := by
  by_cases here : ∃ d, s.regs.draft = some d ∧ d.circuit = c
  · obtain ⟨d, draft, names⟩ := here
    rw [submittedString_held draft names, held d draft names]
  · have apart : ∀ d, s.regs.draft = some d → d.circuit ≠ c := fun d draft names =>
      here ⟨d, draft, names⟩
    rw [submittedString_absent apart, absent apart]

theorem circuitConfigOf_valid {args : Vector Word 8} {answerback : List Office} {cfg : CircuitConfig}
    (read : circuitConfigOf args answerback = some cfg) : cfg.valid = true := by
  unfold circuitConfigOf at read
  simp only [Option.bind_eq_bind, Option.bind_eq_some_iff] at read
  obtain ⟨_, _, _, _, _, _, _, _, _, _, _, _, _, _, rest⟩ := read
  split at rest
  · next valid =>
    obtain rfl := Option.some.inj rest
    exact valid
  · cases rest

/-- Settles O31: the draft gives the string, and the quiet point says whether the configuration is applied. -/
theorem circuitSetSubmitsTheConfiguration : Obligations.CircuitSetSubmitsTheConfiguration := by
  intro s here
  have row : exec .circuitSet s = .next (submitConfig s) := by
    rw [exec_circuitSet, circuitSetAs_eq (.inl here), circuitSet_0 here]
  refine ⟨fun outside => ?_, fun c names string absent held => ?_⟩
  · rw [row, submitConfig_outside (circuitSetCircuit_none outside)]
  · have submitted := submittedString_eq absent held
    intro cfg quiet emptied
    refine ⟨fun bad => ?_, fun x good => ?_⟩
    · rw [row, submitConfig_bad (circuitSetCircuit_some names) (submitted ▸ bad)]
    · obtain ⟨answerback, _, read⟩ := Option.bind_eq_some_iff.1 good
      have placed := row.trans
        (congrArg _ (submitConfig_placed (circuitSetCircuit_some names)
          (by rw [submitted]; exact good)))
      have point : emptied.quiet c = true ↔ quiet := quiet_iff emptied c
      refine ⟨circuitConfigOf_valid read, fun busy => ?_, fun still => ?_⟩
      · rw [placed]
        exact congrArg _ (if_neg fun quiet => busy (point.1 quiet))
      · rw [placed]
        refine congrArg _ ((if_pos (point.2 still)).trans ?_)
        unfold applyConfig
        rw [funext fun y => apply_eq_configured y x]
        rfl

end Sys2Proof.Machine

/-! PROOF. The traffic reset (R25, R55, R100, R139, R153, R177). -/

namespace Sys2Proof.Machine

variable {s t u v : State}

/-! ## A change made once for each of a list -/

/-- A part of the state that one member's change moves and the others leave alone moves once. -/
theorem forEach_at {α β : Type} {f : α → State → State} (view : State → β) (act : β → β) {a : α}
    (here : ∀ w, view (f a w) = act (view w)) (apart : ∀ b w, b ≠ a → view (f b w) = view w)
    {l : List α} (nodup : l.Nodup) (mem : a ∈ l) (s : State) : view (forEach l f s) = act (view s) := by
  have stays : ∀ {l : List α}, a ∉ l → ∀ w, view (forEach l f w) = view w := by
    intro l out
    induction l with
    | nil => exact fun w => rfl
    | cons b l ih =>
      intro w
      obtain ⟨other, rest⟩ := List.ne_and_not_mem_of_not_mem_cons out
      rw [forEach_cons, ih rest, apart b w other.symm]
  induction l generalizing s with
  | nil => cases mem
  | cons b l ih =>
    obtain ⟨out, nodup⟩ := List.nodup_cons.1 nodup
    rw [forEach_cons]
    rcases List.mem_cons.1 mem with rfl | mem
    · rw [stays out, here]
    · rw [ih nodup mem, apart b s fun same => out (same ▸ mem)]

/-- A part that no member's change moves stays. -/
theorem forEach_same {α β : Type} {f : α → State → State} (view : State → β)
    (keeps : ∀ a w, view (f a w) = view w) (l : List α) (w : State) : view (forEach l f w) = view w :=
  forEach_keeps (P := fun v => view v = view w) (fun a v h => (keeps a v).trans h) rfl

/-! ## Records at traffic reset -/

theorem Circuit.trafficReset_eq (x : Circuit) : x.trafficReset =
    let y : Circuit := { x with
      survey := false, sending := none, pendingConfig := none
      config := x.pendingConfig.getD x.config
      surveyRec := if x.survey then { x.surveyRec with result := some .cancelled } else x.surveyRec }
    if x.state = .closed then y else
      { y with
        state := .opened, rxPhase := .hunting, rxPlane := .letters, lossTimer := none,
        restoreTimer := none, edges := [], allSpace := false, afterStop := false } := by
  unfold Circuit.trafficReset Circuit.dropSurvey Circuit.applyPending Circuit.apply Circuit.hunt
  cases state : x.state <;> cases survey : x.survey <;> cases pending : x.pendingConfig <;>
    simp [state, survey, pending]

theorem Port.trafficReset_eq (x : Port) : x.trafficReset = if x.enabled then
    { x with rxPhase := if x.rxMark then .hunting else .waitMark, requestMode := false,
             afterRequest := false, queue := [], readyOut := .high, sending := none,
             replySlot := none }
    else x := rfl

theorem Outlet.lineReset_eq (x : Outlet) (st : CircuitState) : x.lineReset st = { x with
    state := if st = .closed then .off else .idle, holder := none, waiting := [], owed := [],
    unit := none, answerbackOwed := false, counterBreak := false, farBreak := false,
    plane := if st = .closed then x.plane else .letters,
    shiftOwed := if st = .closed then x.shiftOwed else true,
    column := 0, stallTimer := none } := by
  cases st <;> rfl

theorem Outlet.terminalReset_eq (x : Outlet) (p : Port) : x.terminalReset p = { x with
    state := if p.enabled then (if p.readyIn = .high then .idle else .paused) else .off
    holder := none, waiting := [], owed := [], unit := none, answerbackOwed := false,
    counterBreak := false, farBreak := false, column := 0, stallTimer := none } := by
  unfold Outlet.terminalReset readyState Outlet.toOff
  cases p.enabled <;> cases p.readyIn <;> rfl

/-! ## The state a reset clears -/

/-- What a traffic reset starts from: the tables of the traffic emptied. -/
def trafficEmptied (s : State) : State :=
  { s with
    stories := Vector.replicate 48 {}
    openOrder := []
    framers := Vector.replicate 24 {}
    notices := s.notices.withFlags 0#11 }

/-- One control unit at traffic reset. -/
def resetControl (c : Fin 16) (s : State) : State := s.modControl c (fun x => x.trafficReset)

/-- The stages of a traffic reset: the circuits, the terminals, the control units, the host port. -/
theorem trafficCleared_stages (s : State) : ∃ w₁ w₂ w₃,
    w₁ = forEach allCircuits resetCircuit (trafficEmptied s)
      ∧ w₂ = forEach allTerminals resetTerminal w₁
      ∧ w₃ = forEach allCircuits resetControl w₂
      ∧ trafficCleared s = w₃.modRegs (fun r => r.trafficReset) :=
  ⟨_, _, _, rfl, rfl, rfl, rfl⟩

theorem allCircuits_nodup : allCircuits.Nodup := List.nodup_finRange 16

theorem allTerminals_nodup : allTerminals.Nodup := List.nodup_finRange 8

section Loops

theorem resetCircuit_view (c : Fin 16) (w : State) : ((resetCircuit c w).circuit c,
    (resetCircuit c w).outlet (lineOutlet c))
      = ((w.circuit c).trafficReset, (w.outlet (lineOutlet c)).lineReset (w.circuit c).state) := by
  unfold resetCircuit
  simp

theorem resetCircuit_apart {b c : Fin 16} (other : b ≠ c) (w : State) :
    ((resetCircuit b w).circuit c, (resetCircuit b w).outlet (lineOutlet c))
      = (w.circuit c, w.outlet (lineOutlet c)) := by
  unfold resetCircuit
  simp [lineOutlet_inj, other.symm]

theorem resetTerminal_view (t : Fin 8) (w : State) : ((resetTerminal t w).port t,
    (resetTerminal t w).outlet (terminalOutlet t))
      = ((w.port t).trafficReset, (w.outlet (terminalOutlet t)).terminalReset (w.port t)) := by
  unfold resetTerminal
  simp

theorem resetTerminal_apart {b t : Fin 8} (other : b ≠ t) (w : State) :
    ((resetTerminal b w).port t, (resetTerminal b w).outlet (terminalOutlet t))
      = (w.port t, w.outlet (terminalOutlet t)) := by
  unfold resetTerminal
  simp [terminalOutlet_inj, other.symm]

/-- A part neither kind of record change reaches is as it was emptied. -/
theorem resets_keep {β : Type} (view : State → β) (circuits : ∀ c w, view (resetCircuit c w) = view w)
    (terminals : ∀ t w, view (resetTerminal t w) = view w)
    (controls : ∀ c w, view (resetControl c w) = view w) :
    ∃ w, trafficCleared s = w.modRegs (fun r => r.trafficReset) ∧ view w = view (trafficEmptied s) := by
  obtain ⟨w₁, w₂, w₃, first, second, third, last⟩ := trafficCleared_stages s
  refine ⟨w₃, last, ?_⟩
  calc view w₃ = view w₂ := third ▸ forEach_same (f := resetControl) view controls _ _
    _ = view w₁ := second ▸ forEach_same view terminals _ _
    _ = view (trafficEmptied s) := first ▸ forEach_same view circuits _ _

theorem trafficCleared_line (s : State) (c : Fin 16) :
    (trafficCleared s).circuit c = (s.circuit c).trafficReset
      ∧ (trafficCleared s).outlet (lineOutlet c) = (s.outlet (lineOutlet c)).lineReset (s.circuit c).state := by
  obtain ⟨w₁, w₂, w₃, first, second, third, last⟩ := trafficCleared_stages s
  let view := fun w : State => (w.circuit c, w.outlet (lineOutlet c))
  have circuits : view w₁ = ((s.circuit c).trafficReset,
      (s.outlet (lineOutlet c)).lineReset (s.circuit c).state) :=
    first ▸ forEach_at (f := resetCircuit) view (fun p => (p.1.trafficReset, p.2.lineReset p.1.state)) (resetCircuit_view c)
      (fun b w other => resetCircuit_apart other w) allCircuits_nodup (List.mem_finRange c) (trafficEmptied s)
  have terminals : view w₂ = view w₁ := second ▸ forEach_same (f := resetTerminal) view (fun t v => by
    unfold view resetTerminal
    simp [lineOutlet_ne_terminalOutlet]) _ _
  have controls : view w₃ = view w₂ := third ▸ forEach_same (f := resetControl) view (fun _ _ => rfl) _ _
  rw [last]
  exact Prod.mk.inj ((controls.trans terminals).trans circuits)

theorem trafficCleared_terminal (s : State) (t : Fin 8) :
    (trafficCleared s).port t = (s.port t).trafficReset
      ∧ (trafficCleared s).outlet (terminalOutlet t)
        = (s.outlet (terminalOutlet t)).terminalReset (s.port t) := by
  obtain ⟨w₁, w₂, w₃, first, second, third, last⟩ := trafficCleared_stages s
  let view := fun w : State => (w.port t, w.outlet (terminalOutlet t))
  let act := fun p : Port × Outlet => (p.1.trafficReset, p.2.terminalReset p.1)
  have circuits : view w₁ = (s.port t, s.outlet (terminalOutlet t)) :=
    first ▸ forEach_same (f := resetCircuit) view (fun c v => by
      unfold view resetCircuit
      simp [(lineOutlet_ne_terminalOutlet c t).symm]) _ (trafficEmptied s)
  have terminals : view w₂ = act (view w₁) :=
    second ▸ forEach_at (f := resetTerminal) view act (resetTerminal_view t)
      (fun b w other => resetTerminal_apart other w) allTerminals_nodup (List.mem_finRange t) w₁
  have controls : view w₃ = view w₂ := third ▸ forEach_same (f := resetControl) view (fun _ _ => rfl) _ _
  rw [last]
  exact Prod.mk.inj (controls.trans (terminals.trans (congrArg act circuits)))

theorem trafficCleared_control (s : State) (c : Fin 16) :
    (trafficCleared s).control c = (s.control c).trafficReset := by
  obtain ⟨w₁, w₂, w₃, first, second, third, last⟩ := trafficCleared_stages s
  let view := fun w : State => w.control c
  have circuits : view w₁ = s.control c := first ▸ forEach_same (f := resetCircuit) view (fun _ _ => rfl) _ (trafficEmptied s)
  have terminals : view w₂ = view w₁ := second ▸ forEach_same (f := resetTerminal) view (fun _ _ => rfl) _ _
  have controls : view w₃ = (view w₂).trafficReset :=
    third ▸ forEach_at (f := resetControl) view (fun x => x.trafficReset) (fun w => State.control_modControl_self ..)
      (fun b w other => (State.control_modControl ..).trans (if_neg other.symm)) allCircuits_nodup
      (List.mem_finRange c) w₂
  rw [last]
  exact controls.trans (congrArg _ (terminals.trans circuits))

theorem trafficCleared_parsers (s : State) : (trafficCleared s).parsers = Vector.replicate 8 {} := by
  obtain ⟨w₁, w₂, w₃, first, second, third, last⟩ := trafficCleared_stages s
  rw [last]
  refine vector_ext fun t => ?_
  let view := fun w : State => w.parser t
  have terminals : view w₂ = {} :=
    second ▸ forEach_at (f := resetTerminal) view (fun _ => {}) (fun w => State.parser_modParser_self ..)
      (fun b w other => (State.parser_modParser ..).trans (if_neg other.symm)) allTerminals_nodup
      (List.mem_finRange t) w₁
  have controls : view w₃ = view w₂ := third ▸ forEach_same (f := resetControl) view (fun _ _ => rfl) _ _
  exact (controls.trans terminals).trans (Vector.getElem_replicate t.isLt).symm

/-- What a traffic reset keeps, and what it makes of the tables (R177). -/
theorem trafficCleared_rest (s : State) : trafficCleared s = { s with
    circuits := (trafficCleared s).circuits, ports := (trafficCleared s).ports
    outlets := (trafficCleared s).outlets, controls := (trafficCleared s).controls
    stories := Vector.replicate 48 {}, openOrder := [], framers := Vector.replicate 24 {}
    parsers := Vector.replicate 8 {}
    notices := { s.notices with flags := 0#11, interrupt := .low }
    regs := { s.regs with resetCause := .traffic, snapshot := [], draft := none } } := by
  obtain ⟨w, last, kept⟩ := resets_keep (s := s) (fun w => (w.pages, w.framers, w.stories, w.openOrder,
    w.nextNumber, w.desks, w.notices, w.regs, w.pending)) (fun _ _ => rfl) (fun _ _ => rfl) (fun _ _ => rfl)
  have parsers := trafficCleared_parsers s
  have low : s.notices.withFlags 0#11 = { s.notices with flags := 0#11, interrupt := .low } := by
    unfold Notices.withFlags interruptLevel
    rw [if_pos (BitVec.zero_and ..)]
  simp only [trafficEmptied, Prod.mk.injEq, low] at kept
  obtain ⟨pages, framers, stories, order, next, desks, notices, regs, pending⟩ := kept
  rw [last] at parsers ⊢
  cases w
  subst pages framers stories order next desks notices pending regs parsers
  rfl

end Loops

/-! ## The outlets after a reset -/

/-- An outlet that names no story, owes nothing and has no unit has no work (R114). -/
theorem hasWork_bare {o : Fin 24} (bare : (s.outlet o).bare) (unit : (s.outlet o).unit = none)
    (answerback : (s.outlet o).answerbackOwed = false) (reply : s.replyOf o = none) :
    s.hasWork o = false := by
  obtain ⟨waiting, holder, owed⟩ := bare
  unfold State.hasWork State.holderWorks State.granted State.winner State.first
  simp [waiting, holder, owed, unit, answerback, reply]

/-- A line outlet at traffic reset is calm. -/
theorem calmOn_lineReset {c : Fin 16} {x : Outlet} {st : CircuitState}
    (line : s.outlet (lineOutlet c) = x.lineReset st) : s.CalmOn (lineOutlet c) := by
  rw [Outlet.lineReset_eq] at line
  have state : (s.outlet (lineOutlet c)).state = if st = .closed then .off else .idle := by rw [line]
  unfold State.CalmOn
  by_cases off : st = .closed
  · simp only [state, if_pos off]
  · simp only [state, if_neg off]
    exact hasWork_bare (by rw [line]; exact ⟨rfl, rfl, rfl⟩) (by rw [line]) (by rw [line])
      (by unfold State.replyOf; simp)

/-- A terminal outlet at traffic reset, with its port, is calm. -/
theorem calmOn_terminalReset {t : Fin 8} {x : Outlet} {p : Port} (port : s.port t = p.trafficReset)
    (terminal : s.outlet (terminalOutlet t) = x.terminalReset p) : s.CalmOn (terminalOutlet t) := by
  rw [Outlet.terminalReset_eq] at terminal
  rw [Port.trafficReset_eq] at port
  have state : (s.outlet (terminalOutlet t)).state =
      if p.enabled then (if p.readyIn = .high then .idle else .paused) else .off := by rw [terminal]
  have unit : (s.outlet (terminalOutlet t)).unit = none := by rw [terminal]
  unfold State.CalmOn
  by_cases enabled : p.enabled = true
  · rw [if_pos enabled] at port state
    cases ready : p.readyIn with
    | high =>
      simp only [state, ready, if_true]
      refine hasWork_bare (by rw [terminal]; exact ⟨rfl, rfl, rfl⟩) unit (by rw [terminal]) ?_
      unfold State.replyOf
      simp [port]
    | low =>
      simp only [state, ready, reduceCtorEq, if_false]
      refine ⟨?_, by unfold State.unitOver; rw [unit]; rfl⟩
      unfold State.pauseCause
      simp [port, ready]
  · simp only [state, if_neg enabled]

/-- Nothing stirs where the traffic was reset (R139). -/
theorem trafficCleared_still (s : State) (o : Fin 24) : (trafficCleared s).stirs o = false := by
  rcases outlet_cases o with ⟨c, rfl⟩ | ⟨t, rfl⟩
  · have line := (trafficCleared_line s c).2
    generalize trafficCleared s = u at line ⊢
    exact (stirs_eq_false_iff u _).2 (calmOn_lineReset line)
  · obtain ⟨port, terminal⟩ := trafficCleared_terminal s t
    generalize trafficCleared s = u at port terminal ⊢
    exact (stirs_eq_false_iff u _).2 (calmOn_terminalReset port terminal)

/-- Settling where no outlet stirs raises no flag. -/
theorem settle_notices_of_still (still : ∀ o, s.stirs o = false) : (settle s).notices = s.notices := by
  have shown := (Shown.settle s).rest
  rw [reactAll_calm fun o => (stirs_eq_false_iff s o).1 (still o)] at shown
  rw [shown]

/-- Settles O32: each record is reset by itself, and no outlet stirs afterwards. -/
theorem trafficResetClearsTrafficAndKeepsConfiguration :
    Obligations.TrafficResetClearsTrafficAndKeepsConfiguration := by
  intro s
  have ignored (v : Word) (clear : v.getLsbD 0 = false) : exec (.controlWrite v) s = .next s := by
    have write : exec (.controlWrite v) s = .next (writeControl v s) := rfl
    rw [write, writeControl, clear]
    rfl
  have taken (v : Word) (set : v.getLsbD 0 = true) :
      exec (.controlWrite v) s = .next (settle (trafficCleared s)) := by
    have write : exec (.controlWrite v) s = .next (writeControl v s) := rfl
    rw [write, writeControl, set, trafficReset_eq]
    rfl
  have notices := settle_notices_of_still (trafficCleared_still s)
  refine ⟨ignored, trafficCleared s, taken, rfl, notices,
    trafficCleared_rest s, fun c => ?_, fun p => ?_, fun c => ?_, fun p => ?_, fun c => ?_⟩
  · rw [(trafficCleared_line s c).1, Circuit.trafficReset_eq]
  · rw [(trafficCleared_terminal s p).1, Port.trafficReset_eq]
  · rw [(trafficCleared_line s c).2, Outlet.lineReset_eq]
  · rw [(trafficCleared_terminal s p).2, Outlet.terminalReset_eq]
  · rw [trafficCleared_control]
    rfl

end Sys2Proof.Machine

/-! PROOF. Cuts, holds, releases, priorities, adds and drops (R82, R90, R91, R95, R109 to R111). -/

namespace Sys2Proof.Machine

variable {s t u : State}

/-! ## A command on a story -/

theorem onStory_none {n : Nat} {f : Fin 48 → State → State}
    (absent : s.findNumber (s.arg 0).toNat = none) : onStory n f s = s.refuse n .noSuchStory := by
  unfold onStory State.argStory
  rw [absent]

theorem onStory_some {n : Nat} {f : Fin 48 → State → State} {k : Fin 48}
    (found : s.findNumber (s.arg 0).toNat = some k) : onStory n f s = f k s := by
  unfold onStory State.argStory
  rw [found]

/-! ## One entry cut -/

/-- A story with its entry for an outlet cut (R82). -/
def Story.cutOff (x : Story) (o : Fin 24) (why : CutReason) : Story :=
  { x with
    changed := true
    entries := x.entries.map (fun e => if e.outlet = o then e.cut x.taken why else e) }

/-- An outlet that a story's cut entry leaves, with the item the cut owes (R82). -/
def Outlet.cutOff (y : Outlet) (k : Fin 48) (why : CutReason) : Outlet :=
  { y with
    waiting := y.waiting.filter (fun j => j ≠ k)
    holder := if y.holder = some k then none else y.holder
    owed := match why.item with
      | some kind => if y.state.takesItems then addItem ⟨kind, k⟩ y.owed else y.owed
      | none => y.owed }

/-- What the cut of a live entry writes. -/
def cutState (k : Fin 48) (o : Fin 24) (why : CutReason) (s : State) : State :=
  { s with
    stories := s.stories.set k ((s.story k).cutOff o why)
    outlets := s.outlets.set o ((s.outlet o).cutOff k why)
    notices := if why.flagged then (s.raise .destCut).notices else s.notices }

theorem oweCut_modOutlet_leave (k : Fin 48) (o : Fin 24) (why : CutReason) (s : State) :
    oweCut o k why (s.modOutlet o (fun x => x.leave k)) = s.modOutlet o (fun x => x.cutOff k why) := by
  unfold oweCut Outlet.cutOff oweItem
  cases item : why.item with
  | none => rfl
  | some kind =>
    have same : ((s.modOutlet o (fun x => x.leave k)).outlet o).state = (s.outlet o).state := by
      rw [State.outlet_modOutlet_self]
      rfl
    simp only [same]
    split_ifs with takes
    · rw [State.modOutlet_modOutlet, State.modOutlet_eq rfl, State.modOutlet_eq rfl]
      simp only [if_pos takes]
      rfl
    · rw [State.modOutlet_eq rfl, State.modOutlet_eq rfl]
      simp only [if_neg takes]
      rfl

theorem cutRecord_live {k : Fin 48} {o : Fin 24} {why : CutReason} (live : (s.story k).liveOn o = true) :
    cutRecord k o why s = cutState k o why s := by
  unfold cutRecord
  dsimp only
  rw [if_pos live, oweCut_modOutlet_leave]
  unfold cutState State.raiseIf
  cases why.flagged <;> rfl

theorem cutRecord_dead {k : Fin 48} {o : Fin 24} {why : CutReason} (dead : (s.story k).liveOn o = false) :
    cutRecord k o why s = s := if_neg (by simp [dead])

theorem cutEntry_of_live {k : Fin 48} {o : Fin 24} {why : CutReason} (live : (s.story k).liveOn o = true) :
    cutEntry k o why s = afterCut k o (cutState k o why s) := by
  unfold cutEntry
  rw [if_pos live, cutRecord_live live]

theorem cutEntry_of_dead {k : Fin 48} {o : Fin 24} {why : CutReason} (dead : (s.story k).liveOn o = false) :
    cutEntry k o why s = s := if_neg (by simp [dead])

/-! ## Hold and release -/

theorem Entry.hold_eq (e : Entry) : e.hold = match e.state with
    | .carrying => { e with holdMark := true }
    | .waiting | .suspended _ => { e with state := .suspended .held }
    | .done | .cut _ => e := by
  obtain ⟨_, state⟩ := e
  unfold Entry.hold
  cases state with
  | suspended why => cases why <;> rfl
  | carrying | waiting | done | cut => rfl

theorem Entry.release_eq (e : Entry) : e.release =
    if e.state = .carrying then { e with holdMark := false }
    else if e.state = .suspended .held then
      { e with
        state := .waiting
        owed := if e.owed = .none ∨ e.owed = .resume then .resume else e.owed }
    else e := by
  unfold Entry.release
  cases state : e.state with
  | suspended why =>
    cases why with
    | held => cases owed : e.owed <;> simp
    | preempted => simp
  | carrying | waiting | done | cut => simp

theorem holdStory_eq (k : Fin 48) (by_ : Holder) (s : State) : holdStory k by_ s = { s with
    stories := s.stories.set k { s.story k with
      state := .held, heldBy := some by_, idleTimer := none, blockedSince := none,
      blockTimer := none, changed := true,
      entries := (s.story k).entries.map (fun e =>
        match e.state with
        | .carrying => { e with holdMark := true }
        | .waiting | .suspended _ => { e with state := .suspended .held }
        | .done | .cut _ => e) }
    framers := s.framers.set (s.story k).source.index { framerOf (s.story k).source s with
      outstanding := none
      withdrawn := (framerOf (s.story k).source s).withdrawn
        || (framerOf (s.story k).source s).outstanding.isSome } } := by
  unfold holdStory
  rw [funext Entry.hold_eq]
  rfl

/-- A story released, before its framer's withdrawn write is claimed again (R91). -/
def Story.released (x : Story) : Story :=
  { x with
    state := .running, heldBy := none, idleTimer := some 0, changed := true,
    entries := x.entries.map (fun e =>
      if e.state = .carrying then { e with holdMark := false }
      else if e.state = .suspended .held then
        { e with
          state := .waiting
          owed := if e.owed = .none ∨ e.owed = .resume then .resume else e.owed }
      else e) }

theorem releaseStory_eq (k : Fin 48) (s : State) : releaseStory k s = reclaimWrite (s.story k).source
    { s with stories := s.stories.set k (s.story k).released } := by
  unfold releaseStory
  rw [funext Entry.release_eq]
  rfl

theorem reclaimWrite_withdrawn {src : Source} {p : Fin 8} (source : src = .terminal p)
    (withdrawn : (framerOf src s).withdrawn = true) :
    reclaimWrite src s = takeHead p (modFramerOf src (fun f => { f with withdrawn := false }) s) := by
  subst source
  exact if_pos withdrawn

theorem reclaimWrite_none {src : Source}
    (none : ∀ p, src = .terminal p → (framerOf src s).withdrawn = false) : reclaimWrite src s = s := by
  cases src with
  | circuit c => rfl
  | terminal p => exact if_neg (by simp [none p rfl])

theorem exec_storyHold : exec .storyHold s = .next (storyHold s) := rfl

theorem exec_storyRelease : exec .storyRelease s = .next (storyRelease s) := rfl

/-- Settles O34: the host's checks in order, and what a hold and a release write. -/
theorem storyHoldAndReleaseMoveATerminalStory : Obligations.StoryHoldAndReleaseMoveATerminalStory := by
  intro s
  refine ⟨fun absent => ?absent, fun k found => ?checks, fun k => ?writes⟩
  case absent =>
    rw [exec_storyHold, exec_storyRelease, storyHold, storyRelease, onStory_none absent, onStory_none absent]
    exact ⟨rfl, rfl⟩
  case checks =>
    have hold : exec .storyHold s = .next (if (s.story k).source.isTerminal = false then
        s.refuse 3 .notTerminalSource else if (s.story k).state ≠ .running then s.refuse 3 .badState
        else (holdStory k .host s).done 3) := by
      rw [exec_storyHold, storyHold, onStory_some found]
    have release : exec .storyRelease s = .next (if (s.story k).state ≠ .held then s.refuse 4 .badState
        else (releaseStory k s).done 4) := by
      rw [exec_storyRelease, storyRelease, onStory_some found]
    refine ⟨fun c source => ?_, fun p source => ⟨fun other => ?_, fun running => ?_⟩, fun other => ?_,
      fun held => ?_⟩
    · rw [hold, if_pos (by rw [source]; rfl)]
    · rw [hold, if_neg (by rw [source]; exact Bool.noConfusion), if_pos other]
    · rw [hold, if_neg (by rw [source]; exact Bool.noConfusion), if_neg (not_not.2 running)]
      rfl
    · rw [release, if_pos other]
    · rw [release, if_neg (not_not.2 held)]
      rfl
  case writes =>
    refine ⟨fun by_ => holdStory_eq k by_ s, fun u eq => ?_⟩
    have released : releaseStory k s = reclaimWrite (s.story k).source u := by
      rw [eq]
      exact releaseStory_eq k s
    have framer : ∀ src, framerOf src u = framerOf src s := fun src => by rw [eq]; rfl
    refine ⟨fun p source withdrawn => ?_, fun none => ?_⟩
    · rw [released, reclaimWrite_withdrawn source ((congrArg _ (framer _)).trans withdrawn)]
      exact congrArg (takeHead p) (State.modFramer_eq
        (congrArg (fun f : Framer => { f with withdrawn := false }) (framer _)))
    · rw [released, reclaimWrite_none fun p source => ?_]
      rw [framer]
      exact none p source

/-! ## Priority -/

theorem exec_storyPriority : exec .storyPriority s = .next (storyPriority s) := rfl

theorem hasPriority_iff (st : StoryState) :
    st.hasPriority = true ↔ st = .running ∨ st = .held ∨ st = .closing := by
  cases st <;> simp [StoryState.hasPriority]

/-- Settles O35: the argument is judged before the story and its state. -/
theorem storyPriorityReplacesThePriority : Obligations.StoryPriorityReplacesThePriority := by
  intro s
  rw [exec_storyPriority]
  refine ⟨fun beyond => ?_, fun p rank => ?_⟩
  · have none : named priorities (s.arg 1).toNat = none := List.getElem?_eq_none (by exact beyond)
    rw [storyPriority, none]
  · have named : named priorities (s.arg 1).toNat = some p := by
      rw [← rank]
      cases p <;> rfl
    have command : storyPriority s = onStory 5 (fun k t =>
        if (t.story k).state.hasPriority then (setPriority k p t).done 5 else t.refuse 5 .badState) s := by
      rw [storyPriority, named]
    rw [command]
    refine ⟨fun absent => by rw [onStory_none absent], fun k found => ?_⟩
    rw [onStory_some found]
    refine ⟨fun shut => ?_, fun opened => ?_⟩
    · rw [if_neg fun has => shut ((hasPriority_iff _).1 has)]
    · rw [if_pos ((hasPriority_iff _).2 opened)]
      rfl

/-! ## Add and drop -/

theorem exec_storyAddOutlet : exec .storyAddOutlet s = .next (storyAddOutlet s) := rfl

theorem exec_storyDropOutlet : exec .storyDropOutlet s = .next (storyDropOutlet s) := rfl

theorem joinable_iff (st : StoryState) :
    st.joinable = true ↔ st = .running ∨ st = .held ∨ st = .closing := by
  cases st <;> simp [StoryState.joinable]

theorem entryOn_isSome_iff (x : Story) (o : Fin 24) :
    (x.entryOn o).isSome = true ↔ ∃ e ∈ x.entries, e.outlet = o := by
  unfold Story.entryOn
  simp [List.find?_isSome]

theorem takesItems_iff (st : OutletState) : st.takesItems = true ↔ st ≠ .off ∧ st ≠ .stalled := by
  cases st <;> simp [OutletState.takesItems]

theorem available_iff (s : State) (o : Fin 24) : s.available o = true ↔
    (s.outlet o).state ≠ .off ∧ (s.outlet o).state ≠ .stalled
      ∧ (∀ c, o = lineOutlet c → (s.circuit c).state = .opened)
      ∧ ∀ p, o = terminalOutlet p → (s.port p).enabled = true := by
  unfold State.available
  rw [Bool.and_eq_true, takesItems_iff, and_assoc]
  refine and_congr_right fun _ => and_congr_right fun _ => ?_
  rcases outlet_cases o with ⟨c, rfl⟩ | ⟨p, rfl⟩
  · simp [lineOutlet_inj, lineOutlet_ne_terminalOutlet]
  · simp [terminalOutlet_inj, (lineOutlet_ne_terminalOutlet _ _).symm]

theorem fastEnough_iff (s : State) (src : Source) (o : Fin 24) : s.fastEnough src o = true ↔
    ∀ c d, src = .circuit c → o = lineOutlet d → (s.circuit d).config.n ≤ (s.circuit c).config.n := by
  unfold State.fastEnough
  rcases outlet_cases o with ⟨d, rfl⟩ | ⟨p, rfl⟩
  · cases src <;> simp [lineOutlet_inj]
  · cases src <;> simp [(lineOutlet_ne_terminalOutlet _ _).symm]

theorem addCheck_eq (k : Fin 48) (o : Fin 24) (s : State) : addCheck k o s =
    if ¬((s.story k).state = .running ∨ (s.story k).state = .held ∨ (s.story k).state = .closing) then .badState
    else if ∃ e ∈ (s.story k).entries, e.outlet = o then .duplicate
    else if s.available o = false then .outletUnavailable
    else if s.fastEnough (s.story k).source o = false then .slowPath
    else .ok := by
  unfold addCheck
  simp only [← joinable_iff, ← entryOn_isSome_iff, Bool.not_eq_true]

theorem addOutlet_eq (k : Fin 48) (o : Fin 24) (s : State) : addOutlet k o s = { s with
    stories := s.stories.set k { s.story k with
      changed := true
      entries := (s.story k).entries.filter (fun e => e.outlet.val < o.val)
        ++ [{ outlet := o
              state := if (s.story k).state = .held then .suspended .held else .waiting
              start := (s.story k).taken, read := (s.story k).taken, owed := .joined }]
        ++ (s.story k).entries.filter (fun e => o.val < e.outlet.val) }
    outlets := s.outlets.set o { s.outlet o with waiting := (s.outlet o).waiting ++ [k] } } := rfl

/-- Settles O36: the checks in order, the entry placed, the entry cut. -/
theorem storyAddAndDropOutletMoveOneEntry : Obligations.StoryAddAndDropOutletMoveOneEntry := by
  intro s
  refine ⟨fun beyond => ?beyond, fun o names => ⟨fun absent => ?absent, fun k found => ?_⟩, fun k o =>
    ⟨addOutlet_eq k o s, cutEntry_of_dead, cutEntry_of_live⟩⟩
  case beyond =>
    rw [exec_storyAddOutlet, exec_storyDropOutlet, storyAddOutlet, storyDropOutlet,
      show outletOf (s.arg 1).toNat = none from dif_neg (by omega)]
    exact ⟨rfl, rfl⟩
  all_goals
    have outlet : outletOf (s.arg 1).toNat = some o := outletOf_eq_some.2 names.symm
    rw [exec_storyAddOutlet, exec_storyDropOutlet, storyAddOutlet, storyDropOutlet, outlet]
    dsimp only
  case absent =>
    rw [onStory_none absent, onStory_none absent]
    exact ⟨rfl, rfl⟩
  rw [onStory_some found, onStory_some found]
  have check := addCheck_eq k o s
  have isAvailable := available_iff s o
  have isFast := fastEnough_iff s (s.story k).source o
  refine ⟨fun shut => ?_, fun opened dup => ?_, fun opened new away => ?_, fun opened new here late => ?_,
    fun opened new here fast => ?_, fun dead => ?_, fun live => ?_⟩
  · rw [if_pos shut] at check
    simp [check]
  · rw [if_neg (not_not.2 opened), if_pos dup] at check
    simp [check]
  · rw [if_neg (not_not.2 opened), if_neg new, if_pos (Bool.eq_false_iff.2 fun here => away (isAvailable.1 here))] at check
    simp [check]
  · rw [if_neg (not_not.2 opened), if_neg new, if_neg (by simpa using isAvailable.2 here),
      if_pos (Bool.eq_false_iff.2 fun fast => by
        obtain ⟨c, d, source, here, late⟩ := late
        exact Nat.not_lt.2 (isFast.1 fast c d source here) late)] at check
    simp [check]
  · rw [if_neg (not_not.2 opened), if_neg new, if_neg (by simpa using isAvailable.2 here),
      if_neg (by simpa using isFast.2 fun c d source here => Nat.not_lt.1 fun late => fast ⟨c, d, source, here, late⟩)] at check
    rw [if_pos check]
    rfl
  · rw [if_neg (by simpa using dead)]
  · rw [if_pos live]
    rfl

end Sys2Proof.Machine

/-! PROOF. Circuits opened, and surveys (R2, R11, R20 to R24, R35, R115). -/

namespace Sys2Proof.Machine

variable {s t u : State}

/-! ## CIRCUIT_OPEN -/

theorem exec_circuitOpen : exec .circuitOpen s = .next (circuitOpen s) := rfl

/-- Settles O37: the checks in order, and the records an opening writes. -/
theorem circuitOpenPutsTheCircuitInService : Obligations.CircuitOpenPutsTheCircuitInService := by
  intro s
  rw [exec_circuitOpen]
  refine ⟨fun beyond => ?_, fun c names => ?_⟩
  · rw [circuitOpen, circuitOf_eq_none beyond]
  · have command : circuitOpen s = if (s.circuit c).config.valid = false then s.refuse 15 .badArgument
        else if (s.circuit c).state ≠ .closed ∨ (s.circuit c).survey = true then s.refuse 15 .badState
        else (openCircuit c s).done 15 := by
      rw [circuitOpen, circuitOf_eq_some.2 names]
    rw [command]
    refine ⟨fun invalid => ?_, fun valid busy => ?_, fun valid closed free => ?_⟩
    · rw [if_pos invalid]
    · rw [if_neg (by simp [valid]), if_pos busy]
    · rw [if_neg (by simp [valid]), if_neg (by simp [closed, free])]
      rfl

/-! ## The judgement of a survey -/

theorem betterClass_misfit {cfg : CircuitConfig} {p k : Nat} {best : Option Nat}
    (misfit : classMatches (cfg.nOfClass k) p = false) : betterClass cfg p best k = best :=
  if_neg (by simp [misfit])

theorem betterClass_first {cfg : CircuitConfig} {p k : Nat} (fit : classMatches (cfg.nOfClass k) p = true) :
    betterClass cfg p none k = some k := if_pos fit

theorem betterClass_rival {cfg : CircuitConfig} {p k b : Nat} (fit : classMatches (cfg.nOfClass k) p = true) :
    betterClass cfg p (some b) k =
      if distance p (cfg.nOfClass k) * cfg.nOfClass b < distance p (cfg.nOfClass b) * cfg.nOfClass k
      then some k else some b := if_pos fit

/-- The class a list of classes yields is one of them that matches, or the one found before. -/
theorem betterClasses_mem (cfg : CircuitConfig) (p : Nat) (l : List Nat) (best : Option Nat) {b : Nat}
    (found : l.foldl (betterClass cfg p) best = some b) :
    best = some b ∨ (b ∈ l ∧ classMatches (cfg.nOfClass b) p = true) := by
  induction l generalizing best with
  | nil => exact .inl found
  | cons k l ih =>
    rcases ih _ found with step | ⟨mem, fit⟩
    · cases fit : classMatches (cfg.nOfClass k) p with
      | false =>
        rw [betterClass_misfit fit] at step
        exact .inl step
      | true =>
        have fromHere (same : b = k) :
            best = some b ∨ (b ∈ k :: l ∧ classMatches (cfg.nOfClass b) p = true) :=
          .inr ⟨same ▸ List.mem_cons_self, same ▸ fit⟩
        cases best with
        | none =>
          rw [betterClass_first fit] at step
          exact fromHere (Option.some.inj step).symm
        | some a =>
          rw [betterClass_rival fit] at step
          split_ifs at step
          · exact fromHere (Option.some.inj step).symm
          · exact .inl step
    · exact .inr ⟨List.mem_cons_of_mem _ mem, fit⟩

/-- A class that no other match betters, and none before it equals, is the one found (R22). -/
theorem betterClasses_best {cfg : CircuitConfig} {p k : Nat} {l r : List Nat}
    (fit : classMatches (cfg.nOfClass k) p = true)
    (before : ∀ j ∈ l, classMatches (cfg.nOfClass j) p = true →
      distance p (cfg.nOfClass k) * cfg.nOfClass j < distance p (cfg.nOfClass j) * cfg.nOfClass k)
    (after : ∀ j ∈ r, classMatches (cfg.nOfClass j) p = true →
      distance p (cfg.nOfClass k) * cfg.nOfClass j ≤ distance p (cfg.nOfClass j) * cfg.nOfClass k) :
    (l ++ k :: r).foldl (betterClass cfg p) none = some k := by
  have stays : ∀ r : List Nat, (∀ j ∈ r, classMatches (cfg.nOfClass j) p = true →
      distance p (cfg.nOfClass k) * cfg.nOfClass j ≤ distance p (cfg.nOfClass j) * cfg.nOfClass k) →
      r.foldl (betterClass cfg p) (some k) = some k := by
    intro r after
    induction r with
    | nil => rfl
    | cons j r ih =>
      have rest := ih fun i mem => after i (List.mem_cons_of_mem _ mem)
      rw [List.foldl_cons]
      cases rival : classMatches (cfg.nOfClass j) p with
      | false => rw [betterClass_misfit rival, rest]
      | true =>
        rw [betterClass_rival rival, if_neg (Nat.not_lt.2 (after j List.mem_cons_self rival)), rest]
  have taken : betterClass cfg p (l.foldl (betterClass cfg p) none) k = some k := by
    cases best : l.foldl (betterClass cfg p) none with
    | none => exact betterClass_first fit
    | some b =>
      rcases betterClasses_mem cfg p l none best with absurd_ | ⟨mem, rival⟩
      · cases absurd_
      · rw [betterClass_rival fit, if_pos (before b mem rival)]
  rw [List.foldl_append, List.foldl_cons, taken, stays r after]

theorem nOfClass_eq (cfg : CircuitConfig) {k : Nat} (least : 1 ≤ k) (most : k ≤ 7) :
    cfg.nOfClass k = if k = 7 then cfg.programmedN
      else ([27036, 24576, 21596, 16561, 16384, 12288] : List Nat).getD (k - 1) 0 := by
  interval_cases k <;> rfl

theorem classMatches_iff (n p : Nat) : classMatches n p = true ↔ 100 * ((p - n) + (n - p)) ≤ 6 * n :=
  decide_eq_true_iff

/-- The classes before a class and after it. -/
theorem classes_split {k : Nat} (least : 1 ≤ k) (most : k ≤ 7) : ∃ l r : List Nat,
    [1, 2, 3, 4, 5, 6, 7] = l ++ k :: r ∧ (∀ j ∈ l, 1 ≤ j ∧ j < k) ∧ ∀ j ∈ r, k < j ∧ j ≤ 7 := by
  refine ⟨(List.range 7).take (k - 1) |>.map (· + 1), (List.range 7).drop k |>.map (· + 1), ?_⟩
  interval_cases k <;> decide

theorem judgeSurvey_noSignal {cfg : CircuitConfig} {r : SurveyRecord} (few : r.edges < 8) :
    judgeSurvey cfg r = .noSignal := if_pos few

theorem judgeSurvey_noMatch {cfg : CircuitConfig} {r : SurveyRecord} (enough : 8 ≤ r.edges)
    (none : ∀ k, 1 ≤ k → k ≤ 7 →
      classMatches (cfg.nOfClass k) (min r.shortestMark r.shortestSpace) = false) :
    judgeSurvey cfg r = .noMatch := by
  unfold judgeSurvey
  rw [if_neg (Nat.not_lt.2 enough)]
  cases found : [1, 2, 3, 4, 5, 6, 7].foldl (betterClass cfg (min r.shortestMark r.shortestSpace)) Option.none with
  | none => rfl
  | some b =>
    rcases betterClasses_mem cfg _ _ _ found with absurd_ | ⟨mem, fit⟩
    · cases absurd_
    · have range : ∀ j ∈ [1, 2, 3, 4, 5, 6, 7], 1 ≤ j ∧ j ≤ 7 := by decide
      rw [none b (range b mem).1 (range b mem).2] at fit
      cases fit

theorem judgeSurvey_class {cfg : CircuitConfig} {r : SurveyRecord} {k : Nat} (enough : 8 ≤ r.edges)
    (least : 1 ≤ k) (most : k ≤ 7)
    (fit : classMatches (cfg.nOfClass k) (min r.shortestMark r.shortestSpace) = true)
    (beats : ∀ j, 1 ≤ j → j ≤ 7 → classMatches (cfg.nOfClass j) (min r.shortestMark r.shortestSpace) = true →
      let p := min r.shortestMark r.shortestSpace
      distance p (cfg.nOfClass k) * cfg.nOfClass j < distance p (cfg.nOfClass j) * cfg.nOfClass k
        ∨ (distance p (cfg.nOfClass k) * cfg.nOfClass j = distance p (cfg.nOfClass j) * cfg.nOfClass k
          ∧ k ≤ j)) :
    judgeSurvey cfg r = .speedClass k := by
  obtain ⟨a, b, split, before, after⟩ := classes_split least most
  unfold judgeSurvey
  rw [if_neg (Nat.not_lt.2 enough), split, betterClasses_best fit]
  · intro j mem rival
    obtain ⟨first, less⟩ := before j mem
    rcases beats j first (by omega) rival with strict | ⟨_, above⟩
    · exact strict
    · omega
  · intro j mem rival
    obtain ⟨more, last⟩ := after j mem
    rcases beats j (by omega) last rival with strict | ⟨equal, _⟩
    · exact Nat.le_of_lt strict
    · exact Nat.le_of_eq equal

/-! ## The end of a survey -/

/-- A circuit record back from a survey with a record of it (R22, R24). -/
def Circuit.backFrom (x : Circuit) (r : SurveyRecord) : Circuit :=
  { x with
    survey := false, surveyRec := r
    rxPhase := if x.state = .opened then .hunting else x.rxPhase
    rxPlane := if x.state = .opened then .letters else x.rxPlane
    lossTimer := if x.state = .opened then none else x.lossTimer
    edges := if x.state = .opened then [] else x.edges
    allSpace := if x.state = .opened then false else x.allSpace
    afterStop := if x.state = .opened then false else x.afterStop }

theorem Circuit.endSurvey_eq (x : Circuit) (y : SurveyResult) :
    x.endSurvey y = x.backFrom { x.surveyRec with result := some y } := by
  unfold Circuit.endSurvey Circuit.backFrom
  cases x.state <;> simp [Circuit.hunt]

/-- The part after a survey of a circuit, its record as given (R22). -/
def State.surveyOver (s : State) (c : Fin 16) (y : Circuit) : State :=
  { s with circuits := s.circuits.set c y, notices := (s.raise .surveyDone).notices }

theorem modCircuit_surveyDone {c : Fin 16} {f : Circuit → Circuit} {y : Circuit} (eq : f (s.circuit c) = y) :
    (s.modCircuit c f).raise .surveyDone = s.surveyOver c y := by
  subst eq
  rfl

theorem cancelSurvey_eq (c : Fin 16) (s : State) : cancelSurvey c s = s.surveyOver c
    ((s.circuit c).backFrom { (s.circuit c).surveyRec with result := some .cancelled }) :=
  modCircuit_surveyDone (Circuit.endSurvey_eq _ _)

theorem adoptClass_pending {c : Fin 16} {k : Nat} {q : CircuitConfig}
    (pending : (s.circuit c).pendingConfig = some q) : adoptClass c k s = s.modCircuit c (fun x =>
      { x with surveyRec := { x.surveyRec with adopted := true }
               pendingConfig := some { q with speedClass := k } }) := by
  unfold adoptClass
  simp only [State.circuit_modCircuit_self, pending]
  exact State.modCircuit_modCircuit _ _ _ _

theorem adoptClass_quiet {c : Fin 16} {k : Nat} (pending : (s.circuit c).pendingConfig = none)
    (quiet : s.AtQuietPoint c) : adoptClass c k s = s.modCircuit c (fun x =>
      ({ x with surveyRec := { x.surveyRec with adopted := true } } : Circuit).apply
        { (s.circuit c).config with speedClass := k }) := by
  unfold adoptClass
  have still : (s.modCircuit c (fun x =>
      { x with surveyRec := { x.surveyRec with adopted := true } })).quiet c = true :=
    (quiet_iff s c).2 quiet
  simp only [State.circuit_modCircuit_self, pending, still, if_true]
  exact State.modCircuit_modCircuit _ _ _ _

theorem adoptClass_busy {c : Fin 16} {k : Nat} (pending : (s.circuit c).pendingConfig = none)
    (busy : ¬s.AtQuietPoint c) : adoptClass c k s = s.modCircuit c (fun x =>
      { x with surveyRec := { x.surveyRec with adopted := true }
               pendingConfig := some { (s.circuit c).config with speedClass := k } }) := by
  unfold adoptClass
  have still : ¬(s.modCircuit c (fun x =>
      { x with surveyRec := { x.surveyRec with adopted := true } })).quiet c = true :=
    fun quiet => busy ((quiet_iff s c).1 quiet)
  simp only [State.circuit_modCircuit_self, pending, if_neg still]
  exact State.modCircuit_modCircuit _ _ _ _

/-- The result a finished survey leaves, and what adopts it (R22, R23). -/
theorem finishSurvey_kept {c : Fin 16} {y : SurveyResult}
    (judged : judgeSurvey (s.circuit c).config (s.circuit c).surveyRec = y)
    (kept : (s.circuit c).surveyRec.adopt = false ∨ ∀ k, y ≠ .speedClass k) : finishSurvey c s =
      s.surveyOver c ((s.circuit c).backFrom { (s.circuit c).surveyRec with result := some y }) := by
  unfold finishSurvey
  rw [judged]
  have same : adoptResult c y (s.modCircuit c (fun x => x.endSurvey y)) = s.modCircuit c (fun x => x.endSurvey y) := by
    cases y with
    | speedClass k =>
      rcases kept with off | never
      · refine if_neg ?_
        rw [State.circuit_modCircuit_self, Circuit.endSurvey_eq]
        simpa [Circuit.backFrom] using off
      · exact absurd rfl (never k)
    | noSignal | noMatch | cancelled => rfl
  exact (congrArg (fun w => State.raise w .surveyDone) same).trans
    (modCircuit_surveyDone (Circuit.endSurvey_eq _ _))

theorem finishSurvey_adopts {c : Fin 16} {k : Nat}
    (judged : judgeSurvey (s.circuit c).config (s.circuit c).surveyRec = .speedClass k)
    (adopt : (s.circuit c).surveyRec.adopt = true) : finishSurvey c s =
      (adoptClass c k (s.modCircuit c (fun x => x.endSurvey (.speedClass k)))).raise .surveyDone := by
  unfold finishSurvey
  rw [judged]
  refine congrArg (fun w => State.raise w .surveyDone) (if_pos ?_)
  rw [State.circuit_modCircuit_self, Circuit.endSurvey_eq]
  exact adopt

/-- An adopted class goes into the pending configuration, or becomes one, or is applied (R23). -/
theorem finishSurvey_adopted {c : Fin 16} {k : Nat}
    (judged : judgeSurvey (s.circuit c).config (s.circuit c).surveyRec = .speedClass k)
    (adopt : (s.circuit c).surveyRec.adopt = true) :
    let z := (s.circuit c).backFrom
      { (s.circuit c).surveyRec with result := some (.speedClass k), adopted := true }
    (∀ q, (s.circuit c).pendingConfig = some q →
      finishSurvey c s = s.surveyOver c { z with pendingConfig := some { q with speedClass := k } })
    ∧ ((s.circuit c).pendingConfig = none → s.AtQuietPoint c →
      finishSurvey c s = s.surveyOver c (z.configured { (s.circuit c).config with speedClass := k }))
    ∧ ((s.circuit c).pendingConfig = none → ¬s.AtQuietPoint c →
      finishSurvey c s = s.surveyOver c
        { z with pendingConfig := some { (s.circuit c).config with speedClass := k } }) := by
  intro z
  have ended (w : State) (here : w = s.modCircuit c (fun x => x.endSurvey (.speedClass k))) :
      (w.circuit c) = (s.circuit c).backFrom { (s.circuit c).surveyRec with result := some (.speedClass k) } := by
    rw [here, State.circuit_modCircuit_self, Circuit.endSurvey_eq]
  rw [finishSurvey_adopts judged adopt]
  refine ⟨fun q pending => ?_, fun pending quiet => ?_, fun pending busy => ?_⟩
  · have held : ((s.modCircuit c (fun x => x.endSurvey (.speedClass k))).circuit c).pendingConfig = some q := by
      rw [ended _ rfl]
      exact pending
    rw [adoptClass_pending held, State.modCircuit_modCircuit]
    refine modCircuit_surveyDone ?_
    rw [Circuit.endSurvey_eq]
    rfl
  · have none : ((s.modCircuit c (fun x => x.endSurvey (.speedClass k))).circuit c).pendingConfig = none := by
      rw [ended _ rfl]
      exact pending
    rw [adoptClass_quiet none quiet, State.modCircuit_modCircuit]
    refine modCircuit_surveyDone ?_
    rw [ended _ rfl, apply_eq_configured, Circuit.endSurvey_eq]
    rfl
  · have none : ((s.modCircuit c (fun x => x.endSurvey (.speedClass k))).circuit c).pendingConfig = none := by
      rw [ended _ rfl]
      exact pending
    rw [adoptClass_busy none busy, State.modCircuit_modCircuit]
    refine modCircuit_surveyDone ?_
    rw [ended _ rfl, Circuit.endSurvey_eq]
    rfl

/-! ## The commands on surveys -/

theorem exec_surveyStart : exec .surveyStart s = .next (surveyStart s) := rfl

theorem exec_surveyStop : exec .surveyStop s = .next (onSurvey 18 finishSurvey s) := rfl

theorem exec_surveyCancel : exec .surveyCancel s = .next (onSurvey 19 cancelSurvey s) := rfl

theorem exec_surveyGateExpiry {c : Fin 16} :
    exec (.surveyGateExpiry c) s = .next (gateExpires c s) := rfl

theorem onSurvey_outside {n : Nat} {f : Fin 16 → State → State} (beyond : 16 ≤ (s.arg 0).toNat) :
    onSurvey n f s = s.refuse n .badArgument := by
  unfold onSurvey
  rw [circuitOf_eq_none beyond]

theorem onSurvey_idle {n : Nat} {f : Fin 16 → State → State} {c : Fin 16}
    (names : (s.arg 0).toNat = c.val) (idle : (s.circuit c).survey = false) :
    onSurvey n f s = s.refuse n .badState := by
  unfold onSurvey
  rw [circuitOf_eq_some.2 names]
  exact if_neg (by simp [idle])

theorem onSurvey_running {n : Nat} {f : Fin 16 → State → State} {c : Fin 16}
    (names : (s.arg 0).toNat = c.val) (running : (s.circuit c).survey = true) :
    onSurvey n f s = (f c s).done n := by
  unfold onSurvey
  rw [circuitOf_eq_some.2 names]
  exact if_pos running

theorem sourceLive_iff (s : State) (src : Source) : s.sourceLive src = true ↔
    ∃ k, (s.story k).source = src ∧ (s.story k).state.live = true := by
  unfold State.sourceLive
  simp [List.any_eq_true, allSlots]

theorem surveyStart_outside (beyond : 16 ≤ (s.arg 0).toNat ∨ 4 ≤ (s.arg 1).toNat) :
    surveyStart s = s.refuse 17 .badArgument := by
  unfold surveyStart
  rcases beyond with circuit | gate
  · rw [circuitOf_eq_none circuit]
  · rw [show named gates (s.arg 1).toNat = none from List.getElem?_eq_none (by exact gate)]
    cases circuitOf (s.arg 0).toNat <;> rfl

theorem surveyStart_some {c : Fin 16} {g : SurveyGate} (names : (s.arg 0).toNat = c.val)
    (gate : gates[(s.arg 1).toNat]? = some g) : surveyStart s =
      if (s.circuit c).state = .lost ∨ (s.circuit c).survey then s.refuse 17 .badState
      else if s.sourceLive (.circuit c) then s.refuse 17 .circuitBusy
      else (resetFramer (.circuit c)
        (s.modCircuit c (fun x => x.startSurvey g (markOf (s.arg 2).toNat)))).done 17 := by
  unfold surveyStart
  rw [circuitOf_eq_some.2 names, show named gates (s.arg 1).toNat = some g from gate]

theorem Circuit.startSurvey_eq (x : Circuit) (g : SurveyGate) (adopt : Bool) (hears : x.state ≠ .lost) :
    x.startSurvey g adopt = { x with
      survey := true
      surveyRec := { gate := g, adopt := adopt, elapsed := 0, edges := 0,
                     shortestMark := 65535, shortestSpace := 65535, result := none, adopted := false }
      rxPhase := if x.state = .opened then .idle else x.rxPhase
      lossTimer := if x.state = .opened then none else x.lossTimer
      edges := if x.state = .opened then [] else x.edges
      allSpace := if x.state = .opened then false else x.allSpace
      afterStop := if x.state = .opened then false else x.afterStop } := by
  unfold Circuit.startSurvey
  cases state : x.state with
  | lost => exact absurd state hears
  | opened | closed => simp

theorem gateDue_iff (x : Circuit) : x.gateDue = true ↔
    x.survey = true ∧ ∃ g, x.surveyRec.gate.seconds = some g ∧ g ≤ x.surveyRec.elapsed := by
  unfold Circuit.gateDue
  simp [Option.any_eq_true]

/-- Settles O40: the judgement picks the class nothing matching betters, and the checks come in order. -/
theorem surveysBeginAndEndWithAResult : Obligations.SurveysBeginAndEndWithAResult := by
  intro s n
  rw [exec_surveyStart, exec_surveyStop, exec_surveyCancel]
  refine ⟨fun beyond => by rw [surveyStart_outside beyond], fun beyond => ?_, fun c => ?_⟩
  · rw [onSurvey_outside beyond, onSurvey_outside beyond]
    exact ⟨rfl, rfl⟩
  intro x r live p unit off fits beats judged back end_ ended gateDue
  have units (k : Nat) (least : 1 ≤ k) (most : k ≤ 7) : x.config.nOfClass k = unit k :=
    nOfClass_eq x.config least most
  have matches_ (k : Nat) (least : 1 ≤ k) (most : k ≤ 7) :
      classMatches (x.config.nOfClass k) p = true ↔ fits k := by
    rw [classMatches_iff, units k least most]
    exact ⟨fun fit => ⟨least, most, fit⟩, fun fit => fit.2.2⟩
  have verdict : judged (judgeSurvey x.config r) := by
    refine ⟨judgeSurvey_noSignal, fun enough none => ?_, fun enough k fit wins => ?_⟩
    · exact judgeSurvey_noMatch enough fun k least most =>
        Bool.eq_false_iff.2 fun fit => none k ((matches_ k least most).1 fit)
    · obtain ⟨least, most, _⟩ := id fit
      refine judgeSurvey_class enough least most ((matches_ k least most).2 fit) fun j first last rival => ?_
      rw [units k least most, units j first last]
      exact wins j ((matches_ j first last).1 rival)
  have finished : ended (finishSurvey c s) := by
    refine ⟨judgeSurvey x.config r, verdict, finishSurvey_kept rfl, fun k found adopt => ?_⟩
    rw [found]
    exact finishSurvey_adopted found adopt
  refine ⟨fun least most => units _ least most, fun names g gate => ⟨fun busy => ?_, fun hears free busy => ?_,
    fun hears free idle => ?_⟩, fun names idle => ?_, fun names running => ⟨⟨_, ?_, finished⟩, ?_⟩,
    fun due => ⟨_, ?_, finished⟩, fun early => ?_⟩
  · rw [surveyStart_some names gate, if_pos busy]
  · rw [surveyStart_some names gate, if_neg (not_or.2 ⟨hears, by simpa using free⟩),
      if_pos ((sourceLive_iff s _).2 busy)]
  · refine ⟨markOf (s.arg 2).toNat, fun zero => by rw [zero]; rfl, fun one => by rw [one]; rfl, ?_⟩
    rw [surveyStart_some names gate, if_neg (not_or.2 ⟨hears, by simpa using free⟩),
      if_neg fun busy => idle ((sourceLive_iff s _).1 busy),
      State.modCircuit_eq (Circuit.startSurvey_eq (s.circuit c) g _ hears)]
    rfl
  · rw [onSurvey_idle names idle, onSurvey_idle names idle]
    exact ⟨rfl, rfl⟩
  · rw [onSurvey_running names running]
    rfl
  · rw [onSurvey_running names running, cancelSurvey_eq]
    rfl
  · rw [exec_surveyGateExpiry]
    exact congrArg _ (if_pos ((gateDue_iff x).2 due))
  · rw [exec_surveyGateExpiry]
    exact congrArg _ (if_neg fun due => early ((gateDue_iff x).1 due))

end Sys2Proof.Machine

/-! PROOF. Control units, and the second (R141 to R152, R176). -/

namespace Sys2Proof.Machine

variable {s t u : State}

/-! ## COUNTER_ACTION -/

theorem counterActionAs_beyond {a : CounterAction} (beyond : 8 ≤ loByte (s.arg 0)) :
    counterActionAs a s = s.refuse 20 .badArgument := by
  have none : named actions (loByte (s.arg 0)) = none := List.getElem?_eq_none (by exact beyond)
  unfold counterActionAs counterAction
  rw [none]
  cases circuitOf (hiByte (s.arg 0)) <;> rfl

theorem counterActionAs_apart {a : CounterAction} (below : loByte (s.arg 0) < 8)
    (other : actions[loByte (s.arg 0)]? ≠ some a) : counterActionAs a s = s := by
  unfold counterActionAs
  cases here : named actions (loByte (s.arg 0)) with
  | none => exact absurd (List.getElem?_eq_none_iff.1 here) (Nat.not_le.2 below)
  | some b => exact if_neg fun (same : b = a) => other (same ▸ here)

theorem counterActionAs_here {a : CounterAction} (here : actions[loByte (s.arg 0)]? = some a) :
    counterActionAs a s = counterAction s := by
  have found : named actions (loByte (s.arg 0)) = some a := here
  unfold counterActionAs
  simp only [found, if_true]

theorem counterAction_outside (outside : 16 ≤ hiByte (s.arg 0)) :
    counterAction s = s.refuse 20 .badArgument := by
  unfold counterAction
  rw [circuitOf_eq_none outside]

theorem counterAction_release {c : Fin 16} (names : hiByte (s.arg 0) = c.val)
    (here : actions[loByte (s.arg 0)]? = some .release) : counterAction s = releaseCounter c s := by
  have found : named actions (loByte (s.arg 0)) = some .release := here
  unfold counterAction
  simp only [circuitOf_eq_some.2 names, found]

theorem counterAction_force {c : Fin 16} (names : hiByte (s.arg 0) = c.val)
    (here : actions[loByte (s.arg 0)]? = some .forceIdle) : counterAction s = forceCounter c s := by
  have found : named actions (loByte (s.arg 0)) = some .forceIdle := here
  unfold counterAction
  simp only [circuitOf_eq_some.2 names, found]

theorem counterAction_start {c : Fin 16} {a : CounterAction} (names : hiByte (s.arg 0) = c.val)
    (here : actions[loByte (s.arg 0)]? = some a) (release : a ≠ .release) (force : a ≠ .forceIdle) :
    counterAction s = startCounter c a s := by
  have found : named actions (loByte (s.arg 0)) = some a := here
  unfold counterAction
  rw [circuitOf_eq_some.2 names, found]
  cases a with
  | release => exact absurd rfl release
  | forceIdle => exact absurd rfl force
  | idle | once | repeated | delayedOnce | delayedRepeat | hold => rfl

theorem counterSettingsOf_valid {args : Vector Word 8} {x : CounterSettings}
    (read : counterSettingsOf args = some x) : x.valid = true := by
  unfold counterSettingsOf at read
  simp only [Option.bind_eq_bind, Option.bind_eq_some_iff] at read
  obtain ⟨_, _, _, _, _, _, rest⟩ := read
  split_ifs at rest with _ valid
  exact Option.some.inj rest ▸ valid

theorem startCounter_bad {c : Fin 16} {a : CounterAction} (bad : counterSettingsOf s.regs.args = none) :
    startCounter c a s = s.refuse 20 .badArgument := by
  unfold startCounter
  rw [bad]

theorem startCounter_some {c : Fin 16} {a : CounterAction} {x : CounterSettings}
    (read : counterSettingsOf s.regs.args = some x) : startCounter c a s =
      if (s.control c).phase ≠ .idle then s.refuse 20 .badState
      else if a ≠ .idle ∧ (s.circuit c).state = .closed then s.refuse 20 .badState
      else (s.modControl c (fun y => y.start x a)).done 20 := by
  unfold startCounter
  rw [read]

theorem modControl_done {c : Fin 16} {f : Control → Control} {z : Control} (n : Nat)
    (eq : f (s.control c) = z) :
    (s.modControl c f).done n = (settle { s with controls := s.controls.set c z }).answer n .ok := by
  rw [State.modControl_eq eq]
  rfl

/-! ## OUTPUT_SET -/

theorem exec_outputSet : exec .outputSet s = .next (outputSet s) := rfl

theorem outputSet_bad (bad : 16 ≤ (s.arg 0).toNat ∨ 2 ≤ (s.arg 1).toNat ∨ selectorOf s.regs.args = none) :
    outputSet s = s.refuse 21 .badArgument := by
  unfold outputSet
  cases circuit : circuitOf (s.arg 0).toNat with
  | none => rfl
  | some c =>
    cases selector : selectorOf s.regs.args with
    | none => rfl
    | some x =>
      refine if_neg ?_
      have inside := c.isLt
      rw [← circuitOf_eq_some.1 circuit] at inside
      rw [selector] at bad
      rcases bad with beyond | output | absent
      · omega
      · omega
      · cases absent

theorem outputSet_some {c : Fin 16} {x : Selector} (names : (s.arg 0).toNat = c.val)
    (selector : selectorOf s.regs.args = some x) (output : (s.arg 1).toNat ≤ 1) :
    outputSet s = (s.modControl c (fun y => writeSelector (s.arg 1).toNat x y)).done 21 := by
  unfold outputSet
  rw [circuitOf_eq_some.2 names, selector]
  exact if_pos output

/-- Settles O44: one row per action, its checks in order. -/
theorem counterActionsAndSelectorsAreTaken : Obligations.CounterActionsAndSelectorsAreTaken := by
  intro s
  refine ⟨fun p mem => ?actions, fun bad => ?bad, fun c x names selector => ⟨fun zero => ?_, fun one => ?_⟩⟩
  case bad => rw [exec_outputSet, outputSet_bad bad]
  case actions =>
    have row : exec p.1 s = .next (counterActionAs p.2 s) := by
      revert p
      simp only [List.forall_mem_cons]
      exact ⟨rfl, rfl, rfl, rfl, rfl, rfl, rfl, rfl, nofun⟩
    obtain ⟨i, a⟩ := p
    refine ⟨fun beyond => ?_, fun below other => ?_, fun here outside => ?_, fun here c names => ?_⟩
    · rw [row, counterActionAs_beyond beyond]
    · rw [row, counterActionAs_apart below other]
    · rw [row, counterActionAs_here here, counterAction_outside outside]
    · have command : exec i s = .next (counterAction s) := row.trans (congrArg _ (counterActionAs_here here))
      refine ⟨fun release moving => ?_, fun release holding => ?_, fun force => ?_, fun release force =>
        ⟨fun bad => ?_, fun x read => ?_⟩⟩
      · rw [command, counterAction_release names (release ▸ here)]
        exact congrArg _ (if_neg moving)
      · show exec i s = _
        rw [command, counterAction_release names (release ▸ here)]
        exact congrArg _ ((if_pos holding).trans (modControl_done 20 rfl))
      · show exec i s = _
        rw [command, counterAction_force names (force ▸ here)]
        exact congrArg _ (modControl_done 20 rfl)
      · rw [command, counterAction_start names here release force, startCounter_bad bad]
      · change a ≠ .release at release
        change a ≠ .forceIdle at force
        have start := command.trans (congrArg _ ((counterAction_start names here release force).trans
          (startCounter_some read)))
        have begun (idle : (s.control c).phase = .idle) (free : ¬(a ≠ .idle ∧ (s.circuit c).state = .closed))
            {z : Control} (eq : (s.control c).start x a = z) : exec i s = .next
              ((settle { s with controls := s.controls.set c z }).answer 20 .ok) := by
          rw [start, if_neg (not_not.2 idle), if_neg free, modControl_done 20 eq]
        refine ⟨counterSettingsOf_valid read, fun moving => ?_, fun idle other closed => ?_, fun idle (here : a = .idle) =>
          begun idle (fun both => both.1 here) (by rw [here]; rfl), fun idle opened =>
          ⟨fun (either : a = .once ∨ a = .repeated) => ?_, fun (once : a = .delayedOnce) => ?_,
            fun (repeat_ : a = .delayedRepeat) => ?_, fun (hold : a = .hold) => ?_⟩⟩
        · rw [start, if_pos moving]
        · rw [start, if_neg (not_not.2 idle), if_pos ⟨other, closed⟩]
        all_goals refine begun idle (fun both => opened both.2) ?_
        · rcases either with rfl | rfl <;> rfl
        · subst once
          rfl
        · subst repeat_
          by_cases none : x.delay = 0
          · rw [if_pos none]
            exact if_pos none
          · rw [if_neg none]
            exact if_neg none
        · subst hold
          rfl
  · rw [exec_outputSet, outputSet_some names selector (by omega), zero]
    rfl
  · rw [exec_outputSet, outputSet_some names selector (by omega), one]
    rfl

/-! ## Toggle positions -/

theorem mem_risingFrom (l : List Nat) (p n : Nat) : n ∈ risingFrom p l ↔
    ∃ a b, l = a ++ n :: b ∧ (p :: (a ++ [n])).Pairwise (· < ·) := by
  induction l generalizing p with
  | nil => simp [risingFrom]
  | cons m l ih =>
    unfold risingFrom
    constructor
    · intro mem
      split_ifs at mem with rises
      · rcases List.mem_cons.1 mem with rfl | mem
        · exact ⟨[], l, rfl, by simpa using rises⟩
        · obtain ⟨a, b, rfl, sorted⟩ := (ih m).1 mem
          refine ⟨m :: a, b, rfl, List.pairwise_cons.2 ⟨fun x inside => ?_, sorted⟩⟩
          rcases List.mem_cons.1 inside with rfl | inside
          · exact rises
          · exact Nat.lt_trans rises ((List.pairwise_cons.1 sorted).1 x inside)
      · cases mem
    · rintro ⟨a, b, split, sorted⟩
      cases a with
      | nil =>
        obtain ⟨rfl, rfl⟩ := List.cons.inj split
        rw [if_pos (by simpa using sorted)]
        exact List.mem_cons_self
      | cons x a =>
        obtain ⟨rfl, rest⟩ := List.cons.inj split
        obtain ⟨above, sorted⟩ := List.pairwise_cons.1 sorted
        rw [if_pos (above m List.mem_cons_self)]
        exact List.mem_cons_of_mem _ ((ih m).2 ⟨a, b, rest, sorted⟩)

theorem mem_togglesInEffect (l : List Nat) (n : Nat) : n ∈ togglesInEffect l ↔
    ∃ a b, l = a ++ n :: b ∧ (a ++ [n]).Pairwise (· < ·) := by
  cases l with
  | nil => simp [togglesInEffect]
  | cons m l =>
    unfold togglesInEffect
    constructor
    · intro mem
      rcases List.mem_cons.1 mem with rfl | mem
      · exact ⟨[], l, rfl, List.pairwise_singleton ..⟩
      · obtain ⟨a, b, rfl, sorted⟩ := (mem_risingFrom l m n).1 mem
        exact ⟨m :: a, b, rfl, sorted⟩
    · rintro ⟨a, b, split, sorted⟩
      cases a with
      | nil =>
        obtain ⟨rfl, _⟩ := List.cons.inj split
        exact List.mem_cons_self
      | cons x a =>
        obtain ⟨rfl, rest⟩ := List.cons.inj split
        exact List.mem_cons_of_mem _ ((mem_risingFrom l m n).2 ⟨a, b, rest, sorted⟩)

/-! ## Character times -/

theorem Control.motorTick_eq (y : Control) : y.motorTick = match y.motor with
    | .off | .running => y
    | .starting => { y with
        motorCount := y.motorCount + 1
        motor := if y.motorTarget ≤ y.motorCount + 1 then .running else .starting }
    | .runOn => if y.motorTarget ≤ y.motorCount + 1
        then { y with motor := .off, motorCount := 0, motorTarget := 0 }
        else { y with motorCount := y.motorCount + 1 } := by
  unfold Control.motorTick
  cases motor : y.motor with
  | off | running | runOn => rfl
  | starting =>
    by_cases complete : y.motorTarget ≤ y.motorCount + 1
    · simp only [if_pos complete]
      rfl
    · simp only [if_neg complete, ← motor]

/-- What follows a completed count (R146). -/
theorem Control.afterCount_eq (y : Control) : y.afterCount = match y.action with
    | .repeated => y.enterCounting
    | .delayedRepeat => if y.settings.skip = true ∨ y.settings.delay = 0 then y.enterCounting
        else { y with phase := .delay, value := 0, wave := y.settings.startLevel }
    | .idle | .once | .delayedOnce | .hold | .release | .forceIdle =>
        { y with phase := .idle, value := 0, wave := y.settings.startLevel } := by
  unfold Control.afterCount Control.enterDelay
  obtain ⟨_, _, _, _, _, _, _, _, settings, action, _, _, _, _⟩ := y
  cases action with
  | delayedRepeat =>
    by_cases skip : settings.skip = true
    · simp only [if_pos skip, if_pos (Or.inl skip)]
    · by_cases none : settings.delay = 0
      · simp only [if_neg skip, if_pos none, if_pos (Or.inr none)]
      · simp only [if_neg skip, if_neg none, if_neg (not_or.2 ⟨skip, none⟩)]
  | repeated | idle | once | delayedOnce | hold | release | forceIdle => rfl

theorem fillOwed_eq (owed off : Bool) (use : CounterUse) :
    (owed || (decide (use = CounterUse.fill) && !off)) = if use = .fill ∧ off = false then true else owed := by
  cases owed <;> cases off <;> cases use <;> rfl

theorem Control.endCount_eq (y : Control) (off : Bool) : y.endCount off =
    Control.afterCount { y with
      firstPass := false
      fillOwed := if y.settings.use = .fill ∧ off = false then true else y.fillOwed } := by
  unfold Control.endCount
  rw [fillOwed_eq]

theorem exec_characterTimeCompleted (c : Fin 16) (which : Counted) :
    exec (.characterTimeCompleted c which) s = .next (characterTime c which s) := rfl

theorem exec_motorLeadComplete (c : Fin 16) : exec (.motorLeadComplete c) s =
    .next (if (s.control c).motorDue .starting then characterTime c .motor s else s) := rfl

theorem exec_runOnComplete (c : Fin 16) : exec (.runOnComplete c) s =
    .next (if (s.control c).motorDue .runOn then characterTime c .motor s else s) := rfl

theorem exec_delayComplete (c : Fin 16) : exec (.delayComplete c) s =
    .next (if (s.control c).delayDue then characterTime c .counter s else s) := rfl

theorem exec_countComplete (c : Fin 16) : exec (.countComplete c) s =
    .next (if (s.control c).countDue then characterTime c .counter s else s) := rfl

theorem exec_counterToggle (c : Fin 16) : exec (.counterToggle c) s =
    .next (if (s.control c).toggleDue then characterTime c .counter s else s) := rfl

theorem characterTime_motor {c : Fin 16} {y : Control} (eq : (s.control c).motorTick = y) :
    characterTime c .motor s = settle { s with controls := s.controls.set c y } :=
  congrArg settle (State.modControl_eq eq)

theorem characterTime_counter {c : Fin 16} {y : Control}
    (eq : (s.control c).countTick (s.outletOffOf c) = y) :
    characterTime c .counter s = settle { s with controls := s.controls.set c y } :=
  congrArg settle (State.modControl_eq (f := fun x => x.countTick (s.outletOffOf c)) eq)

theorem characterTime_both {c : Fin 16} {y : Control}
    (eq : ((s.control c).motorTick).countTick (s.outletOffOf c) = y) :
    characterTime c .both s = settle { s with controls := s.controls.set c y } :=
  congrArg settle ((State.modControl_modControl s c Control.motorTick
    (fun x => x.countTick (s.outletOffOf c))).trans (State.modControl_eq eq))

/-- Settles O45: each row is the character time of what it names, where it makes the completion named. -/
theorem characterTimesDriveMotorAndCounter : Obligations.CharacterTimesDriveMotorAndCounter := by
  refine ⟨mem_togglesInEffect, fun s c => ?_⟩
  intro x toggled begin_ motored onward counted after
  have motor (y : Control) : y.motorTick = motored y := Control.motorTick_eq y
  have off : (s.outletOffOf c = false) ↔ (s.outlet (lineOutlet c)).state ≠ .off := decide_eq_false_iff_not
  have count (y : Control) : y.countTick (s.outletOffOf c) = counted y := by
    unfold Control.countTick counted
    cases y.phase with
    | idle | holding | delay => rfl
    | counting =>
      simp only [Control.endCount_eq, Control.afterCount_eq, off]
      rfl
  have byMotor : after (.characterTimeCompleted c .motor) (motored x) := by
    unfold after
    rw [exec_characterTimeCompleted, characterTime_motor (motor x)]
  have byCounter : after (.characterTimeCompleted c .counter) (counted x) := by
    unfold after
    rw [exec_characterTimeCompleted, characterTime_counter (count x)]
  have byBoth : after (.characterTimeCompleted c .both) (counted (motored x)) := by
    unfold after
    rw [exec_characterTimeCompleted, characterTime_both (by rw [motor, count])]
  have completes {due : Bool} {i : Instr} {p : Prop} {which : Counted} {y : Control}
      (row : exec i s = .next (if due then characterTime c which s else s)) (whole : due = true ↔ p)
      (time : exec (.characterTimeCompleted c which) s = .next (settle { s with controls := s.controls.set c y })) :
      (p → after i y) ∧ (¬p → exec i s = .next s) :=
    ⟨fun here => (row.trans (congrArg _ (if_pos (whole.2 here)))).trans time,
      fun apart => row.trans (congrArg _ (if_neg fun here => apart (whole.1 here)))⟩
  refine ⟨byMotor, byCounter, byBoth, ?_⟩
  simp only [List.forall_mem_cons]
  have lead := completes (exec_motorLeadComplete c) (p := x.motor = .starting ∧ x.motorTarget ≤ x.motorCount + 1)
    (by simp [Control.motorDue, x]) byMotor
  have runOn := completes (exec_runOnComplete c) (p := x.motor = .runOn ∧ x.motorTarget ≤ x.motorCount + 1)
    (by simp [Control.motorDue, x]) byMotor
  have delay := completes (exec_delayComplete c) (p := x.phase = .delay ∧ x.settings.delay ≤ x.value + 1)
    (by simp [Control.delayDue, x]) byCounter
  have count := completes (exec_countComplete c) (p := x.phase = .counting ∧ x.settings.max ≤ x.value + 1)
    (by simp [Control.countDue, x]) byCounter
  have toggle := completes (exec_counterToggle c) (p := x.phase = .counting ∧ x.value + 1 ∈ x.settings.inEffect)
    (by simp [Control.toggleDue, x]) byCounter
  exact ⟨lead, runOn, delay, count, toggle, fun _ mem => absurd mem List.not_mem_nil⟩

/-! ## The second -/

theorem exec_storyClockAdvance : exec .storyClockAdvance s = .next (secondPasses s) := rfl

theorem allSlots_nodup : allSlots.Nodup := List.nodup_finRange 48

theorem allOutlets_nodup : allOutlets.Nodup := List.nodup_finRange 24

/-- An outlet one second on. -/
def secondOfOutlet (o : Fin 24) (t : State) : State :=
  t.modOutlet o (fun x => { x with stallTimer := tick x.stallTimer })

/-- A circuit one second on. -/
def secondOfCircuit (c : Fin 16) (t : State) : State := t.modCircuit c Circuit.second

/-- A story one second on. -/
def secondOfStory (k : Fin 48) (t : State) : State := t.setStory k (t.story k).second

/-- The stages of a second: the clock, the circuits, the stories, the outlets. -/
theorem secondPasses_stages (s : State) : ∃ w₁ w₂ w₃,
    w₁ = s.modRegs (fun r => { r with clock := nextSecond r.clock })
      ∧ w₂ = forEach allCircuits secondOfCircuit w₁
      ∧ w₃ = forEach allSlots secondOfStory w₂
      ∧ secondPasses s = forEach allOutlets secondOfOutlet w₃ :=
  ⟨_, _, _, rfl, rfl, rfl, rfl⟩

theorem Circuit.second_eq (x : Circuit) : x.second = { x with
    lossTimer := x.lossTimer.map (· + 1), restoreTimer := x.restoreTimer.map (· + 1),
    surveyRec := if x.survey = true ∧ x.surveyRec.elapsed < x.surveyRec.gate.seconds.getD 65535
      then { x.surveyRec with elapsed := x.surveyRec.elapsed + 1 } else x.surveyRec } := by
  unfold Circuit.second SurveyRecord.second satInc tick
  have record : ∀ (b : Bool) (r : SurveyRecord) (most : Nat),
      (if b = true then { r with elapsed := if r.elapsed < most then r.elapsed + 1 else r.elapsed } else r)
        = if b = true ∧ r.elapsed < most then { r with elapsed := r.elapsed + 1 } else r := by
    intro b r most
    by_cases below : r.elapsed < most <;> cases b <;> simp [below]
  exact congrArg (fun r => { x with
    lossTimer := x.lossTimer.map (· + 1), restoreTimer := x.restoreTimer.map (· + 1), surveyRec := r })
    (record x.survey x.surveyRec _)

/-- Settles O53: each record is a second older by itself, and nothing else moves. -/
theorem secondsAdvanceTheClockAndTheTimers : Obligations.SecondsAdvanceTheClockAndTheTimers := by
  intro s older
  obtain ⟨w₁, w₂, w₃, first, second, third, last⟩ := secondPasses_stages s
  refine ⟨_, exec_storyClockAdvance, ?_, fun c => ?_, fun k => ?_, fun o => ?_⟩ <;> rw [last]
  · have kept : ∀ {β : Type} (view : State → β), (∀ o w, view (secondOfOutlet o w) = view w) →
        (∀ k w, view (secondOfStory k w) = view w) → (∀ c w, view (secondOfCircuit c w) = view w) →
        view (forEach allOutlets secondOfOutlet w₃) = view w₁ := fun view a b d =>
      (forEach_same (f := secondOfOutlet) view a _ _).trans
        ((third ▸ forEach_same (f := secondOfStory) view b _ _).trans
          (second ▸ forEach_same (f := secondOfCircuit) view d _ _))
    have same := kept (fun w => (w.pages, w.ports, w.parsers, w.framers, w.openOrder, w.nextNumber, w.desks,
      w.controls, w.notices, w.regs, w.pending)) (fun _ _ => rfl) (fun _ _ => rfl) (fun _ _ => rfl)
    generalize forEach allOutlets secondOfOutlet w₃ = t at same
    rw [first] at same
    simp only [Prod.mk.injEq] at same
    obtain ⟨pages, ports, parsers, framers, order, next, desks, controls, notices, regs, pending⟩ := same
    cases t
    subst pages ports parsers framers order next desks controls notices regs pending
    rfl
  · let view := fun w : State => w.circuit c
    have outlets : view (forEach allOutlets secondOfOutlet w₃) = view w₃ :=
      forEach_same (f := secondOfOutlet) view (fun _ _ => rfl) _ _
    have stories : view w₃ = view w₂ := third ▸ forEach_same (f := secondOfStory) view (fun _ _ => rfl) _ _
    have circuits : view w₂ = (view w₁).second :=
      second ▸ forEach_at (f := secondOfCircuit) view Circuit.second (fun w => State.circuit_modCircuit_self ..)
        (fun b w other => (State.circuit_modCircuit ..).trans (if_neg other.symm)) allCircuits_nodup
        (List.mem_finRange c) w₁
    have clock : view w₁ = s.circuit c := by rw [first]; rfl
    exact (outlets.trans (stories.trans circuits)).trans ((congrArg _ clock).trans (Circuit.second_eq _))
  · let view := fun w : State => w.story k
    have outlets : view (forEach allOutlets secondOfOutlet w₃) = view w₃ :=
      forEach_same (f := secondOfOutlet) view (fun _ _ => rfl) _ _
    have stories : view w₃ = (view w₂).second :=
      third ▸ forEach_at (f := secondOfStory) view Story.second (fun w => State.story_setStory_self ..)
        (fun b w other => (State.story_setStory ..).trans (if_neg other.symm)) allSlots_nodup
        (List.mem_finRange k) w₂
    have circuits : view w₂ = view w₁ := second ▸ forEach_same (f := secondOfCircuit) view (fun _ _ => rfl) _ _
    have clock : view w₁ = s.story k := by rw [first]; rfl
    exact outlets.trans (stories.trans (congrArg _ (circuits.trans clock)))
  · let view := fun w : State => w.outlet o
    have outlets : view (forEach allOutlets secondOfOutlet w₃)
        = { view w₃ with stallTimer := tick (view w₃).stallTimer } :=
      forEach_at (f := secondOfOutlet) view (fun x => { x with stallTimer := tick x.stallTimer })
        (fun w => State.outlet_modOutlet_self ..)
        (fun b w other => (State.outlet_modOutlet ..).trans (if_neg other.symm)) allOutlets_nodup
        (List.mem_finRange o) w₃
    have stories : view w₃ = view w₂ := third ▸ forEach_same (f := secondOfStory) view (fun _ _ => rfl) _ _
    have circuits : view w₂ = view w₁ := second ▸ forEach_same (f := secondOfCircuit) view (fun _ _ => rfl) _ _
    have clock : view w₁ = s.outlet o := by rw [first]; rfl
    exact outlets.trans (congrArg (fun x : Outlet => { x with stallTimer := tick x.stallTimer })
      (stories.trans (circuits.trans clock)))

end Sys2Proof.Machine

/-! PROOF. What a circuit receives and what send sides send (R6, R12 to R21, R35, R44, R48, R53, R148,
R150). -/

namespace Sys2Proof.Machine

variable {s t u : State}

/-! ## Tests of a receiver -/

theorem receives_iff (x : Circuit) : x.receives = true ↔ x.state = .opened ∧ x.survey = false := by
  simp [Circuit.receives]

theorem accepts_iff (x : Circuit) (y : Signal) (held : Nat) :
    x.accepts y held = true ↔ x.config.filterWidth ≤ held ∧ x.reads ≠ y := by
  simp [Circuit.accepts]

theorem edgesFree_iff (x : Circuit) :
    x.edgesFree = true ↔ x.survey = false ∧ x.rxPhase ≠ .inCharacter := by
  simp [Circuit.edgesFree]

theorem Signal.ne_space (y : Signal) : y ≠ .space ↔ y = .mark := by cases y <;> simp

theorem Signal.ne_mark (y : Signal) : y ≠ .mark ↔ y = .space := by cases y <;> simp

/-! ## Edges -/

theorem Circuit.spaceEdge_eq (x : Circuit) : x.spaceEdge = { x with
    rxLine := x.config.polarity.drives .space
    afterStop := false
    rxPhase := if (x.state = .opened ∧ x.survey = false) ∧ x.rxPhase = .hunting then .inCharacter
      else x.rxPhase
    edges := if (x.state = .opened ∧ x.survey = false) ∧ x.rxPhase = .hunting then [] else x.edges
    allSpace := if (x.state = .opened ∧ x.survey = false) ∧ x.rxPhase = .hunting then false else x.allSpace
    restoreTimer := if x.state = .lost ∧ x.rxPhase = .idle then none else x.restoreTimer } := by
  unfold Circuit.spaceEdge Circuit.withInput
  simp only [receives_iff]
  by_cases hunts : (x.state = .opened ∧ x.survey = false) ∧ x.rxPhase = .hunting
  · have apart : ¬(x.state = .lost ∧ x.rxPhase = .idle) := fun both => by simp [hunts.2] at both
    simp only [if_pos hunts, if_neg apart]
  · by_cases stops : x.state = .lost ∧ x.rxPhase = .idle
    · simp only [if_neg hunts, if_pos stops]
    · simp only [if_neg hunts, if_neg stops]

theorem Circuit.markEdge_eq (x : Circuit) : x.markEdge = { x with
    rxLine := x.config.polarity.drives .mark
    afterStop := false
    rxPhase := if x.rxPhase ≠ .farBreak then x.rxPhase
      else if x.state = .lost then .idle else .hunting
    restoreTimer := if x.state = .lost ∧ (x.rxPhase = .farBreak ∨ x.rxPhase = .idle)
      then some 0 else x.restoreTimer
    lossTimer := if x.state ≠ .lost ∧ x.rxPhase = .farBreak then none else x.lossTimer
    allSpace := if x.rxPhase = .hunting then false else x.allSpace
    counts := if x.rxPhase = .hunting ∧ x.allSpace = true
      then { x.counts with framingErrors := inc x.counts.framingErrors } else x.counts } := by
  unfold Circuit.markEdge Circuit.withInput Circuit.breakEnded Circuit.allSpaceOver
  cases phase : x.rxPhase with
  | farBreak => by_cases lost : x.state = .lost <;> simp [lost]
  | hunting => cases x.allSpace <;> simp
  | idle => by_cases lost : x.state = .lost <;> simp [lost]
  | inCharacter => simp

theorem exec_spaceEdge {i : Instr} {c : Fin 16} {held : Nat}
    (mem : i ∈ ([.lineStartEdge c held, .lostSpaceEdge c held] : List Instr)) :
    exec i s = .next (spaceEdge c held s) := by
  revert i
  simp only [List.forall_mem_cons]
  exact ⟨rfl, rfl, fun _ mem => absurd mem List.not_mem_nil⟩

theorem exec_markEdge {i : Instr} {c : Fin 16} {held : Nat}
    (mem : i ∈ ([.allSpaceEnded c held, .farBreakEnds c held, .lostMarkEdge c held] : List Instr)) :
    exec i s = .next (markEdge c held s) := by
  revert i
  simp only [List.forall_mem_cons]
  exact ⟨rfl, rfl, rfl, fun _ mem => absurd mem List.not_mem_nil⟩

theorem exec_lineFalseStart {c : Fin 16} : exec (.lineFalseStart c) s = .next (falseStart c s) := rfl

theorem exec_edgeInsideCharacter {c : Fin 16} {level : Signal} {ticks held : Nat} :
    exec (.edgeInsideCharacter c level ticks held) s = .next (edgeInside c level ticks held s) := rfl

theorem exec_surveyEdge {c : Fin 16} {level : Signal} {pulse held : Nat} :
    exec (.surveyEdge c level pulse held) s = .next (surveyEdge c level pulse held s) := rfl

/-! ## Slips -/

theorem nearest_mem {d : Nat → Nat} (l : List Nat) (b : Nat) :
    l.foldl (fun best k => if d k < d best then k else best) b ∈ b :: l := by
  induction l generalizing b with
  | nil => exact List.mem_cons_self
  | cons a l ih =>
    rw [List.foldl_cons]
    rcases List.mem_cons.1 (ih (if d a < d b then a else b)) with here | later
    · rw [here]
      split_ifs
      · exact List.mem_cons_of_mem _ List.mem_cons_self
      · exact List.mem_cons_self
    · exact List.mem_cons_of_mem _ (List.mem_cons_of_mem _ later)

/-- A choice that nothing later betters stays. -/
theorem nearest_stays {d : Nat → Nat} {k : Nat} {l : List Nat} (least : ∀ j ∈ l, d k ≤ d j) :
    l.foldl (fun best k => if d k < d best then k else best) k = k := by
  induction l with
  | nil => rfl
  | cons a l ih =>
    rw [List.foldl_cons, if_neg (Nat.not_lt.2 (least a List.mem_cons_self))]
    exact ih fun j mem => least j (List.mem_cons_of_mem _ mem)

/-- The first of the nearest boundaries is the one an edge is judged by (R17). -/
theorem nearestBoundary_eq {n ticks k : Nat} (first : 1 ≤ k) (last : k ≤ 6)
    (least : ∀ j, 1 ≤ j → j ≤ 6 → distance ticks (k * n) ≤ distance ticks (j * n))
    (strict : ∀ j, 1 ≤ j → j < k → distance ticks (k * n) < distance ticks (j * n)) :
    nearestBoundary n ticks = k := by
  unfold nearestBoundary
  by_cases one : k = 1
  · subst one
    refine nearest_stays (d := fun k => distance ticks (k * n)) fun j mem => ?_
    have range : ∀ j ∈ [2, 3, 4, 5, 6], 1 ≤ j ∧ j ≤ 6 := by decide
    exact least j (range j mem).1 (range j mem).2
  · obtain ⟨a, r, split, before, after⟩ : ∃ a r : List Nat, [2, 3, 4, 5, 6] = a ++ k :: r
        ∧ (∀ j ∈ a, 1 ≤ j ∧ j < k) ∧ ∀ j ∈ r, 1 ≤ j ∧ j ≤ 6 := by
      refine ⟨((List.range 5).take (k - 2)).map (· + 2), ((List.range 5).drop (k - 1)).map (· + 2), ?_⟩
      interval_cases k
      · exact absurd rfl one
      all_goals decide
    rw [split, List.foldl_append, List.foldl_cons]
    have chosen := nearest_mem (d := fun k => distance ticks (k * n)) a 1
    have below := strict (a.foldl (fun best k => if distance ticks (k * n) < distance ticks (best * n)
      then k else best) 1)
    rw [if_pos]
    · exact nearest_stays (d := fun k => distance ticks (k * n)) fun j mem =>
        least j (after j mem).1 (after j mem).2
    · rcases List.mem_cons.1 chosen with here | mem
      · exact below (by omega) (by omega)
      · exact below (before _ mem).1 (before _ mem).2

/-- What judging an edge inside a character comes to, by its nearest boundary (R17). -/
theorem judgeEdge_eq {n ticks k : Nat} (nearest : nearestBoundary n ticks = k) (inside : ticks ≤ 13 * n / 2) :
    (n / 2 < ticks ∧ ticks + 3 * n / 10 < k * n → judgeEdge n ticks = .early)
      ∧ (n / 2 < ticks ∧ k * n + 3 * n / 10 < ticks → judgeEdge n ticks = .late)
      ∧ (¬(n / 2 < ticks ∧ ticks + 3 * n / 10 < k * n) → ¬(n / 2 < ticks ∧ k * n + 3 * n / 10 < ticks) →
        judgeEdge n ticks = .none) := by
  unfold judgeEdge
  rw [nearest]
  refine ⟨fun early => ?_, fun late => ?_, fun early late => ?_⟩
  · rw [if_neg (by omega), if_pos early.2]
  · rw [if_neg (by omega), if_neg (by omega), if_pos late.2]
  · by_cases after : n / 2 < ticks
    · rw [if_neg (by omega), if_neg fun h => early ⟨after, h⟩, if_neg fun h => late ⟨after, h⟩]
    · rw [if_pos (.inl (Nat.not_lt.1 after))]

theorem judgedEdge_slip {c : Fin 16} {ticks : Nat} {f : Circuit → Circuit} {slip : Slip}
    (judged : judgeEdge (s.circuit c).config.n ticks = slip) (slips : slip ≠ .none) :
    judgedEdge c ticks f s = { s with
      circuits := s.circuits.set c ((f (s.circuit c)).slipped slip)
      notices := if (s.circuit c).slipFlag then s.notices else (s.raise .slip).notices } := by
  unfold judgedEdge State.raiseIf
  rw [judged]
  dsimp only
  rw [decide_eq_true slips]
  cases (s.circuit c).slipFlag <;> rfl

theorem judgedEdge_none {c : Fin 16} {ticks : Nat} {f : Circuit → Circuit}
    (judged : judgeEdge (s.circuit c).config.n ticks = .none) :
    judgedEdge c ticks f s = { s with circuits := s.circuits.set c (f (s.circuit c)) } := by
  unfold judgedEdge State.raiseIf
  rw [judged]
  rfl

theorem judgedEdge_congr {c : Fin 16} {ticks : Nat} {f g : Circuit → Circuit}
    (same : f (s.circuit c) = g (s.circuit c)) : judgedEdge c ticks f s = judgedEdge c ticks g s := by
  unfold judgedEdge
  dsimp only
  rw [State.modCircuit_eq (congrArg (fun x => Circuit.slipped x _) same), State.modCircuit_eq rfl]

/-- What is done with an edge of a character: it is recorded, or it acts as one outside it (R13, R17). -/
def Circuit.edgeTaken (x : Circuit) (level : Signal) (ticks : Nat) : Circuit :=
  if x.rxPhase = .inCharacter then x.recordEdge level ticks else x.lateEdge level

theorem edgeInside_due {c : Fin 16} {level : Signal} {ticks held : Nat}
    (due : (s.circuit c).edgeDue level ticks held = true ∨ (s.circuit c).lateEdgeDue level ticks held = true) :
    edgeInside c level ticks held s
      = judgedEdge c ticks (fun _ => (s.circuit c).edgeTaken level ticks) s := by
  unfold edgeInside
  by_cases inside : (s.circuit c).edgeDue level ticks held = true
  · have phase : (s.circuit c).rxPhase = .inCharacter := by
      simp only [Circuit.edgeDue, Bool.and_eq_true, decide_eq_true_eq] at inside
      exact inside.1.1.1.2
    rw [if_pos inside]
    exact judgedEdge_congr (if_pos phase).symm
  · have overdue := due.resolve_left inside
    have phase : ¬(s.circuit c).rxPhase = .inCharacter := by
      simp only [Circuit.lateEdgeDue, Bool.and_eq_true, decide_eq_true_eq] at overdue
      rw [overdue.1.1.1.1.2]
      nofun
    rw [if_neg inside, if_pos overdue]
    exact judgedEdge_congr (if_neg phase).symm

theorem edgeInside_none {c : Fin 16} {level : Signal} {ticks held : Nat}
    (inside : ¬(s.circuit c).edgeDue level ticks held = true)
    (overdue : ¬(s.circuit c).lateEdgeDue level ticks held = true) : edgeInside c level ticks held s = s := by
  unfold edgeInside
  rw [if_neg inside, if_neg overdue]

theorem edgeDue_iff (x : Circuit) (level : Signal) (ticks held : Nat) :
    x.edgeDue level ticks held = true ↔
      ((x.state = .opened ∧ x.survey = false) ∧ x.rxPhase = .inCharacter)
        ∧ (x.config.filterWidth ≤ held ∧ x.reads ≠ level ∧ ticks ≤ 13 * x.config.n / 2)
        ∧ (∀ e ∈ x.edges, e.ticks < ticks) ∧ ticks + x.config.filterWidth ≤ 13 * x.config.n / 2 := by
  unfold Circuit.edgeDue Circuit.halfUnits
  simp only [Bool.and_eq_true, receives_iff, accepts_iff, decide_eq_true_eq, List.all_eq_true]
  constructor
  · rintro ⟨⟨⟨⟨hears, phase⟩, width, other⟩, edges⟩, inside⟩
    exact ⟨⟨hears, phase⟩, ⟨width, other, by omega⟩, edges, inside⟩
  · rintro ⟨⟨hears, phase⟩, ⟨width, other, _⟩, edges, inside⟩
    exact ⟨⟨⟨⟨hears, phase⟩, width, other⟩, edges⟩, inside⟩

theorem lateEdgeDue_iff (x : Circuit) (level : Signal) (ticks held : Nat) :
    x.lateEdgeDue level ticks held = true ↔
      ((x.state = .opened ∧ x.survey = false) ∧ x.rxPhase = .hunting)
        ∧ (x.config.filterWidth ≤ held ∧ x.reads ≠ level ∧ ticks ≤ 13 * x.config.n / 2)
        ∧ x.afterStop = true ∧ 13 * x.config.n / 2 < ticks + x.config.filterWidth := by
  unfold Circuit.lateEdgeDue Circuit.halfUnits
  simp only [Bool.and_eq_true, receives_iff, accepts_iff, decide_eq_true_eq]
  constructor
  · rintro ⟨⟨⟨⟨⟨hears, phase⟩, stop⟩, width, other⟩, inside⟩, after⟩
    exact ⟨⟨hears, phase⟩, ⟨width, other, inside⟩, stop, after⟩
  · rintro ⟨⟨hears, phase⟩, ⟨width, other, inside⟩, stop, after⟩
    exact ⟨⟨⟨⟨⟨hears, phase⟩, stop⟩, width, other⟩, inside⟩, after⟩

theorem samples_iff (x : Circuit) (start : Signal) : x.samples start = true ↔
    ((x.state = .opened ∧ x.survey = false) ∧ x.rxPhase = .inCharacter) ∧ x.startSample = start := by
  simp only [Circuit.samples, Bool.and_eq_true, receives_iff, decide_eq_true_eq]

theorem startSample_eq (x : Circuit) : x.startSample = x.sampleAt (x.config.n / 2) := by
  unfold Circuit.startSample Circuit.halfUnits
  rw [Nat.one_mul]

theorem SurveyRecord.edge_eq (r : SurveyRecord) (level : Signal) (pulse : Nat) : r.edge level pulse = { r with
    edges := inc r.edges
    shortestMark := if r.edges = 0 ∨ level = .mark then r.shortestMark
      else min r.shortestMark (min pulse 65535)
    shortestSpace := if r.edges = 0 ∨ level = .space then r.shortestSpace
      else min r.shortestSpace (min pulse 65535) } := by
  unfold SurveyRecord.edge SurveyRecord.pulse
  by_cases first : r.edges = 0
  · simp [first]
  · cases level <;> simp [first]

theorem surveyEdge_due {c : Fin 16} {level : Signal} {pulse held : Nat}
    (due : (s.circuit c).survey = true ∧ (s.circuit c).config.filterWidth ≤ held
      ∧ (s.circuit c).reads ≠ level ∧ 0 < pulse) : surveyEdge c level pulse held s =
      s.modCircuit c (fun y => { y.withInput level with surveyRec := y.surveyRec.edge level pulse }) := by
  obtain ⟨survey, width, other, positive⟩ := due
  exact if_pos (by simp [survey, (accepts_iff _ _ _).2 ⟨width, other⟩, positive])

theorem surveyEdge_none {c : Fin 16} {level : Signal} {pulse held : Nat}
    (early : ¬((s.circuit c).survey = true ∧ (s.circuit c).config.filterWidth ≤ held
      ∧ (s.circuit c).reads ≠ level ∧ 0 < pulse)) : surveyEdge c level pulse held s = s := by
  refine if_neg fun due => early ?_
  simp only [Bool.and_eq_true, accepts_iff, decide_eq_true_eq] at due
  exact ⟨due.1.1, due.1.2.1, due.1.2.2, due.2⟩

/-- Settles O41: which edges are due, and the record each writes. -/
theorem lineEdgesMoveTheReceiver : Obligations.LineEdgesMoveTheReceiver := by
  intro s c held x n w now hears receiving hunts free reads set fallen risen
  have sample (moment : Nat) : x.sampleAt moment = reads moment := sampleAt_eq x moment
  have spaceDue : (x.edgesFree && x.accepts .space held) = true ↔ free ∧ now = .mark := by
    rw [Bool.and_eq_true, edgesFree_iff, accepts_iff, Signal.ne_space]
    exact ⟨fun h => ⟨⟨h.1.1, h.1.2, h.2.1⟩, h.2.2⟩, fun h => ⟨⟨h.1.1, h.1.2.1⟩, h.1.2.2, h.2⟩⟩
  have markDue : (x.edgesFree && x.accepts .mark held) = true ↔ free ∧ now = .space := by
    rw [Bool.and_eq_true, edgesFree_iff, accepts_iff, Signal.ne_mark]
    exact ⟨fun h => ⟨⟨h.1.1, h.1.2, h.2.1⟩, h.2.2⟩, fun h => ⟨⟨h.1.1, h.1.2.1⟩, h.1.2.2, h.2⟩⟩
  have falls : x.spaceEdge = fallen := x.spaceEdge_eq
  have rises : x.markEdge = risen := x.markEdge_eq
  refine ⟨rfl, fun i mem => ⟨fun due => ?_, fun early => ?_⟩, fun i mem => ⟨fun due => ?_, fun early => ?_⟩,
    fun here mark => ?_, fun other => ?_, fun level ticks => ?inside, fun level pulse => ?survey⟩
  · rw [exec_spaceEdge mem]
    exact congrArg _ ((if_pos (spaceDue.2 due)).trans (State.modCircuit_eq falls))
  · rw [exec_spaceEdge mem]
    exact congrArg _ (if_neg fun due => early (spaceDue.1 due))
  · rw [exec_markEdge mem]
    exact congrArg _ ((if_pos (markDue.2 due)).trans (congrArg settle (State.modCircuit_eq rises)))
  · rw [exec_markEdge mem]
    exact congrArg _ (if_neg fun due => early (markDue.1 due))
  · rw [exec_lineFalseStart]
    have due : x.samples .mark = true :=
      (samples_iff x .mark).2 ⟨here, by rw [startSample_eq, sample]; exact mark⟩
    exact congrArg _ (if_pos due)
  · rw [exec_lineFalseStart]
    refine congrArg _ (if_neg fun due => ?_)
    obtain ⟨here, mark⟩ := (samples_iff x .mark).1 due
    rw [startSample_eq, sample] at mark
    rcases other with away | space
    · exact away here
    · rw [mark] at space
      cases space
  case inside =>
    intro stop accepted inside overdue moved late early slipped away
    have insideDue : x.edgeDue level ticks held = true ↔ inside := edgeDue_iff x level ticks held
    have overDue : x.lateEdgeDue level ticks held = true ↔ overdue := lateEdgeDue_iff x level ticks held
    have taken : x.edgeTaken level ticks = moved := by
      unfold Circuit.edgeTaken Circuit.lateEdge
      rw [falls, rises]
      rfl
    rw [exec_edgeInsideCharacter]
    refine ⟨fun no no' => by rw [edgeInside_none (mt insideDue.1 no) (mt overDue.1 no')], fun due k first last
      least strict => ?_⟩
    have within : ticks ≤ 13 * n / 2 := by
      rcases due with h | h
      · exact h.2.1.2.2
      · exact h.2.1.2.2
    obtain ⟨toEarly, toLate, toNone⟩ := judgeEdge_eq (nearestBoundary_eq first last least strict) within
    have edge := edgeInside_due (due.imp insideDue.2 overDue.2)
    rw [taken] at edge
    rw [edge]
    refine ⟨fun isEarly => ?_, fun isLate => ?_, fun notEarly notLate => ?_⟩
    · rw [judgedEdge_slip (toEarly isEarly) nofun]
      rfl
    · rw [judgedEdge_slip (toLate isLate) nofun]
      rfl
    · rw [judgedEdge_none (toNone notEarly notLate)]
  case survey =>
    intro r due
    rw [exec_surveyEdge]
    refine ⟨fun early => by rw [surveyEdge_none early], fun due => ?_⟩
    rw [surveyEdge_due due]
    refine congrArg _ (State.modCircuit_eq ?_)
    rw [SurveyRecord.edge_eq]
    rfl

/-! ## Characters received -/

theorem exec_characterReceived {c : Fin 16} {code : Code} {stop : Signal} :
    exec (.characterReceived c code stop) s = .next (stopSample c code stop s) := rfl

theorem codeSampled_iff (x : Circuit) (code : Code) : x.codeSampled = code ↔
    code.toNat = x.unitWorth 0 + x.unitWorth 1 + x.unitWorth 2 + x.unitWorth 3 + x.unitWorth 4 := by
  have bound : ∀ i, x.unitWorth i ≤ 2 ^ i := fun i => by
    unfold Circuit.unitWorth
    split_ifs
    · exact Nat.le_refl _
    · exact Nat.zero_le _
  have small : x.unitWorth 0 + x.unitWorth 1 + x.unitWorth 2 + x.unitWorth 3 + x.unitWorth 4 < 2 ^ 5 := by
    have h0 := bound 0
    have h1 := bound 1
    have h2 := bound 2
    have h3 := bound 3
    have h4 := bound 4
    omega
  unfold Circuit.codeSampled
  constructor
  · rintro rfl
    exact Nat.mod_eq_of_lt small
  · intro same
    rw [← same]
    exact BitVec.ofNat_toNat 5 code ▸ BitVec.setWidth_eq code

theorem stopDue_iff (x : Circuit) (code : Code) (stop : Signal) : x.stopDue code stop = true ↔
    x.state = .opened ∧ x.survey = false ∧ x.rxPhase = .inCharacter
      ∧ x.sampleAt (x.config.n / 2) = .space
      ∧ code.toNat = x.unitWorth 0 + x.unitWorth 1 + x.unitWorth 2 + x.unitWorth 3 + x.unitWorth 4
      ∧ stop = x.sampleAt (13 * x.config.n / 2) := by
  unfold Circuit.stopDue
  simp only [Bool.and_eq_true, samples_iff, startSample_eq, decide_eq_true_eq, codeSampled_iff, and_assoc]
  rw [eq_comm (a := stop)]
  rfl

theorem stopSample_mark {c : Fin 16} {code : Code} (due : (s.circuit c).stopDue code .mark = true) :
    stopSample c code .mark s = settle (goodCode c code s) := if_pos due

theorem stopSample_space {c : Fin 16} {code : Code} (due : (s.circuit c).stopDue code .space = true) :
    stopSample c code .space s = settle (badStop c code s) := if_pos due

/-- A good character handed on: to the framer, to the outlet, and to the plane (R30, R31, R135). -/
theorem goodCode_eq (c : Fin 16) (code : Code) (s : State) {e : RxEntry}
    (entry : (s.page (s.circuit c).config.page).receive (s.circuit c).rxPlane code = e) :
    goodCode c code s = (requestAnswerback c e (handToFramer c (handedOn (s.page (s.circuit c).config.page) e)
      (s.modCircuit c (fun y => y.gotCharacter)))).modCircuit c
        (fun y => { y with rxPlane := planeAfter (s.circuit c).config y.rxPlane e }) := by
  subst entry
  rfl

/-- Settles O42: the samples say when a row is due, and the entry looked up says what is done. -/
theorem lineCharactersAreLookedUpAndHandedOn : Obligations.LineCharactersAreLookedUpAndHandedOn := by
  intro s c code stop x n pg reads worth due over_
  have sample (moment : Nat) : x.sampleAt moment = reads moment := sampleAt_eq x moment
  have dueIff : x.stopDue code stop = true ↔ due := by
    rw [stopDue_iff]
    unfold Circuit.unitWorth
    simp only [sample]
    rfl
  rw [exec_characterReceived]
  refine ⟨fun early => congrArg _ (if_neg fun h => early (dueIff.1 h)), fun here mark e letters figures => ?mark,
    fun here space => ⟨fun zero => ?zero, fun other => ?other⟩⟩
  case mark =>
    subst mark
    intro heard framed asked y plane
    have entry : pg.receive x.rxPlane code = e := by
      unfold Page.receive
      cases atPlane : x.rxPlane with
      | letters => exact (letters atPlane).symm
      | figures => exact (figures atPlane).symm
    have toFramer : handToFramer c (handedOn pg e) (s.modCircuit c (fun y => y.gotCharacter)) = framed := by
      unfold framed
      cases e <;> rfl
    have toOutlet : requestAnswerback c e framed = asked := by
      unfold requestAnswerback asked
      split_ifs <;> rfl
    have toPlane : planeAfter x.config y.rxPlane e = plane := by
      unfold plane
      cases e <;> rfl
    rw [stopSample_mark (dueIff.2 here), goodCode_eq c code s entry, toFramer, toOutlet]
    refine congrArg (fun w => Host.Outcome.next (settle w)) (State.modCircuit_eq ?_)
    rw [toPlane]
  all_goals subst space
  · rw [stopSample_space (dueIff.2 here)]
    subst zero
    rfl
  · rw [stopSample_space (dueIff.2 here)]
    unfold badStop handToFramer
    simp only [if_neg other]
    refine congrArg (fun w => Host.Outcome.next (settle (takeChar (.circuit c) pg.substitute w)))
      (State.modCircuit_eq ?_)
    exact if_neg other

/-! ## Characters sent -/

theorem exec_characterSent {c : Fin 16} : exec (.characterSent c) s = .next (characterSent c s) := rfl

theorem exec_timeFill {c : Fin 16} : exec (.timeFill c) s = .next (timeFill c s) := rfl

theorem exec_terminalCharacterSent {p : Fin 8} :
    exec (.terminalCharacterSent p) s = .next (terminalSent p s) := rfl

theorem breaking_iff (z : Control) : z.breaking = true ↔
    z.settings.use = .lineBreak ∧ (z.phase = .counting ∨ z.phase = .holding) := by
  simp [Control.breaking]

theorem fillDue_iff (s : State) (c : Fin 16) : s.fillDue c = true ↔
    (s.circuit c).state = .opened ∧ (s.control c).fillOwed = true ∧ (s.outlet (lineOutlet c)).state = .idle
      ∧ (s.circuit c).sending = none
      ∧ ¬((s.control c).settings.use = .lineBreak
        ∧ ((s.control c).phase = .counting ∨ (s.control c).phase = .holding)) := by
  unfold State.fillDue
  rw [← breaking_iff]
  simp only [Bool.and_eq_true, decide_eq_true_eq, Option.isNone_iff_eq_none, Bool.not_eq_true', and_assoc,
    Bool.not_eq_true]

/-- The marks among the data bits of a character on a line are the data bits set. -/
theorem count_mark_data (data : Office) :
    ((List.finRange 7).map (fun i => dataSignal (data.getLsbD i.val))).count .mark = marksIn data := by
  unfold marksIn
  rw [List.count_eq_countP, List.countP_map, List.countP_eq_length_filter]
  refine congrArg (fun f => (List.filter f (List.finRange 7)).length) (funext fun i => ?_)
  show (dataSignal (data.getLsbD i.val) == Signal.mark) = data.getLsbD i.val
  cases data.getLsbD i.val <;> rfl

theorem parityBit_some {p : Parity} (on : p ≠ .off) (data : Office) :
    parityBit p data = some (parityError p data false) := by
  cases p with
  | off => exact absurd rfl on
  | even | odd => rfl

/-- The check bit makes the count of marks what the parity requires (R48, R53). -/
theorem parity_of_check {p : Parity} (on : p ≠ .off) (data : Office) :
    (marksIn data + if parityError p data false = true then 1 else 0) % 2 = if p = .even then 0 else 1 := by
  unfold parityError
  cases p with
  | off => exact absurd rfl on
  | even =>
    simp only [decide_eq_true_eq, Bool.false_eq_true, if_false, Nat.add_zero, if_true]
    split_ifs <;> omega
  | odd =>
    simp only [decide_eq_true_eq, Bool.false_eq_true, if_false, Nat.add_zero, reduceCtorEq]
    split_ifs <;> omega

/-- Settles O43: the end of a character, the fill, and what each send output drives. -/
theorem sentCharactersAndFillsUseTheSendSide : Obligations.SentCharactersAndFillsUseTheSendSide := by
  intro s signal level
  have drives (p : Polarity) : p.drives = level p := funext fun y => by cases p <;> cases y <;> rfl
  refine ⟨fun c => ?circuit, fun p => ?terminal⟩
  case circuit =>
    intro x cfg z o breaking due started
    rw [exec_characterSent, exec_timeFill]
    have dueIff : s.fillDue c = true ↔ due := fillDue_iff s c
    refine ⟨fun idle => congrArg _ (if_neg (by simp [x, idle])), fun busy => ?_,
      fun early => congrArg _ (if_neg fun h => early (dueIff.1 h)),
      fun here => congrArg _ (if_pos (dueIff.2 here)), fun _ _ => rfl, fun idle => ?_, fun y sending => ?_⟩
    · exact congrArg _ (if_pos (Option.isSome_iff_ne_none.2 busy))
    · rw [lineDrive_idle idle, drives]
      unfold State.restSignal
      simp only [breaking_iff]
      rfl
    · rw [lineDrive_sending sending]
      unfold LineChar.elements LineChar.signals
      rw [drives]
      cases y.stop <;> rfl
  case terminal =>
    intro x
    rw [exec_terminalCharacterSent]
    refine ⟨fun idle => congrArg _ (if_neg (by simp [x, idle])), fun busy => ?_, fun _ => rfl,
      terminalDrive_idle, fun y sending => ?_⟩
    · exact congrArg _ (if_pos (Option.isSome_iff_ne_none.2 busy))
    · intro bit data baud
      refine ⟨y.speed.bitTicks, ?_, fun off => ?_, fun on => ?_⟩
      · unfold baud
        cases y.speed <;> rfl
      · rw [terminalDrive_sending sending]
        unfold PortChar.elements PortChar.signals
        rw [off]
        rfl
      · refine ⟨signal (parityError y.parity y.char false), ?_, ?_⟩
        · have marks : data.count .mark = marksIn y.char := count_mark_data y.char
          rw [List.count_append, marks, ← parity_of_check on y.char]
          cases parityError y.parity y.char false <;> rfl
        · rw [terminalDrive_sending sending]
          unfold PortChar.elements PortChar.signals
          rw [parityBit_some on]
          rfl

end Sys2Proof.Machine

/-! PROOF. What terminals send the part: characters and the taking of them by the framer (R48 to R52, R57,
R65 to R67, R85, R154). -/

namespace Sys2Proof.Machine

variable {s t u : State}

/-! ## One port written -/

/-- The part with another record of a port. -/
def State.withPort (s : State) (t : Fin 8) (y : Port) : State := { s with ports := s.ports.set t y }

@[simp] theorem State.port_withPort (s : State) (t : Fin 8) (y : Port) : (s.withPort t y).port t = y :=
  (State.get_set ..).trans (if_pos rfl)

theorem State.modPort_withPort (s : State) (t : Fin 8) (y : Port) (f : Port → Port) :
    (s.withPort t y).modPort t f = s.withPort t (f y) := by
  rw [State.modPort_eq (congrArg f (s.port_withPort t y))]
  exact congrArg (fun w => { s with ports := w }) (vector_set_set ..)

theorem State.modPort_eq_withPort {t : Fin 8} {f : Port → Port} {y : Port} (eq : f (s.port t) = y) :
    s.modPort t f = s.withPort t y := State.modPort_eq eq

/-! ## The stop sample -/

theorem length_filter_range (data : Office) :
    ((List.range 7).filter (fun i => data.getLsbD i)).length = marksIn data := by
  have range : List.range 7 = (List.finRange 7).map Fin.val := by decide
  unfold marksIn
  rw [range, List.filter_map, List.length_map]
  rfl

theorem parityError_iff (p : Parity) (data : Office) (bit : Bool) : parityError p data bit = true ↔
    (p = .even ∧ (((List.range 7).filter (fun i => data.getLsbD i)).length + bit.toNat) % 2 = 1)
      ∨ (p = .odd ∧ (((List.range 7).filter (fun i => data.getLsbD i)).length + bit.toNat) % 2 = 0) := by
  rw [length_filter_range]
  unfold parityError
  cases p <;> cases bit <;> simp

theorem dropped_iff (ch : Office) : dropped ch = true ↔
    (ch.toNat < 32 ∨ ch.toNat = 127) ∧ ch ≠ cr ∧ ch ≠ lf ∧ ch ≠ bel ∧ ch ≠ lead := by
  have bound := ch.isLt
  unfold dropped isPrintable isLineEnd
  simp only [Bool.and_eq_true, Bool.not_eq_true', decide_eq_false_iff_not, decide_eq_true_eq, not_and,
    not_or, Nat.not_le]
  constructor
  · rintro ⟨⟨control, cr, lf⟩, bel, lead⟩
    exact ⟨by omega, cr, lf, bel, lead⟩
  · rintro ⟨control, cr, lf, bel, lead⟩
    exact ⟨⟨by omega, cr, lf⟩, bel, lead⟩

/-- A port record when a character's stop sample has been judged (R48, R49). -/
def Port.heard (x : Port) (stop : Signal) (bad : Bool) : Port :=
  { x with
    rxMark := decide (stop = .mark)
    rxPhase := if stop = .mark then .hunting else .waitMark
    counts := if stop = .space then { x.counts with framingErrors := inc x.counts.framingErrors }
      else if bad = true then
        { x.counts with received := inc x.counts.received, parityErrors := inc x.counts.parityErrors }
      else { x.counts with received := inc x.counts.received } }

theorem charDelivered_eq (data : Office) (stop : Signal) (bad : Bool) :
    charDelivered data stop bad = if stop = .mark ∧ ¬bad = true then data else query := by
  cases stop <;> cases bad <;> rfl

theorem terminalStop_hears {t : Fin 8} {data : Office} {bit : Bool} {stop : Signal}
    (hears : (s.port t).enabled = true ∧ (s.port t).rxPhase = .inCharacter) :
    let bad := parityError (s.port t).config.parity data bit
    terminalStop t data bit stop s
      = settle (sortChar t (charDelivered data stop bad) (s.withPort t ((s.port t).heard stop bad))) := by
  intro bad
  have inChar : (s.port t).inChar = true := by
    unfold Port.inChar
    simp [hears.1, hears.2]
  have heard : (s.modPort t (fun p => p.atStop stop)).modPortCounts t (fun n => n.judged stop bad)
      = s.withPort t ((s.port t).heard stop bad) := by
    unfold State.modPortCounts
    rw [State.modPort_modPort]
    refine State.modPort_eq_withPort ?_
    cases stop <;> cases bad <;> rfl
  exact (if_pos inChar).trans (congrArg (fun w => settle (sortChar t (charDelivered data stop bad) w)) heard)

theorem terminalStop_deaf {t : Fin 8} {data : Office} {bit : Bool} {stop : Signal}
    (deaf : ¬((s.port t).enabled = true ∧ (s.port t).rxPhase = .inCharacter)) :
    terminalStop t data bit stop s = s := by
  refine if_neg fun inChar => deaf ?_
  simpa [Port.inChar] using inChar

/-! ## Sorting -/

section Sorting

variable {t : Fin 8} {y : Port} {ch : Office}

theorem sortChar_dropped (drop : dropped ch = true) : sortChar t ch (s.withPort t y) =
    s.withPort t { y with counts := { y.counts with dropped := inc y.counts.dropped } } :=
  (if_pos drop).trans (State.modPort_withPort ..)

theorem sortChar_lineFeed (keep : dropped ch = false) (after : y.afterRequest = true) (feed : ch = lf) :
    sortChar t ch (s.withPort t y) = s.withPort t { y with afterRequest := false } := by
  unfold sortChar
  rw [if_neg (by simp [keep]), State.port_withPort, if_pos after]
  exact (if_pos feed).trans (State.modPort_withPort ..)

theorem sortChar_rest (keep : dropped ch = false) (other : ¬(y.afterRequest = true ∧ ch = lf)) :
    sortChar t ch (s.withPort t y) = sortRest t ch (s.withPort t { y with afterRequest := false }) := by
  unfold sortChar
  simp only [keep, State.port_withPort, Bool.false_eq_true, if_false]
  by_cases after : y.afterRequest = true
  · rw [if_pos after, if_neg fun feed => other ⟨after, feed⟩, State.modPort_withPort]
  · have same : { y with afterRequest := false } = y := by
      obtain ⟨⟩ := y
      simp_all
    rw [if_neg after, same]

theorem sortRest_carriageReturn (mode : y.requestMode = true) (cr : ch = cr) :
    sortRest t ch (s.withPort t y)
      = completeRequest t (s.withPort t { y with requestMode := false, afterRequest := true }) := by
  unfold sortRest toParser
  simp only [State.port_withPort, mode, cr, if_true, State.modPort_withPort]

theorem sortRest_stored (mode : y.requestMode = true) (other : ch ≠ cr) :
    sortRest t ch (s.withPort t y)
      = { s.withPort t y with parsers := s.parsers.set t ((s.parser t).store ch) } := by
  unfold sortRest toParser
  simp only [State.port_withPort, mode, other, if_true, if_false]
  rfl

theorem sortRest_lead (mode : y.requestMode = false) (lead_ : ch = lead) :
    sortRest t ch (s.withPort t y) = { s.withPort t { y with requestMode := true } with
      parsers := s.parsers.set t { buffer := [lead], overflow := false } } := by
  unfold sortRest beginRequest
  simp only [State.port_withPort, mode, lead_, if_true, Bool.false_eq_true, if_false, State.modPort_withPort]
  rfl

theorem sortRest_queued (mode : y.requestMode = false) (other : ch ≠ lead) (room : y.queue.length < 16) :
    sortRest t ch (s.withPort t y) = s.withPort t { y with
      queue := y.queue ++ [ch]
      readyOut := if 11 ≤ y.queue.length then .low else if y.queue.length ≤ 3 then .high else y.readyOut } := by
  unfold sortRest offerQueue
  simp only [State.port_withPort, mode, other, room, if_true, Bool.false_eq_true, if_false,
    State.modPort_withPort]
  unfold Port.withQueue readyFor
  rw [List.length_append, List.length_singleton]
  simp only [Nat.reduceLeDiff, mode]

theorem sortRest_overrun (mode : y.requestMode = false) (other : ch ≠ lead) (full : 16 ≤ y.queue.length) :
    sortRest t ch (s.withPort t y) = { s.withPort t { y with
        counts := { y.counts with overruns := inc y.counts.overruns } } with
      notices := (s.raise .terminalOverrun).notices } := by
  unfold sortRest offerQueue State.modPortCounts
  simp only [State.port_withPort, mode, other, Nat.not_lt.2 full, Bool.false_eq_true, if_false,
    State.modPort_withPort]
  rfl

end Sorting

theorem exec_terminalStartEdge {t : Fin 8} :
    exec (.terminalStartEdge t) s = .next (s.modPort t (fun p => p.startEdge)) := rfl

theorem exec_terminalFalseStart {t : Fin 8} :
    exec (.terminalFalseStart t) s = .next (s.modPort t (fun p => p.falseStart)) := rfl

theorem exec_terminalCharacterReceived {t : Fin 8} {data : Office} {bit : Bool} {stop : Signal} :
    exec (.terminalCharacterReceived t data bit stop) s = .next (terminalStop t data bit stop s) := rfl

/-- Settles O47: a character is judged by its stop and its parity, and the first step that claims it takes it. -/
theorem terminalCharactersAreFramedCheckedAndSorted :
    Obligations.TerminalCharactersAreFramedCheckedAndSorted := by
  intro s t x hears
  refine ⟨?start, fun here => ?_, fun deaf => ?_, rfl, fun data bit stop => ?stop⟩
  case start =>
    rw [exec_terminalStartEdge]
    refine congrArg _ ?_
    by_cases mark : x.rxMark = true
    · rw [if_pos mark]
      exact State.modPort_eq (if_pos mark)
    · rw [if_neg mark]
      exact State.modPort_same (if_neg mark)
  case stop =>
    intro marks bad n heard ch i after with_ dropped_ y
    have badIff : parityError x.config.parity data bit = true ↔ bad := parityError_iff _ data bit
    have record : x.heard stop (parityError x.config.parity data bit) = heard := by
      unfold Port.heard
      simp only [badIff]
      rfl
    have delivered : charDelivered data stop (parityError x.config.parity data bit) = ch := by
      rw [charDelivered_eq]
      simp only [badIff]
      rfl
    have keeps (kept : ¬dropped_) : dropped ch = false := Bool.eq_false_iff.2 fun drop => kept ((dropped_iff ch).1 drop)
    have stops (here : hears) : exec i s = .next (settle (sortChar t ch (s.withPort t heard))) := by
      rw [← record, ← delivered]
      exact exec_terminalCharacterReceived.trans (congrArg Host.Outcome.next (terminalStop_hears here))
    have arrives {w w' : State} (step : exec i s = .next (settle w)) (same : w = w') :
        exec i s = .next (settle w') := same ▸ step
    have rests (here : hears) (kept : ¬dropped_) (other : ¬(x.afterRequest = true ∧ ch = lf)) :
        exec i s = .next (settle (sortRest t ch (s.withPort t y))) :=
      arrives (stops here) (sortChar_rest (y := heard) (keeps kept) other)
    refine ⟨fun deaf => ?_, fun here drop => ?_, fun here kept flag feed => ?_,
      fun here kept other => ⟨fun mode cr => ?_, fun mode other' => ?_, fun mode lead_ => ?_,
        fun mode other' room => ?_, fun mode other' full => ?_⟩⟩
    · exact exec_terminalCharacterReceived.trans (congrArg Host.Outcome.next (terminalStop_deaf deaf))
    · exact arrives (stops here) (sortChar_dropped ((dropped_iff ch).2 drop))
    · exact arrives (stops here) (sortChar_lineFeed (keeps kept) flag feed)
    · exact arrives (rests here kept other) (sortRest_carriageReturn mode cr)
    · exact arrives (rests here kept other) (sortRest_stored mode other')
    · exact arrives (rests here kept other) (sortRest_lead mode lead_)
    · exact arrives (rests here kept other) (sortRest_queued mode other' room)
    · exact arrives (rests here kept other) (sortRest_overrun mode other' full)
  · rw [exec_terminalFalseStart]
    exact congrArg _ (State.modPort_eq (if_pos here))
  · rw [exec_terminalFalseStart]
    exact congrArg _ (State.modPort_same (if_neg deaf))

/-! ## The framer's taking -/

theorem mayTake_iff (t : Fin 8) (s : State) : mayTake t s = true ↔
    (s.port t).enabled = true ∧ (framerOf (.terminal t) s).outstanding = none
      ∧ ∀ k, (framerOf (.terminal t) s).slot = some k →
        (s.story k).state = .header ∨ (s.story k).state = .running := by
  unfold mayTake
  dsimp only
  cases slot : (framerOf (.terminal t) s).slot with
  | none => simp
  | some k => simp [and_assoc]

theorem takeHead_empty {t : Fin 8} (empty : (s.port t).queue = []) : takeHead t s = s := by
  unfold takeHead
  rw [empty]

theorem takeHead_barred {t : Fin 8} (barred : mayTake t s = false) : takeHead t s = s := by
  unfold takeHead
  split
  · rfl
  · exact if_neg (by simp [barred])

/-- The head popped from a terminal's queue (R51, R52). -/
theorem popQueue_eq {t : Fin 8} {ch : Office} {rest : List Office} (queue : (s.port t).queue = ch :: rest) :
    popQueue t s = s.withPort t { s.port t with
      queue := rest
      readyOut := if 12 ≤ rest.length then .low else if rest.length ≤ 4 then .high
        else (s.port t).readyOut } := by
  refine State.modPort_eq_withPort ?_
  unfold Port.withQueue readyFor
  rw [queue]
  rfl

theorem takeHead_takes {t : Fin 8} {ch : Office} {rest : List Office} (queue : (s.port t).queue = ch :: rest)
    (may : mayTake t s = true)
    (writes : ∀ k chs, (framerOf (.terminal t) s).slot = some k →
      writeCaused (framerOf (.terminal t) s) ch = some chs → roomFor (s.story k) chs.length = true) :
    takeHead t s = takeChar (.terminal t) ch (popQueue t s) := by
  unfold takeHead
  rw [queue]
  refine (if_pos may).trans ?_
  cases slot : (framerOf (.terminal t) s).slot with
  | none => simp only [slot]
  | some k =>
    cases write : writeCaused (framerOf (.terminal t) s) ch with
    | none => simp only [slot, write]
    | some chs =>
      simp only [slot, write]
      exact if_pos (writes k chs slot write)

theorem takeHead_refused {t : Fin 8} {ch : Office} {rest chs : List Office} {k : Fin 48}
    (queue : (s.port t).queue = ch :: rest) (may : mayTake t s = true)
    (slot : (framerOf (.terminal t) s).slot = some k)
    (write : writeCaused (framerOf (.terminal t) s) ch = some chs)
    (full : ¬roomFor (s.story k) chs.length = true) : takeHead t s = refuseWrite t k chs s := by
  unfold takeHead
  rw [queue]
  refine (if_pos may).trans ?_
  simp only [slot, write]
  exact if_neg full

theorem refuseWrite_eq (t : Fin 8) (k : Fin 48) (chs : List Office) (s : State) :
    refuseWrite t k chs s = { s with
      framers := s.framers.set (Source.terminal t).index
        { framerOf (.terminal t) s with outstanding := some chs }
      stories := if (s.story k).blockedSince = none then s.stories.set k { s.story k with
          blockedSince := some s.regs.clock, blockTimer := some 0, changed := true }
        else s.stories } := by
  unfold refuseWrite
  have same : (modFramerOf (.terminal t) (fun f => { f with outstanding := some chs }) s).story k
      = s.story k := rfl
  dsimp only
  rw [same]
  split_ifs <;> rfl

theorem exec_framerTake {t : Fin 8} : exec (.framerTake t) s = .next (settle (takeHead t s)) := rfl

/-- The write a character would cause, in the obligations' words (R65, R66). -/
theorem writeCaused_eq (f : Framer) (ch : Office) : writeCaused f ch = match f.state with
    | .inStory => if (f.lineEnd = true ∧ ch = lf) ∨ (ch = office 'E' ∧ f.lineStart = true)
        then none else some [ch]
    | .closerMatch => if closer[f.holdBack.length]? = some ch then none
        else some (f.holdBack ++ [ch])
    | .idle | .openerMatch | .header | .discard => none := by
  unfold writeCaused
  cases f.state with
  | inStory =>
    have swallows : f.swallows ch = true ↔ f.lineEnd = true ∧ ch = lf := by simp [Framer.swallows]
    simp only [swallows]
    rfl
  | closerMatch => simp only [extends?, decide_eq_true_eq]
  | idle | openerMatch | header | discard => rfl

/-- Settles O48: the framer takes the head, or is refused the write that finds no room. -/
theorem framersTakeQueuedCharactersOrAreRefused : Obligations.FramersTakeQueuedCharactersOrAreRefused := by
  intro s t x f free
  have may : mayTake t s = true ↔ free := mayTake_iff t s
  refine ⟨exec_framerTake, fun idle => ?_, fun ch rest queue here => ?_⟩
  · rcases idle with empty | barred
    · exact takeHead_empty empty
    · exact takeHead_barred (Bool.eq_false_iff.2 fun h => barred (may.1 h))
  · intro write taken
    have caused : writeCaused f ch = write := writeCaused_eq f ch
    have popped : takeChar (.terminal t) ch (popQueue t s) = taken :=
      congrArg (takeChar (.terminal t) ch) (popQueue_eq queue)
    refine ⟨fun without => ?_, fun k chs slot writes => ?_⟩
    · rw [takeHead_takes queue (may.2 here) fun k chs slot writes => ?_, popped]
      rcases without with noSlot | noWrite
      · exact absurd (noSlot.symm.trans slot) nofun
      · exact absurd ((noWrite.symm.trans caused.symm).trans writes) nofun
    · intro st room
      have hasRoom : roomFor st chs.length = true ↔ room := roomFor_iff st chs.length
      refine ⟨fun fits => ?_, fun full => ?_⟩
      · rw [takeHead_takes queue (may.2 here) fun j cs slot' writes' => ?_, popped]
        obtain rfl := Option.some.inj (slot.symm.trans slot')
        obtain rfl := Option.some.inj ((writes.symm.trans caused.symm).trans writes')
        exact hasRoom.2 fits
      · rw [takeHead_refused queue (may.2 here) slot (caused.trans writes) (mt hasRoom.1 full), refuseWrite_eq]

end Sys2Proof.Machine

/-! PROOF. Lines of fields, and desk requests (R63, R154 to R163). -/

namespace Sys2Proof.Machine

variable {s t u : State}

/-! ## Fields -/

/-- Fields after the first, each after its space. -/
def spaced (fs : List (List Office)) : List Office := fs.flatMap (fun f => space :: f)

@[simp] theorem spaced_nil : spaced [] = [] := rfl

@[simp] theorem spaced_cons (f : List Office) (fs : List (List Office)) :
    spaced (f :: fs) = space :: f ++ spaced fs := by
  unfold spaced
  rw [List.flatMap_cons]

/-- A line is the fields it is split into. -/
theorem fields_split (l : List Office) : ∃ f fs, fields l = f :: fs ∧ l = f ++ spaced fs
    ∧ ∀ g ∈ f :: fs, space ∉ g := by
  induction l with
  | nil => exact ⟨[], [], rfl, rfl, by simp⟩
  | cons o rest ih =>
    obtain ⟨f, fs, split, joined, clean⟩ := ih
    unfold fields
    by_cases gap : o = space
    · refine ⟨[], f :: fs, by rw [if_pos gap, split], by simp [gap, joined], fun g mem => ?_⟩
      rcases List.mem_cons.1 mem with rfl | mem
      · exact List.not_mem_nil
      · exact clean g mem
    · refine ⟨o :: f, fs, by rw [if_neg gap, split], by simp [joined], fun g mem => ?_⟩
      rcases List.mem_cons.1 mem with rfl | mem
      · exact fun here => (List.mem_cons.1 here).elim (fun same => gap same.symm)
          (clean f List.mem_cons_self)
      · exact clean g (List.mem_cons_of_mem _ mem)

theorem fields_cons (o : Office) (rest : List Office) :
    fields (o :: rest) = if o = space then [] :: fields rest
      else match fields rest with
        | [] => [[o]]
        | f :: fs => (o :: f) :: fs := rfl

/-- Fields without spaces, joined by spaces, are the fields of their line. -/
theorem fields_joined (f : List Office) (fs : List (List Office)) (clean : ∀ g ∈ f :: fs, space ∉ g) :
    fields (f ++ spaced fs) = f :: fs := by
  induction fs generalizing f with
  | nil =>
    rw [spaced_nil, List.append_nil]
    induction f with
    | nil => rfl
    | cons o f ih =>
      have gap : o ≠ space := fun same => clean _ List.mem_cons_self (same ▸ List.mem_cons_self)
      have rest := ih fun g mem here => by
        obtain rfl := List.mem_singleton.1 mem
        exact clean _ List.mem_cons_self (List.mem_cons_of_mem _ here)
      unfold fields
      rw [if_neg gap, rest]
  | cons g fs ihs =>
    induction f with
    | nil =>
      rw [spaced_cons, List.nil_append, List.cons_append, fields_cons, if_pos rfl,
        ihs g fun h mem => clean h (List.mem_cons_of_mem _ mem)]
    | cons o f ih =>
      have gap : o ≠ space := fun same => clean _ List.mem_cons_self (same ▸ List.mem_cons_self)
      have rest := ih fun h mem here => by
        rcases List.mem_cons.1 mem with rfl | mem
        · exact clean _ List.mem_cons_self (List.mem_cons_of_mem _ here)
        · exact clean h (List.mem_cons_of_mem _ mem) here
      rw [List.cons_append]
      unfold fields
      rw [if_neg gap, rest]

/-- Fields as a header or a request allows them: not empty, of field characters (R63, R155). -/
def FieldsOk (fs : List (List Office)) : Prop := ∀ f ∈ fs, f ≠ [] ∧ ∀ o ∈ f, isFieldChar o = true

theorem space_not_field : isFieldChar space = false := by decide

theorem FieldsOk.clean {fs : List (List Office)} (ok : FieldsOk fs) : ∀ g ∈ fs, space ∉ g :=
  fun g mem here => by
    have field := (ok g mem).2 space here
    rw [space_not_field] at field
    cases field

theorem fieldsOk_iff (fs : List (List Office)) :
    fs.all (fun f => f ≠ [] ∧ f.all isFieldChar) = true ↔ FieldsOk fs := by
  simp [FieldsOk]

theorem argumentsOf_iff (l : List Office) (fs : List (List Office)) :
    argumentsOf l = some fs ↔ l = spaced fs ∧ FieldsOk fs := by
  cases l with
  | nil =>
    constructor
    · intro read
      obtain rfl := Option.some.inj read
      exact ⟨rfl, fun f mem => absurd mem List.not_mem_nil⟩
    · rintro ⟨joined, _⟩
      cases fs with
      | nil => rfl
      | cons f fs => simp at joined
  | cons o rest =>
    have test : argumentsOf (o :: rest) = if o = space ∧ (fields rest).all
        (fun f => f ≠ [] ∧ f.all isFieldChar) = true then some (fields rest) else none := rfl
    rw [test, ← fieldsOk_iff fs]
    constructor
    · intro read
      split_ifs at read with good
      obtain ⟨gap, clean⟩ := good
      obtain rfl := Option.some.inj read
      obtain ⟨f, fs, split, joined, _⟩ := fields_split rest
      refine ⟨?_, clean⟩
      rw [split, spaced_cons, gap, joined, List.cons_append]
    · rintro ⟨joined, ok⟩
      cases fs with
      | nil => cases joined
      | cons f fs =>
        rw [spaced_cons, List.cons_append] at joined
        obtain ⟨gap, tail⟩ := List.cons.inj joined
        have split := fields_joined f fs ((fieldsOk_iff _).1 ok).clean
        rw [tail, split, if_pos ⟨gap, ok⟩]

/-! ## Numbers in a request -/

theorem isNumberArg_iff (f : List Office) :
    isNumberArg f = true ↔ 1 ≤ f.length ∧ f.length ≤ 4 ∧ ∀ d ∈ f, isDigit d = true := by
  simp [isNumberArg, and_assoc]

theorem numberArg_iff (f : List Office) (n : Nat) : numberArg f = some n ↔
    1 ≤ f.length ∧ f.length ≤ 4 ∧ (∀ d ∈ f, isDigit d = true) ∧ digitsValue f = n ∧ n ≠ 0 := by
  unfold numberArg
  constructor
  · intro read
    split_ifs at read with good
    obtain ⟨form, some_⟩ := good
    obtain rfl := Option.some.inj read
    obtain ⟨least, most, digits⟩ := (isNumberArg_iff f).1 form
    exact ⟨least, most, digits, rfl, some_⟩
  · rintro ⟨least, most, digits, rfl, some_⟩
    exact if_pos ⟨(isNumberArg_iff f).2 ⟨least, most, digits⟩, some_⟩

theorem isFieldChar_of_isDigit {o : Office} (digit : isDigit o = true) : isFieldChar o = true := by
  simp [isFieldChar, digit]

theorem isFieldChar_iff (o : Office) :
    isFieldChar o = true ↔ isCapital o = true ∨ isDigit o = true ∨ o = office '-' := by
  have hyphen : isHyphen o = true ↔ o = office '-' := decide_eq_true_iff
  unfold isFieldChar
  rw [Bool.or_eq_true, Bool.or_eq_true, or_assoc, hyphen]

/-- A number reads as a field. -/
theorem FieldsOk.number {a : List Office} {n : Nat} (read : numberArg a = some n) : FieldsOk [a] := by
  obtain ⟨least, _, digits, _, _⟩ := (numberArg_iff a n).1 read
  intro f mem
  obtain rfl := List.mem_singleton.1 mem
  exact ⟨List.ne_nil_of_length_pos least, fun o here => isFieldChar_of_isDigit (digits o here)⟩

theorem priorityOfLetter_iff (l : Office) (q : Priority) :
    priorityOfLetter l = some q ↔ l = q.letter := by
  constructor
  · intro found
    have test := List.find?_some found
    exact (of_decide_eq_true test).symm
  · rintro rfl
    cases q <;> decide

theorem isFieldChar_letter (q : Priority) : isFieldChar q.letter = true := by
  cases q <;> decide

/-! ## The form of a request -/

/-- How a request is written: its letter and its arguments (R155). -/
def Request.Written (letter : Office) (args : List (List Office)) : Request → Prop
  | .statusNumber n => letter = office 'S' ∧ ∃ a, args = [a] ∧ numberArg a = some n
  | .statusSlug cs => letter = office 'S' ∧ args = [cs] ∧ isNumberArg cs = false
      ∧ 1 ≤ cs.length ∧ cs.length ≤ 20
  | .list => letter = office 'L' ∧ args = []
  | .hold n => letter = office 'H' ∧ ∃ a, args = [a] ∧ numberArg a = some n
  | .release n => letter = office 'G' ∧ ∃ a, args = [a] ∧ numberArg a = some n
  | .kill n => letter = office 'K' ∧ ∃ a, args = [a] ∧ numberArg a = some n
  | .priority n q => letter = office 'P' ∧ ∃ a, args = [a, [q.letter]] ∧ numberArg a = some n
  | .join n => letter = office 'J' ∧ ∃ a, args = [a] ∧ numberArg a = some n
  | .leave n => letter = office 'X' ∧ ∃ a, args = [a] ∧ numberArg a = some n

theorem statusArg_written {a : List Office} {r : Request} (read : statusArg a = some r) :
    r.Written (office 'S') [a] := by
  unfold statusArg at read
  split_ifs at read with number slug
  · obtain ⟨n, isN, rfl⟩ := Option.map_eq_some_iff.1 read
    exact ⟨rfl, a, rfl, isN⟩
  · obtain rfl := Option.some.inj read
    obtain ⟨least, most⟩ := slug
    exact ⟨rfl, rfl, Bool.eq_false_iff.2 number, least, most⟩

theorem requestOf_one_written {l : Office} {a : List Office} {r : Request}
    (read : requestOf l [a] = some r) : r.Written l [a] := by
  unfold requestOf at read
  dsimp only at read
  split_ifs at read with status hold release kill join leave
  · exact status ▸ statusArg_written read
  all_goals
    obtain ⟨n, isN, rfl⟩ := Option.map_eq_some_iff.1 read
    exact ⟨‹_›, a, rfl, isN⟩

theorem requestOf_two_written {l : Office} {a b : List Office} {r : Request}
    (read : requestOf l [a, b] = some r) : r.Written l [a, b] := by
  unfold requestOf at read
  dsimp only at read
  split at read
  next n q isN =>
    split_ifs at read with priority
    obtain ⟨p, isP, rfl⟩ := Option.map_eq_some_iff.1 read
    exact ⟨priority, a, by rw [(priorityOfLetter_iff q p).1 isP], isN⟩
  next => cases read

/-- A request of its letter and arguments is the one they are written as. -/
theorem requestOf_iff (l : Office) (args : List (List Office)) (r : Request) :
    requestOf l args = some r ↔ r.Written l args := by
  constructor
  · intro read
    match args with
    | [] =>
      unfold requestOf at read
      dsimp only at read
      split_ifs at read with list
      obtain rfl := Option.some.inj read
      exact ⟨list, rfl⟩
    | [_] => exact requestOf_one_written read
    | [_, _] => exact requestOf_two_written read
    | _ :: _ :: _ :: _ => cases read
  · intro written
    cases r with
    | list =>
      obtain ⟨rfl, rfl⟩ := written
      rfl
    | statusSlug cs =>
      obtain ⟨rfl, rfl, notNumber, least, most⟩ := written
      have status : requestOf (office 'S') [cs] = statusArg cs := rfl
      rw [status, statusArg, if_neg (by simp [notNumber]), if_pos ⟨least, most⟩]
    | statusNumber n =>
      obtain ⟨rfl, a, rfl, isN⟩ := written
      obtain ⟨least, most, digits, _, _⟩ := (numberArg_iff a n).1 isN
      have status : requestOf (office 'S') [a] = statusArg a := rfl
      rw [status, statusArg, if_pos ((isNumberArg_iff a).2 ⟨least, most, digits⟩), isN,
        Option.map_some]
    | priority n q =>
      obtain ⟨rfl, a, rfl, isN⟩ := written
      have isP := (priorityOfLetter_iff q.letter q).2 rfl
      simp only [requestOf, isN, isP, if_true, Option.map_some]
    | hold n | release n | kill n | join n | leave n =>
      obtain ⟨rfl, a, rfl, isN⟩ := written
      exact (congrArg (Option.map _) isN : _)

theorem parseRequest_iff (p : Parser) (r : Request) : parseRequest p = some r ↔ p.overflow = false
    ∧ ∃ z l args, p.buffer = z :: l :: spaced args ∧ FieldsOk args ∧ r.Written l args := by
  unfold parseRequest
  cases over_ : p.overflow with
  | true => simp
  | false =>
    rw [if_neg Bool.false_ne_true]
    constructor
    · intro read
      refine ⟨rfl, ?_⟩
      split at read
      next z l rest buffer =>
        obtain ⟨args, isArgs, written⟩ := Option.bind_eq_some_iff.1 read
        obtain ⟨rfl, ok⟩ := (argumentsOf_iff rest args).1 isArgs
        exact ⟨z, l, args, buffer, ok, (requestOf_iff l args r).1 written⟩
      next => cases read
    · rintro ⟨_, z, l, args, buffer, ok, written⟩
      simp only [buffer, (argumentsOf_iff _ args).2 ⟨rfl, ok⟩, Option.bind_some]
      exact (requestOf_iff l args r).2 written

/-- A request with one number, as it is written. -/
theorem numbered_iff {buffer : List Office} {z l : Office} {n : Nat} :
    (∃ args, buffer = z :: l :: spaced args ∧ FieldsOk args ∧ ∃ a, args = [a] ∧ numberArg a = some n)
      ↔ ∃ ds, (1 ≤ ds.length ∧ ds.length ≤ 4 ∧ (∀ d ∈ ds, isDigit d = true) ∧ digitsValue ds = n
        ∧ n ≠ 0) ∧ buffer = z :: l :: space :: ds ++ [] := by
  constructor
  · rintro ⟨_, written, _, a, rfl, isN⟩
    exact ⟨a, (numberArg_iff a n).1 isN, written.trans (by simp)⟩
  · rintro ⟨ds, number, written⟩
    have isN := (numberArg_iff ds n).2 number
    exact ⟨[ds], written.trans (by simp), .number isN, ds, rfl, isN⟩

theorem priority_iff {buffer : List Office} {z l : Office} {n : Nat} {q : Priority} :
    (∃ args, buffer = z :: l :: spaced args ∧ FieldsOk args
        ∧ ∃ a, args = [a, [q.letter]] ∧ numberArg a = some n)
      ↔ ∃ ds, (1 ≤ ds.length ∧ ds.length ≤ 4 ∧ (∀ d ∈ ds, isDigit d = true) ∧ digitsValue ds = n
        ∧ n ≠ 0) ∧ buffer = z :: l :: space :: ds ++ [space, q.letter] := by
  constructor
  · rintro ⟨_, written, _, a, rfl, isN⟩
    exact ⟨a, (numberArg_iff a n).1 isN, written.trans (by simp)⟩
  · rintro ⟨ds, number, written⟩
    have isN := (numberArg_iff ds n).2 number
    refine ⟨[ds, [q.letter]], written.trans (by simp), fun f mem => ?_, ds, rfl, isN⟩
    rcases List.mem_cons.1 mem with rfl | mem
    · exact FieldsOk.number isN f List.mem_cons_self
    · obtain rfl := List.mem_singleton.1 mem
      exact ⟨List.cons_ne_nil _ _, fun o here => List.mem_singleton.1 here ▸ isFieldChar_letter q⟩

theorem slug_iff {buffer : List Office} {z l : Office} {cs : List Office} :
    (∃ args, buffer = z :: l :: spaced args ∧ FieldsOk args ∧ args = [cs] ∧ isNumberArg cs = false
        ∧ 1 ≤ cs.length ∧ cs.length ≤ 20)
      ↔ buffer = z :: l :: space :: cs ∧ 1 ≤ cs.length ∧ cs.length ≤ 20
        ∧ (∀ c ∈ cs, isCapital c = true ∨ isDigit c = true ∨ c = office '-')
        ∧ (4 < cs.length ∨ ∃ c ∈ cs, isDigit c = false) := by
  have notNumber (least : 1 ≤ cs.length) : isNumberArg cs = false
      ↔ 4 < cs.length ∨ ∃ c ∈ cs, isDigit c = false := by
    rw [Bool.eq_false_iff, ne_eq, isNumberArg_iff]
    push Not
    constructor
    · intro long
      by_cases few : cs.length ≤ 4
      · exact .inr ((long least few).imp fun c h => ⟨h.1, Bool.eq_false_iff.2 h.2⟩)
      · exact .inl (by omega)
    · rintro (long | ⟨c, mem, other⟩) _ few
      · omega
      · exact ⟨c, mem, Bool.eq_false_iff.1 other⟩
  constructor
  · rintro ⟨_, written, ok, rfl, other, least, most⟩
    exact ⟨written.trans (by simp), least, most,
      fun c mem => (isFieldChar_iff c).1 ((ok cs List.mem_cons_self).2 c mem), (notNumber least).1 other⟩
  · rintro ⟨written, least, most, chars, other⟩
    refine ⟨[cs], written.trans (by simp), fun f mem => ?_, rfl, (notNumber least).2 other, least, most⟩
    obtain rfl := List.mem_singleton.1 mem
    exact ⟨List.ne_nil_of_length_pos least, fun o here => (isFieldChar_iff o).2 (chars o here)⟩

/-- A request read from its buffer, by its letter. -/
theorem parseRequest_lettered (p : Parser) (r : Request) (letter : Office)
    (P : List (List Office) → Prop) (written : ∀ l args, r.Written l args ↔ l = letter ∧ P args) :
    parseRequest p = some r ↔ p.overflow = false ∧ ∃ z, ∃ args,
      p.buffer = z :: letter :: spaced args ∧ FieldsOk args ∧ P args := by
  rw [parseRequest_iff]
  constructor
  · rintro ⟨whole, z, l, args, buffer, ok, form⟩
    obtain ⟨rfl, form⟩ := (written l args).1 form
    exact ⟨whole, z, args, buffer, ok, form⟩
  · rintro ⟨whole, z, args, buffer, ok, form⟩
    exact ⟨whole, z, letter, args, buffer, ok, (written letter args).2 ⟨rfl, form⟩⟩

/-! ## The carriage return that ends a request -/

/-- A port after the good CR that ends a request (R48, R50). -/
def Port.ended (x : Port) : Port :=
  { x with
    rxMark := true
    rxPhase := .hunting
    requestMode := false
    afterRequest := true
    counts := { x.counts with received := inc x.counts.received } }

/-- A port is collecting a request and receiving a character (R50). -/
def Port.Ends (x : Port) : Prop := x.enabled = true ∧ x.rxPhase = .inCharacter ∧ x.requestMode = true

theorem goodCR_parity (p : Parity) : parityError p cr (parityError p cr false) = false := by
  cases p <;> decide

theorem goodCR_ends {t : Fin 8} (ends : (s.port t).Ends) :
    goodCR t s = settle (completeRequest t (s.withPort t (s.port t).ended)) := by
  obtain ⟨enabled, phase, mode⟩ := ends
  have notFeed : ¬(((s.port t).heard .mark false).afterRequest = true ∧ cr = lf) :=
    fun h => absurd h.2 (by decide)
  unfold goodCR
  rw [terminalStop_hears ⟨enabled, phase⟩, goodCR_parity]
  exact congrArg settle ((sortChar_rest (by decide) notFeed).trans (sortRest_carriageReturn mode rfl))

theorem completing_of_ends {t : Fin 8} (ends : (s.port t).Ends) :
    s.completing t = some (parseRequest (s.parser t)) := by
  obtain ⟨enabled, phase, mode⟩ := ends
  exact if_pos ⟨by rw [Port.inChar, enabled, phase]; rfl, mode⟩

theorem completing_of_not {t : Fin 8} (other : ¬(s.port t).Ends) : s.completing t = none := by
  refine if_neg fun ⟨inChar, mode⟩ => other ?_
  rw [Port.inChar, Bool.and_eq_true, decide_eq_true_iff] at inChar
  exact ⟨inChar.1, inChar.2, mode⟩

/-- A good CR that completes a request of the row's kind into an empty slot (logs 1, 7). -/
def CompletesAs (s : State) (t : Fin 8) (test : Option Request → Bool) : Prop :=
  (s.port t).Ends ∧ (s.port t).replySlot = none ∧ test (parseRequest (s.parser t)) = true

theorem completeIf_guard (s : State) (t : Fin 8) (test : Option Request → Bool) :
    ((s.completing t).any test = true ∧ (s.port t).replySlot = none) ↔ CompletesAs s t test := by
  unfold CompletesAs
  by_cases ends : (s.port t).Ends
  · rw [completing_of_ends ends, Option.any_some]
    exact ⟨fun h => ⟨ends, h.2, h.1⟩, fun h => ⟨h.2.2, h.2.1⟩⟩
  · rw [completing_of_not ends]
    exact ⟨fun h => Bool.noConfusion h.1, fun h => absurd h.1 ends⟩

theorem completeIf_not {t : Fin 8} {test : Option Request → Bool} (other : ¬CompletesAs s t test) :
    completeIf t test s = s := if_neg fun h => other ((completeIf_guard s t test).1 h)

/-- A request completed into an empty slot is judged, and its buffer emptied (R154, R156). -/
theorem completeIf_due {t : Fin 8} {test : Option Request → Bool} (due : CompletesAs s t test) :
    completeIf t test s = settle ((judgeRequest t (s.withPort t (s.port t).ended)).modParser t
      (fun _ => {})) := by
  obtain ⟨ends, free, _⟩ := id due
  have empty : ¬((s.withPort t (s.port t).ended).port t).replySlot.isSome = true := by
    rw [State.port_withPort]
    exact fun some_ => by rw [show (s.port t).ended.replySlot = none from free] at some_; cases some_
  rw [show completeIf t test s = goodCR t s from if_pos ((completeIf_guard s t test).2 due),
    goodCR_ends ends]
  unfold completeRequest
  dsimp only
  rw [if_neg empty]

theorem requestBusy_guard (s : State) (t : Fin 8) :
    ((s.completing t).isSome = true ∧ (s.port t).replySlot ≠ none)
      ↔ (s.port t).Ends ∧ (s.port t).replySlot ≠ none := by
  by_cases ends : (s.port t).Ends
  · rw [completing_of_ends ends]
    exact ⟨fun h => ⟨ends, h.2⟩, fun h => ⟨rfl, h.2⟩⟩
  · rw [completing_of_not ends]
    exact ⟨fun h => Bool.noConfusion h.1, fun h => absurd h.1 ends⟩

/-- A reply offered to a free slot is the slot's line (R119). -/
theorem offerReply_withPort {t : Fin 8} {y : Port} (enabled : y.enabled = true)
    (free : y.replySlot = none) (line : List Office) :
    (s.withPort t y).offerReply t line = s.withPort t { y with replySlot := some line } := by
  unfold State.offerReply
  rw [State.port_withPort, if_pos ⟨enabled, free⟩, State.modPort_withPort]

/-- Settles O50: a request line is judged for form. -/
theorem requestLinesAreReadOrRefused : Obligations.RequestLinesAreReadOrRefused := by
  unfold Obligations.RequestLinesAreReadOrRefused
  refine ⟨fun p r => ?_, fun s t => ?_⟩
  · have lettered := parseRequest_lettered p r
    cases r with
    | list =>
      rw [lettered (office 'L') (· = []) fun _ _ => Iff.rfl]
      refine and_congr_right fun _ => exists_congr fun z => ?_
      constructor
      · rintro ⟨_, buffer, _, rfl⟩
        exact buffer
      · exact fun buffer => ⟨[], buffer, fun f mem => absurd mem List.not_mem_nil, rfl⟩
    | statusSlug cs =>
      rw [lettered (office 'S') _ fun _ _ => Iff.rfl]
      exact and_congr_right fun _ => exists_congr fun z => slug_iff
    | priority n q =>
      rw [lettered (office 'P') _ fun _ _ => Iff.rfl]
      exact and_congr_right fun _ => exists_congr fun z => priority_iff
    | statusNumber n | hold n | release n | kill n | join n | leave n =>
      rw [lettered _ _ fun _ _ => Iff.rfl]
      exact and_congr_right fun _ => exists_congr fun z => numbered_iff
  · intro x ends heard noForm busy
    have isEnds : ends ↔ x.Ends := Iff.rfl
    have isNone : noForm ↔ CompletesAs s t Option.isNone :=
      and_congr_right fun _ => and_congr_right fun _ => Option.isNone_iff_eq_none.symm
    refine ⟨fun due => ?_, fun other => ?_, fun due => ?_, fun other => ?_⟩
    · have unread : parseRequest ((s.withPort t x.ended).parser t) = none := due.2.2
      have judged : judgeRequest t (s.withPort t x.ended) = s.withPort t { x.ended with
          replySlot := some Refused.form.line } := by
        unfold judgeRequest
        simp only [unread]
        exact offerReply_withPort (y := x.ended) due.1.1 due.2.1 _
      refine congrArg Host.Outcome.next ((completeIf_due (isNone.1 due)).trans ?_)
      rw [judged]
      rfl
    · exact congrArg Host.Outcome.next (completeIf_not fun h => other (isNone.2 h))
    · have held : ((s.withPort t x.ended).port t).replySlot.isSome = true := by
        rw [State.port_withPort]
        exact Option.isSome_iff_ne_none.2 due.2
      have done := goodCR_ends (isEnds.1 due.1)
      unfold completeRequest at done
      dsimp only at done
      unfold State.modPortCounts at done
      rw [if_pos held, State.modPort_withPort] at done
      exact congrArg Host.Outcome.next ((if_pos ((requestBusy_guard s t).2 due)).trans done)
    · exact congrArg Host.Outcome.next (if_neg fun h => other ((requestBusy_guard s t).1 h))

end Sys2Proof.Machine

/-! PROOF. Desk requests judged (R156 to R162): the release whose framer rejects a header first. -/

namespace Sys2Proof.Machine

variable {s t u : State}

/-- An outlet that is OFF does not stir. -/
theorem stirs_of_off {o : Fin 24} (off : (s.outlet o).state = .off) : s.stirs o = false := by
  unfold State.stirs
  simp only [off]

/-- Settling leaves the ports as they are where no outlet stirs. -/
theorem settle_port_of_still (still : ∀ o, s.stirs o = false) (t : Fin 8) :
    (settle s).port t = s.port t := by
  have shown := (Shown.settle s).port t
  rw [reactAll_calm fun o => (stirs_eq_false_iff s o).1 (still o)] at shown
  exact shown

/-- A framer in HEADER on a HELD story with the mark of a withdrawn write, its queue holding the CR that
ends a header with no form, and a request to release the story one CR short: no rule of the spec leads
here, but the obligation speaks of every state. -/
def releasing : State :=
  { State.reset with
    ports := State.reset.ports.set (0 : Fin 8)
      { enabled := true, config := { authority := .chief }, rxPhase := .inCharacter,
        requestMode := true, queue := [cr] }
    parsers := State.reset.parsers.set (0 : Fin 8) { buffer := lead :: text ['G', ' ', '1'] }
    framers := State.reset.framers.set (16 : Fin 24)
      { state := .header, slot := some 0, withdrawn := true }
    stories := State.reset.stories.set (0 : Fin 48)
      { state := .held, number := 1, source := .terminal 0 } }

/-- The release takes the CR, and the header's rejection fills the reply slot. -/
def releasingJudged : State :=
  (judgeRequest 0 (releasing.withPort 0 (releasing.port 0).ended)).modParser 0 (fun _ => {})

theorem exec_releasing : exec (.gRequest 0) releasing = .next (settle releasingJudged) :=
  congrArg Host.Outcome.next (completeIf_due (t := 0) (test := isRelease)
    ⟨⟨by decide, by decide, by decide⟩, by decide, by decide⟩)

theorem releasingJudged_off : ∀ o, (releasingJudged.outlet o).state = .off := by decide

/-- The state the obligation claims instead: the story released, and OK in the reply slot. -/
def releasingClaimed : State :=
  let w := releaseStory 0 (releasing.withPort 0 (releasing.port 0).ended)
  { w with
    ports := w.ports.set (0 : Fin 8) { w.port 0 with replySlot := some (text ['O', 'K', ' '] ++ fourDigits 1) }
    parsers := w.parsers.set (0 : Fin 8) {}
    notices := (w.raise .deskRequest).notices }

theorem releasingClaimed_off : ∀ o, (releasingClaimed.outlet o).state = .off := by decide

theorem releasingClaimed_reply :
    (releasingClaimed.port 0).replySlot = some (text ['O', 'K', ' '] ++ fourDigits 1) := by
  decide

theorem releasingJudged_reply :
    (releasingJudged.port 0).replySlot = some (text ['N', 'O', ' '] ++ CloseReason.headerFault.replyWords) := by
  decide

/-- Refutes O51: where the release takes a CR that makes the framer reject its header, the rejection's
line, and not OK, is left in the reply slot. -/
theorem not_deskRequestsAreJudgedAndAnswered : ¬ Obligations.DeskRequestsAreJudgedAndAnswered := by
  intro h
  obtain ⟨_, _, _, _, release, _⟩ := (h.2 releasing 0).2 ⟨by decide, by decide, by decide, by decide⟩
  have answered := ((release 1 (by decide)).2 (by decide)).2 0 (by decide)
  have claimed := answered.2.2 (by decide) (by decide)
  have same : settle releasingJudged = settle releasingClaimed :=
    Host.Outcome.next.inj (exec_releasing.symm.trans claimed)
  have judged := settle_port_of_still (fun o => stirs_of_off (releasingJudged_off o)) 0
  rw [same, settle_port_of_still (fun o => stirs_of_off (releasingClaimed_off o)) 0] at judged
  have reply := congrArg Port.replySlot judged
  rw [releasingJudged_reply, releasingClaimed_reply] at reply
  exact absurd reply (by decide)

end Sys2Proof.Machine

/-! PROOF. Send conversion (R33 to R37). -/

namespace Sys2Proof.Machine

variable {s t u : State}

/-! ## A character sent as a code -/

/-- The shift a character needs, said of the plane its send plane asks for (R33). -/
theorem shiftFor_eq (o : Outlet) (p : SendPlane) : shiftFor o p
    = if p.needs ≠ none ∧ (p.needs ≠ some o.plane ∨ o.shiftOwed = true) then p.needs else none := by
  unfold shiftFor
  cases p.needs with
  | none => rfl
  | some q =>
    have other : o.plane ≠ q ↔ some q ≠ some o.plane :=
      ⟨fun h same => h (Option.some.inj same).symm, fun h same => h (congrArg some same.symm)⟩
    simp only [other, ne_eq, reduceCtorEq, not_false_eq_true, true_and]

theorem columnAfter_eq (a : Office) (column : Nat) : columnAfter a column
    = if a = cr then 0 else if 32 ≤ a.toNat ∧ a.toNat ≤ 126 then min (column + 1) (max 255 column)
      else column := by
  have next : satInc 255 column = min (column + 1) (max 255 column) := by
    unfold satInc
    split <;> omega
  unfold columnAfter isPrintable
  simp only [next, decide_eq_true_eq]

/-- What sending a character as a code leaves and hands over, by whether it needs a shift (R33, R35 to
R37). -/
theorem sendAsCode_unshifted {cfg : CircuitConfig} {o : Outlet} {a : Office} {c : Code} {p : SendPlane}
    (none_ : shiftFor o p = none) : sendAsCode cfg o a c p
      = ({ o with shiftOwed := owedAfter cfg a o.shiftOwed, column := columnAfter a o.column },
        [c] ++ if a = cr ∧ cfg.shiftGuard then [shiftCode o.plane] else []) := by
  unfold sendAsCode
  rw [none_]
  rfl

theorem sendAsCode_shifted {cfg : CircuitConfig} {o : Outlet} {a : Office} {c : Code} {p : SendPlane}
    {q : Plane} (some_ : shiftFor o p = some q) : sendAsCode cfg o a c p
      = ({ o with plane := q, shiftOwed := owedAfter cfg a false, column := columnAfter a o.column },
        [shiftCode q] ++ [c] ++ if a = cr ∧ cfg.shiftGuard then [shiftCode q] else []) := by
  unfold sendAsCode
  rw [some_]
  rfl

theorem owedAfter_eq (cfg : CircuitConfig) (a : Office) (owed : Bool) : owedAfter cfg a owed
    = if a = cr ∧ cfg.shiftGuard = true then false
      else if a = space ∧ cfg.unshiftOnSpace = true then true else owed := rfl

theorem SendPlane.needs_eq (p : SendPlane) : p.needs
    = if p = .letters then some .letters else if p = .figures then some .figures else none := by
  cases p <;> rfl

theorem shiftCode_eq (q : Plane) : shiftCode q = if q = .letters then 31#5 else 27#5 := by
  cases q <;> rfl

/-- What sending a character as a code leaves and hands over (R33, R35 to R37). -/
theorem sendAsCode_eq (cfg : CircuitConfig) (o : Outlet) (a : Office) (c : Code) (p : SendPlane) :
    let shifts := p.needs ≠ none ∧ (p.needs ≠ some o.plane ∨ o.shiftOwed = true)
    let plane := if shifts then p.needs.getD o.plane else o.plane
    let guard := a = cr ∧ cfg.shiftGuard = true
    sendAsCode cfg o a c p
      = ({ o with
          plane := plane
          shiftOwed := if guard then false
            else if a = space ∧ cfg.unshiftOnSpace = true then true
            else if shifts then false else o.shiftOwed
          column := if a = cr then 0
            else if 32 ≤ a.toNat ∧ a.toNat ≤ 126 then min (o.column + 1) (max 255 o.column)
            else o.column },
        (if shifts then [shiftCode plane] else []) ++ [c] ++ if guard then [shiftCode plane] else []) := by
  intro shifts plane guard
  have needed : shiftFor o p = if shifts then p.needs else none := shiftFor_eq o p
  by_cases must : shifts
  · obtain ⟨q, needs⟩ := Option.ne_none_iff_exists'.1 must.1
    have isPlane : plane = q := by rw [show plane = _ from if_pos must, needs, Option.getD_some]
    rw [if_pos must, needs] at needed
    rw [sendAsCode_shifted needed, owedAfter_eq, columnAfter_eq, if_pos must, if_pos must, isPlane]
  · have isPlane : plane = o.plane := if_neg must
    rw [if_neg must] at needed
    rw [sendAsCode_unshifted needed, owedAfter_eq, columnAfter_eq, if_neg must, if_neg must, isPlane,
      List.nil_append]

/-! ## A character by its verdict -/

theorem convertChar_code {pg : Page} {cfg : CircuitConfig} {o : Outlet} {ch : Office} {c : Code}
    {p : SendPlane} (verdict : pg.verdict ch = .code c p) :
    convertChar pg cfg o ch = sendAsCode cfg o ch c p := by
  unfold convertChar
  rw [verdict]

theorem convertChar_drop {pg : Page} {cfg : CircuitConfig} {o : Outlet} {ch : Office}
    (verdict : pg.verdict ch = .drop) : convertChar pg cfg o ch = o.dropped := by
  unfold convertChar
  rw [verdict]

theorem convertChar_substitute {pg : Page} {cfg : CircuitConfig} {o : Outlet} {ch : Office} {c : Code}
    {p : SendPlane} (verdict : pg.verdict ch = .subst) (substitute : pg.verdict pg.substitute = .code c p) :
    convertChar pg cfg o ch
      = sendAsCode cfg { o with substitutions := inc o.substitutions } pg.substitute c p := by
  unfold convertChar
  rw [verdict, substitute]

theorem convertChar_noSubstitute {pg : Page} {cfg : CircuitConfig} {o : Outlet} {ch : Office}
    (verdict : pg.verdict ch = .subst)
    (substitute : pg.verdict pg.substitute = .subst ∨ pg.verdict pg.substitute = .drop) :
    convertChar pg cfg o ch = o.dropped := by
  unfold convertChar
  rcases substitute with h | h <;> rw [verdict, h]

/-- Settles O60, by the verdict of the character and whether what is sent needs a shift. -/
theorem sendConversionShiftsSubstitutesAndDrops : Obligations.SendConversionShiftsSubstitutesAndDrops := by
  intro pg cfg o ch r verdict dropped sent
  have sentAs (a : Office) (c : Code) (p : SendPlane) (subs : Nat)
      (isSent : r = sendAsCode cfg { o with substitutions := subs } a c p) : sent a c p subs := by
    have eq := sendAsCode_eq cfg { o with substitutions := subs } a c p
    simp only [SendPlane.needs_eq, shiftCode_eq] at eq
    exact isSent.trans eq
  exact ⟨fun c p code => sentAs ch c p _ (convertChar_code code), fun drop => convertChar_drop drop,
    fun subst => ⟨fun c p code => sentAs _ c p _ (convertChar_substitute subst code),
      fun none_ => convertChar_noSubstitute subst none_⟩⟩

end Sys2Proof.Machine

/-! PROOF. The service order at a unit boundary (R121 to R124). -/

namespace Sys2Proof.Machine

variable {s t u : State} {o : Fin 24} {h : Fin 48}

/-! ## The holder's entry -/

/-- A change made only to a CARRYING entry is made to the holder's entry, whatever else it asks. -/
theorem modEntry_holder (ok : s.TableOk) (holds : (s.outlet o).holder = some h) {f g : Entry → Entry}
    (carried : ∀ e, e.state = .carrying → g e = f e) :
    (s.story h).modEntry o g = { s.story h with
      entries := (s.story h).entries.map (fun e => if e.outlet = o then f e else e) } := by
  obtain ⟨e, he, ho, carrying⟩ := ok.holderEntry holds
  unfold Story.modEntry
  congr 1
  refine List.map_congr_left fun d hd => ?_
  by_cases at_o : d.outlet = o
  · have same : d = e := entry_unique (ok.stories h).sorted hd he (at_o.trans ho.symm)
    rw [if_pos at_o, if_pos at_o, carried d (same ▸ carrying)]
  · rw [if_neg at_o, if_neg at_o]

/-- What suspending a holder that has caught up writes (R90, R121). -/
def heldBack (o : Fin 24) (h : Fin 48) (s : State) : State :=
  { s with
    stories := s.stories.set h { s.story h with
      changed := true
      entries := (s.story h).entries.map (fun e => if e.outlet = o then
        { e with state := .suspended .held, holdMark := false } else e) }
    outlets := s.outlets.set o { s.outlet o with
      waiting := (s.outlet o).waiting ++ [h], holder := none
      owed := if (s.outlet o).state.takesItems then addItem ⟨.held, h⟩ (s.outlet o).owed
        else (s.outlet o).owed } }

theorem oweItem_modOutlet_suspend (kind : OwedKind) :
    oweItem o kind h (s.modOutlet o (fun x => x.suspend h)) = s.modOutlet o (fun x => { x with
      waiting := x.waiting ++ [h], holder := none
      owed := if x.state.takesItems then addItem ⟨kind, h⟩ x.owed else x.owed }) := by
  have state : ((s.modOutlet o (fun x => x.suspend h)).outlet o).state = (s.outlet o).state := by
    rw [State.outlet_modOutlet_self]
    rfl
  unfold oweItem
  rw [state]
  split_ifs with takes
  · rw [State.modOutlet_modOutlet, State.modOutlet_eq rfl, State.modOutlet_eq rfl, if_pos takes]
    rfl
  · rw [State.modOutlet_eq rfl, State.modOutlet_eq rfl, if_neg takes]
    rfl

theorem suspendCaughtUp_due (ok : s.TableOk) (holds : (s.outlet o).holder = some h) {e : Entry}
    (he : e ∈ (s.story h).entries) (ho : e.outlet = o) (marked : e.holdMark = true)
    (caughtUp : e.read = (s.story h).taken) : suspendCaughtUp o s = heldBack o h s := by
  have suspends := modEntry_holder ok holds (g := Entry.suspendHeld)
    (f := fun e => { e with state := .suspended .held, holdMark := false }) fun e carrying => if_pos carrying
  unfold suspendCaughtUp
  rw [holds]
  dsimp only
  rw [ok.entry_eq he ho, if_pos (by simp [marked, caughtUp]), oweItem_modOutlet_suspend,
    State.modStory_eq (congrArg (fun x : Story => { x with changed := true }) suspends)]
  rfl

theorem suspendCaughtUp_not (ok : s.TableOk) (none_ : ∀ h, (s.outlet o).holder = some h →
    ∀ e ∈ (s.story h).entries, e.outlet = o → e.holdMark = true → e.read ≠ (s.story h).taken) :
    suspendCaughtUp o s = s := by
  unfold suspendCaughtUp
  cases holds : (s.outlet o).holder with
  | none => rfl
  | some h =>
    obtain ⟨e, he, ho, _⟩ := ok.holderEntry holds
    refine if_neg ?_
    rw [ok.entry_eq he ho, Option.any_some, Bool.and_eq_true, decide_eq_true_iff]
    exact fun ⟨marked, caughtUp⟩ => none_ h holds e he ho marked caughtUp

/-! ## A unit begun -/

/-- A unit begun with its characters and no codes yet (R119). -/
theorem beginUnit_eq (kind : UnitKind) (chars : List Office) : beginUnit o kind chars s
    = { s with
        outlets := s.outlets.set o
          { s.outlet o with unit := some { kind := kind, codes := [], chars := chars } } } :=
  State.modOutlet_eq rfl

/-- The line of an owed item (R132). -/
def State.itemLine (s : State) (i : OwedItem) : List Office := framed ((s.story i.slot).itemText i.kind)

theorem beginItem_eq (i : OwedItem) (rest : List OwedItem) : beginItem o i rest s
    = beginUnit o (.notice .item) (s.itemLine i)
        { s with outlets := s.outlets.set o { s.outlet o with owed := rest } } :=
  congrArg (beginUnit o (.notice .item) (s.itemLine i)) (State.modOutlet_eq rfl)

/-! ## The service order -/

theorem takeBoundary_answerback (owed : ((suspendCaughtUp o s).outlet o).answerbackOwed = true) :
    takeBoundary o s = beginUnit o .answerback ((suspendCaughtUp o s).answerbackOf o) (suspendCaughtUp o s) :=
  if_pos owed

theorem takeBoundary_item {i : OwedItem} {rest : List OwedItem}
    (answerback : ((suspendCaughtUp o s).outlet o).answerbackOwed = false)
    (owed : ((suspendCaughtUp o s).outlet o).owed = i :: rest) :
    takeBoundary o s = beginItem o i rest (suspendCaughtUp o s) := by
  unfold takeBoundary
  dsimp only
  simp only [answerback, owed, Bool.false_eq_true, if_false]

theorem takeBoundary_reply {l : List Office}
    (answerback : ((suspendCaughtUp o s).outlet o).answerbackOwed = false)
    (owed : ((suspendCaughtUp o s).outlet o).owed = [])
    (reply : (suspendCaughtUp o s).replyOf o = some l) :
    takeBoundary o s = beginUnit o .reply (framed l) (suspendCaughtUp o s) := by
  unfold takeBoundary
  dsimp only
  simp only [answerback, owed, reply, Bool.false_eq_true, if_false]

theorem takeBoundary_carried
    (answerback : ((suspendCaughtUp o s).outlet o).answerbackOwed = false)
    (owed : ((suspendCaughtUp o s).outlet o).owed = [])
    (reply : (suspendCaughtUp o s).replyOf o = none) :
    takeBoundary o s = beginCarried o (suspendCaughtUp o s) := by
  unfold takeBoundary
  dsimp only
  simp only [answerback, owed, reply, Bool.false_eq_true, if_false]

theorem beginCarried_item {i : OwedItem} {rest : List OwedItem}
    (owed : ((arbitrate o s).outlet o).owed = i :: rest) :
    beginCarried o s = beginItem o i rest (arbitrate o s) := by
  unfold beginCarried
  simp only [owed]

theorem beginCarried_free (owed : ((arbitrate o s).outlet o).owed = [])
    (free : ((arbitrate o s).outlet o).holder = none) : beginCarried o s = arbitrate o s := by
  unfold beginCarried
  simp only [owed, free]

theorem beginCarried_holder {e : Entry} (owed : ((arbitrate o s).outlet o).owed = [])
    (holds : ((arbitrate o s).outlet o).holder = some h) (entry : (arbitrate o s).entry o h = some e) :
    beginCarried o s = beginHolder o h e (arbitrate o s) := by
  unfold beginCarried
  simp only [owed, holds, entry]

theorem beginHolder_notice {e : Entry} {line : List Office} (notice : (s.story h).noticeText e.owed = some line) :
    beginHolder o h e s = beginUnit o (.notice (.entry h)) (framed line) s := by
  unfold beginHolder
  simp only [notice]

theorem beginHolder_text {e : Entry} {ch : Office} (notice : e.owed = .none)
    (behind : e.read < (s.story h).taken) (char : (s.story h).textAt e.read = some ch) :
    beginHolder o h e s = beginText o h ch s := by
  unfold beginHolder Story.noticeText
  simp only [notice, if_pos behind, char]

theorem beginHolder_caughtUp {e : Entry} (notice : e.owed = .none) (level : e.read = (s.story h).taken) :
    beginHolder o h e s = if (s.story h).state = .closing
      then beginUnit o (.notice (.closer h)) (framed (s.story h).closerText) s else s := by
  unfold beginHolder Story.noticeText
  simp only [notice, level, lt_irrefl, if_false]

/-- The holder's next character begun: its read advance is on the holder's entry (R122, R87). -/
theorem beginText_eq (ok : s.TableOk) (holds : (s.outlet o).holder = some h) (ch : Office) :
    beginText o h ch s = offerWrite h (beginUnit o .text
      (textChars (s.widthOf o) (s.outlet o).column (s.willSend o ch) ch)
      { s with stories := s.stories.set h { s.story h with
          changed := true
          entries := (s.story h).entries.map (fun e => if e.outlet = o then
            { e with read := e.read + 1, delivered := e.delivered + 1 } else e) } }) := by
  have advances := modEntry_holder ok holds (g := Entry.advance)
    (f := fun e => { e with read := e.read + 1, delivered := e.delivered + 1 })
    fun e carrying => if_pos carrying
  unfold beginText
  dsimp only
  rw [State.modStory_eq (congrArg (fun x : Story => { x with changed := true }) advances)]

/-! ## Obligation -/

theorem Story.headerText_eq (st : Story) : st.headerText
    = text ['N', 'R', 'N', 'R', ' '] ++ fourDigits st.number ++ [space]
      ++ (st.priority.map Priority.letter).toList ++ [space]
      ++ (st.desk.map (fun d => [d.first, d.second])).getD [] ++ space :: st.slug.getD []
      ++ (st.correctionOf.map (fun n => text [' ', 'C', ' '] ++ fourDigits n)).getD [] := by
  have correction : st.correctionText
      = (st.correctionOf.map (fun n => text [' ', 'C', ' '] ++ fourDigits n)).getD [] := by
    unfold Story.correctionText
    cases st.correctionOf <;> rfl
  unfold Story.headerText
  rw [correction, List.append_assoc _ [space] st.slugText]
  rfl

theorem replyOf_terminal (s : State) (t : Fin 8) :
    s.replyOf (terminalOutlet t) = (s.port t).replySlot := by
  unfold State.replyOf
  rw [outletTerminal_terminal]

theorem replyOf_line (s : State) (c : Fin 16) : s.replyOf (lineOutlet c) = none := by
  unfold State.replyOf
  rw [outletTerminal_line]

theorem answerbackOf_line (s : State) (c : Fin 16) :
    s.answerbackOf (lineOutlet c) = (s.circuit c).config.answerback := by
  unfold State.answerbackOf
  rw [outletCircuit_line]

/-- A new line goes before a character that is printable and no space, at or beyond the width (R38). -/
theorem textWide_iff {width column : Nat} {sent : Bool} {ch : Office} :
    (width ≠ 0 ∧ width ≤ column ∧ isPrintable ch = true ∧ ch ≠ space ∧ sent = true)
      ↔ width ≠ 0 ∧ width ≤ column ∧ (32 < ch.toNat ∧ ch.toNat ≤ 126) ∧ sent = true := by
  have gap : ch = space ↔ ch.toNat = 32 := BitVec.toNat_eq
  have printed : isPrintable ch = true ↔ 32 ≤ ch.toNat ∧ ch.toNat ≤ 126 := decide_eq_true_iff
  rw [printed, ne_eq ch, gap]
  refine and_congr_right fun _ => and_congr_right fun _ => ?_
  rw [← and_assoc]
  exact and_congr_left fun _ => by omega

/-- Settles O58: the service order step by step, on the state the caught-up holder leaves and on the
one arbitration leaves. -/
theorem unitBoundaryFollowsTheServiceOrder : Obligations.UnitBoundaryFollowsTheServiceOrder := by
  intro s o ok y caughtUp v z w line begun number slug itemLine item header
  have okV : v.TableOk := ok.suspendCaughtUp
  have okW : w.TableOk := okV.arbitrate
  have begins (a : State) (kind : UnitKind) (chars : List Office) :
      beginUnit o kind chars a = begun a kind chars := beginUnit_eq kind chars
  have itemText (a : State) (i : OwedItem) : a.itemLine i = line (itemLine a i) := by
    obtain ⟨kind, k⟩ := i
    cases kind with
    | breakIn | held | cut => rfl
    | kill => exact congrArg framed (List.append_assoc _ [space] _)
  have items (a : State) (i : OwedItem) (rest : List OwedItem) : beginItem o i rest a = item a i rest := by
    rw [beginItem_eq, begins, itemText]
  refine ⟨fun h due => ?_, fun none_ => ?_, fun owed c line_ => ?_, fun answerback i rest owed => ?_,
    fun answerback owed t l terminal reply => ?_, fun answerback owed free => ?_⟩
  · obtain ⟨holds, e, he, ho, marked, level⟩ := due
    exact suspendCaughtUp_due ok holds he ho marked level
  · exact suspendCaughtUp_not ok fun h holds e he ho marked level => none_ h ⟨holds, e, he, ho, marked, level⟩
  · subst line_
    rw [takeBoundary_answerback owed, answerbackOf_line, begins]
  · exact (takeBoundary_item answerback owed).trans (items ..)
  · subst terminal
    exact (takeBoundary_reply answerback owed ((replyOf_terminal ..).trans reply)).trans (begins ..)
  · have reply : v.replyOf o = none := by
      rcases line_or_terminal o with ⟨c, rfl⟩ | ⟨t, rfl⟩
      · exact replyOf_line v c
      · exact (replyOf_terminal v t).trans (free t rfl)
    rw [takeBoundary_carried answerback owed reply]
    refine ⟨fun i rest owed => (beginCarried_item owed).trans (items ..), beginCarried_free,
      fun owed h holds e he ho => ?_⟩
    have entry : w.entry o h = some e := okW.entry_eq he ho
    rw [beginCarried_holder owed holds entry]
    intro st entryNotice
    have headers : st.headerText = header h := Story.headerText_eq st
    have joined : st.joinedText = header h ++ text [' ', 'J', 'O', 'I', 'N', 'E', 'D'] :=
      congrArg (· ++ _) headers
    have noticed (l : List Office) (notice : st.noticeText e.owed = some l) :
        beginHolder o h e w = entryNotice l := (beginHolder_notice notice).trans (begins ..)
    refine ⟨fun owed => noticed _ ?_, fun owed => noticed _ ?_, fun owed => noticed _ ?_,
      fun owed behind ch char => ?_, fun owed level closing => ?_, fun owed level open_ => ?_⟩
    · rw [owed, ← headers]
      rfl
    · rw [owed, ← joined]
      rfl
    · rw [owed]
      exact congrArg some (List.append_assoc _ [space] _)
    · intro wide
      rw [beginHolder_text owed behind char, beginText_eq okW holds, begins]
      have chars : textChars (w.widthOf o) (w.outlet o).column (w.willSend o ch) ch
          = if wide then [cr, lf, ch] else [ch] := if_congr (textWide_iff ..) rfl rfl
      rw [chars]
    · exact (beginHolder_caughtUp owed level).trans ((if_pos closing).trans (begins ..))
    · exact (beginHolder_caughtUp owed level).trans (if_neg open_)

end Sys2Proof.Machine

/-! PROOF. What an outlet has to do, said of its records (R114 to R117, R119). -/

namespace Sys2Proof.Machine

variable {s t u : State} {o : Fin 24}

/-! ## What will be sent -/

theorem sendAsCode_codes_ne_nil (cfg : CircuitConfig) (x : Outlet) (a : Office) (c : Code) (p : SendPlane) :
    (sendAsCode cfg x a c p).2 ≠ [] := by
  rw [sendAsCode_eq]
  simp

/-- A character is sent exactly where its conversion yields a code (R33, R34). -/
theorem sends_iff (pg : Page) (cfg : CircuitConfig) (x : Outlet) (ch : Office) :
    pg.sends ch = true ↔ (convertChar pg cfg x ch).2 ≠ [] := by
  unfold Page.sends convertChar
  cases pg.verdict ch with
  | code c p => exact ⟨fun _ => sendAsCode_codes_ne_nil cfg x ch c p, fun _ => rfl⟩
  | drop => exact ⟨nofun, fun some_ => absurd rfl some_⟩
  | subst =>
    cases pg.verdict pg.substitute with
    | code c p => exact ⟨fun _ => sendAsCode_codes_ne_nil cfg _ _ c p, fun _ => rfl⟩
    | drop | subst => exact ⟨nofun, fun some_ => absurd rfl some_⟩

/-- A character is sent on an outlet: on a line outlet, if its conversion yields a code. -/
def State.SentOn (s : State) (o : Fin 24) (ch : Office) : Prop := ∀ c, o = lineOutlet c →
  (convertChar (s.page (s.circuit c).config.page) (s.circuit c).config (s.outlet o) ch).2 ≠ []

theorem willSend_iff (s : State) (o : Fin 24) (ch : Office) : s.willSend o ch = true ↔ s.SentOn o ch := by
  unfold State.willSend State.SentOn
  rcases line_or_terminal o with ⟨c, rfl⟩ | ⟨t, rfl⟩
  · rw [outletCircuit_line]
    refine (sends_iff _ _ _ _).trans ⟨fun codes d same => ?_, fun codes => codes c rfl⟩
    obtain rfl := lineOutlet_inj.1 same
    exact codes
  · rw [outletCircuit_terminal]
    exact ⟨fun _ d same => absurd same.symm (lineOutlet_ne_terminalOutlet d t), fun _ => rfl⟩

/-- What is left of a unit yields a code or a character (R119). -/
def State.Yields (s : State) (o : Fin 24) (u : OutUnit) : Prop := u.codes ≠ [] ∨ ∃ ch ∈ u.chars, s.SentOn o ch

theorem silent_eq_false_iff (s : State) (o : Fin 24) (u : OutUnit) : s.silent o u = false ↔ s.Yields o u := by
  unfold State.silent State.Yields
  rw [Bool.and_eq_false_iff, List.isEmpty_eq_false_iff, List.all_eq_false]
  simp only [Bool.not_eq_true', ← willSend_iff, Bool.not_eq_false]

theorem silent_iff (s : State) (o : Fin 24) (u : OutUnit) : s.silent o u = true ↔ ¬s.Yields o u := by
  rw [← silent_eq_false_iff, Bool.not_eq_false]

/-! ## Work -/

theorem replyOf_isSome_iff (s : State) (o : Fin 24) :
    (s.replyOf o).isSome = true ↔ ∃ p, o = terminalOutlet p ∧ (s.port p).replySlot ≠ none := by
  rcases line_or_terminal o with ⟨c, rfl⟩ | ⟨t, rfl⟩
  · rw [replyOf_line]
    exact ⟨nofun, fun ⟨p, same, _⟩ => absurd same (lineOutlet_ne_terminalOutlet c p)⟩
  · rw [replyOf_terminal, Option.isSome_iff_ne_none]
    refine ⟨fun some_ => ⟨t, rfl, some_⟩, fun ⟨p, same, some_⟩ => ?_⟩
    obtain rfl := terminalOutlet_inj.1 same
    exact some_

theorem holderWorks_iff (s : State) (o : Fin 24) : s.holderWorks o = true ↔ ∃ h e,
    (s.outlet o).holder = some h ∧ (s.story h).entryOn o = some e
      ∧ (e.owed ≠ .none ∨ e.read < (s.story h).taken ∨ (s.story h).state = .closing ∨ e.holdMark = true) := by
  have works (st : Story) (e : Entry) : holderWork st e = true
      ↔ e.owed ≠ .none ∨ e.read < st.taken ∨ st.state = .closing ∨ e.holdMark = true := by
    simp [holderWork, or_assoc]
  unfold State.holderWorks State.entry
  cases (s.outlet o).holder with
  | none => simp
  | some h => simp [Option.any_eq_true, works]

/-- An outlet has work (R114). -/
def State.Work (s : State) (o : Fin 24) : Prop :=
  (∃ u, (s.outlet o).unit = some u ∧ s.Yields o u) ∨ (s.outlet o).answerbackOwed = true
  ∨ (s.outlet o).owed ≠ []
  ∨ (∃ p, o = terminalOutlet p ∧ (s.port p).replySlot ≠ none)
  ∨ (s.granted o).isSome = true
  ∨ ∃ h e, (s.outlet o).holder = some h ∧ (s.story h).entryOn o = some e
      ∧ (e.owed ≠ .none ∨ e.read < (s.story h).taken ∨ (s.story h).state = .closing ∨ e.holdMark = true)

theorem hasWork_iff (s : State) (o : Fin 24) : s.hasWork o = true ↔ s.Work o := by
  unfold State.hasWork State.Work
  simp only [Bool.or_eq_true, ← holderWorks_iff, ← replyOf_isSome_iff, Option.any_eq_true, Bool.not_eq_true',
    silent_eq_false_iff, List.isEmpty_eq_false_iff, or_assoc, ne_eq]

/-! ## Pauses and the line -/

/-- A pause cause holds (R116, R117). -/
def State.Pause (s : State) (o : Fin 24) : Prop :=
  (∃ c, o = lineOutlet c ∧ (((s.control c).settings.use = .lineBreak
      ∧ ((s.control c).phase = .counting ∨ (s.control c).phase = .holding))
    ∨ ((s.circuit c).rxPhase = .farBreak ∧ (s.circuit c).config.breakStopsSending = true)))
  ∨ ∃ p, o = terminalOutlet p ∧ (s.port p).readyIn = .low

/-- A statement about an outlet's circuit or its terminal, on a line outlet. -/
theorem line_cases {P : Fin 16 → Prop} {Q : Fin 8 → Prop} (c : Fin 16) :
    ((∃ d, lineOutlet c = lineOutlet d ∧ P d) ∨ ∃ p, lineOutlet c = terminalOutlet p ∧ Q p) ↔ P c := by
  constructor
  · rintro (⟨d, same, here⟩ | ⟨p, same, _⟩)
    · exact lineOutlet_inj.1 same ▸ here
    · exact absurd same (lineOutlet_ne_terminalOutlet c p)
  · exact fun here => .inl ⟨c, rfl, here⟩

/-- A statement about an outlet's circuit or its terminal, on a terminal outlet. -/
theorem terminal_cases {P : Fin 16 → Prop} {Q : Fin 8 → Prop} (t : Fin 8) :
    ((∃ d, terminalOutlet t = lineOutlet d ∧ P d) ∨ ∃ p, terminalOutlet t = terminalOutlet p ∧ Q p) ↔ Q t := by
  constructor
  · rintro (⟨d, same, _⟩ | ⟨p, same, here⟩)
    · exact absurd same.symm (lineOutlet_ne_terminalOutlet d t)
    · exact terminalOutlet_inj.1 same ▸ here
  · exact fun here => .inr ⟨t, rfl, here⟩

theorem pauseCause_iff (s : State) (o : Fin 24) : s.pauseCause o = true ↔ s.Pause o := by
  unfold State.Pause
  rcases line_or_terminal o with ⟨c, rfl⟩ | ⟨t, rfl⟩
  · rw [line_cases, pauseCause_line]
    simp [breaking_iff]
  · rw [terminal_cases, pauseCause_terminal, decide_eq_true_iff]

/-- A character is on the outlet's line. -/
def State.Busy (s : State) (o : Fin 24) : Prop := (∃ c, o = lineOutlet c ∧ (s.circuit c).sending ≠ none)
  ∨ ∃ p, o = terminalOutlet p ∧ (s.port p).sending ≠ none

theorem lineBusy_iff (s : State) (o : Fin 24) : s.lineBusy o = true ↔ s.Busy o := by
  unfold State.Busy
  rcases line_or_terminal o with ⟨c, rfl⟩ | ⟨t, rfl⟩
  · rw [line_cases, lineBusy_line, Option.isSome_iff_ne_none]
  · rw [terminal_cases, lineBusy_terminal, Option.isSome_iff_ne_none]

/-- The outlet's own unit's character is on its line. -/
def State.Own (s : State) (o : Fin 24) : Prop :=
  (∃ c x, o = lineOutlet c ∧ (s.circuit c).sending = some x ∧ x.owner = .unit)
  ∨ ∃ p x, o = terminalOutlet p ∧ (s.port p).sending = some x ∧ x.orphan = false

theorem ownBusy_iff (s : State) (o : Fin 24) : s.ownBusy o = true ↔ s.Own o := by
  unfold State.Own
  simp only [exists_and_left]
  rcases line_or_terminal o with ⟨c, rfl⟩ | ⟨t, rfl⟩
  · rw [line_cases, ownBusy_line, Option.any_eq_true]
    simp
  · rw [terminal_cases, ownBusy_terminal, Option.any_eq_true]
    simp

/-! ## What an outlet has to do -/

/-- A unit is over: its last character is off the line, and nothing left of it yields a code. -/
def State.Ended (s : State) (o : Fin 24) : Prop := ¬s.Own o ∧ ∃ u, (s.outlet o).unit = some u ∧ ¬s.Yields o u

theorem unitOver_iff (s : State) (o : Fin 24) : s.unitOver o = true ↔ s.Ended o := by
  unfold State.unitOver State.Ended
  rw [Bool.and_eq_true, Bool.not_eq_true', ← Bool.not_eq_true, ownBusy_iff, Option.any_eq_true, and_comm]
  simp only [silent_iff]

/-- A pause waits for the character on the line (R115, R116). -/
def State.Waits (s : State) (o : Fin 24) : Prop :=
  (∃ c, o = lineOutlet c) ∧ (s.outlet o).state = .sending ∧ s.Busy o

theorem pauseWaits_iff_waits (s : State) (o : Fin 24) : s.pauseWaits o = true ↔ s.Waits o := by
  rw [pauseWaits_iff, lineBusy_iff]
  rfl

theorem leadDone_iff (s : State) (o : Fin 24) :
    s.leadDone o = true ↔ ∀ c, o = lineOutlet c → (s.control c).motor = .running := by
  rcases line_or_terminal o with ⟨c, rfl⟩ | ⟨t, rfl⟩
  · rw [leadDone_line, decide_eq_true_iff]
    exact ⟨fun runs d same => lineOutlet_inj.1 same ▸ runs, fun runs => runs c rfl⟩
  · rw [leadDone_terminal]
    exact ⟨fun _ d same => absurd same.symm (lineOutlet_ne_terminalOutlet d t), fun _ => rfl⟩

/-- An outlet has something to do now (R115, R117). -/
def State.Due (s : State) (o : Fin 24) : Prop :=
  match (s.outlet o).state with
  | .off | .stalled => False
  | .idle => s.Work o
  | .starting => ∀ c, o = lineOutlet c → (s.control c).motor = .running
  | .sending => ¬s.Own o ∧ (s.Ended o ∨ (s.Pause o ∧ ¬s.Waits o)
      ∨ (¬s.Pause o ∧ ((s.outlet o).unit = none ∨ ¬s.Busy o)))
  | .paused => s.Ended o ∨ ¬s.Pause o

theorem stirs_iff (s : State) (o : Fin 24) : s.stirs o = true ↔ s.Due o := by
  unfold State.stirs State.Due
  cases (s.outlet o).state with
  | off | stalled => exact ⟨nofun, False.elim⟩
  | idle => exact hasWork_iff s o
  | starting => exact leadDone_iff s o
  | sending =>
    have goes : s.sendingGoesOn o = true ↔ (s.Pause o ∧ ¬s.Waits o)
        ∨ (¬s.Pause o ∧ ((s.outlet o).unit = none ∨ ¬s.Busy o)) := by
      unfold State.sendingGoesOn
      rw [← pauseCause_iff, ← pauseWaits_iff_waits, ← lineBusy_iff]
      cases s.pauseCause o <;> simp
    simp only [Bool.and_eq_true, Bool.or_eq_true, Bool.not_eq_true', unitOver_iff, goes]
    rw [← Bool.not_eq_true, ownBusy_iff]
  | paused =>
    simp only [Bool.or_eq_true, Bool.not_eq_true', unitOver_iff]
    rw [← Bool.not_eq_true, pauseCause_iff]

/-- The lowest outlet that has something to do reacts first (log 8). -/
theorem reactAll_lowest {n : Nat} (due : s.stirs o = true) (lowest : ∀ j < o, s.stirs j = false) :
    reactAll (n + 1) s = reactAll n (react o s) := by
  have first : allOutlets.find? s.stirs = some o :=
    Fin.find?_eq_find?_finRange.symm.trans (Fin.find?_eq_some_iff.2 ⟨due, lowest⟩)
  simp only [reactAll, first]

end Sys2Proof.Machine

/-! PROOF. What follows the outlets' reactions: stall timers, pause causes shown, control outputs (R116, R118,
R137, R151). -/

namespace Sys2Proof.Machine

variable {s t u : State} {o : Fin 24}

/-! ## What the last part of settling leaves as it was -/

namespace Shown

theorem control (h : Shown s u) (c : Fin 16) : (u.control c).breaking = (s.control c).breaking
    ∧ (u.control c).motor = (s.control c).motor := by
  obtain ⟨_, _, same⟩ := h.controls c
  rw [same]
  exact ⟨rfl, rfl⟩

theorem willSend (h : Shown s u) (o : Fin 24) (ch : Office) : u.willSend o ch = s.willSend o ch := by
  unfold State.willSend
  simp only [h.circuit, h.page]

theorem silent (h : Shown s u) (o : Fin 24) (x : OutUnit) : u.silent o x = s.silent o x := by
  unfold State.silent
  simp only [h.willSend]

theorem eligible (h : Shown s u) (o : Fin 24) (k : Fin 48) : u.eligible o k = s.eligible o k := by
  unfold State.eligible State.entry
  rw [h.story]

theorem key (h : Shown s u) (o : Fin 24) (k : Fin 48) : u.key o k = s.key o k := by
  unfold State.key State.standing State.entry
  rw [h.story, h.openOrder]

theorem granted (h : Shown s u) (o : Fin 24) : u.granted o = s.granted o := by
  have first (l : List (Fin 48)) : u.first o l = s.first o l := by
    unfold State.first
    simp only [h.key]
  have winner : u.winner o = s.winner o := by
    unfold State.winner
    rw [first, h.waiting, funext (h.eligible o)]
  have preempts (w x : Fin 48) : u.preempts w x = s.preempts w x := by
    unfold State.preempts
    rw [h.story, h.story]
  unfold State.granted
  simp only [winner, h.holder, preempts]

theorem holderWorks (h : Shown s u) (o : Fin 24) : u.holderWorks o = s.holderWorks o := by
  unfold State.holderWorks State.entry
  simp only [h.holder, h.story]

theorem replyOf (h : Shown s u) (o : Fin 24) : u.replyOf o = s.replyOf o := by
  unfold State.replyOf
  simp only [h.port]

theorem hasWork (h : Shown s u) (o : Fin 24) : u.hasWork o = s.hasWork o := by
  obtain ⟨_, _, _, owed, unit, answerback⟩ := h.outlet o
  unfold State.hasWork
  simp only [owed, unit, answerback, h.silent, h.replyOf, h.granted, h.holderWorks]

end Shown

/-! ## The last part of settling -/

/-- The stall timers judged, then the pause causes shown and the outputs driven (log 8). -/
def showAll (a : State) : State :=
  forEach allCircuits (fun c t => driveOutputs c (showCauses c t)) (forEach allTerminals stallTimer a)

theorem settle_eq_showAll (s : State) : settle s = showAll (reactAll Config.settleFuel s) := rfl

theorem Shown.showAll (a : State) : Shown a (showAll a) := by
  unfold Machine.showAll
  refine forEach_keeps (P := Shown _) (fun c v h => ?_) (forEach_keeps (fun t v h => ?_) (.refl _))
  · exact (h.trans (.showCauses c v)).trans (.driveOutputs c _)
  · exact h.trans (.stallTimer t v)

/-! ## Stall timers -/

/-- A stall timer judged on an outlet that has work or not (R137). -/
def Outlet.judged (y : Outlet) (work : Bool) : Outlet :=
  { y with stallTimer := if y.state = .paused ∧ work = true then some (y.stallTimer.getD 0) else none }

theorem stallTimer_outlet (p : Fin 8) (s : State) : (stallTimer p s).outlet (terminalOutlet p)
    = (s.outlet (terminalOutlet p)).judged (s.hasWork (terminalOutlet p)) := by
  unfold stallTimer Outlet.judged
  simp only [State.outlet_modOutlet_self, Bool.and_eq_true, decide_eq_true_eq]

theorem showAll_terminal (a : State) (p : Fin 8) : (showAll a).outlet (terminalOutlet p)
    = (a.outlet (terminalOutlet p)).judged (a.hasWork (terminalOutlet p)) := by
  have timers := forEach_at (f := stallTimer) (a := p) (l := allTerminals)
    (fun w => (w.outlet (terminalOutlet p), w.hasWork (terminalOutlet p)))
    (fun (y, work) => (y.judged work, work))
    (fun w => by rw [stallTimer_outlet, (Shown.stallTimer p w).hasWork])
    (fun b w other => by
      rw [(Shown.stallTimer b w).hasWork]
      unfold stallTimer
      rw [State.outlet_modOutlet, if_neg fun same => other (terminalOutlet_inj.1 same).symm])
    (List.nodup_finRange 8) (List.mem_finRange p) a
  exact (forEach_same (f := fun c v => driveOutputs c (showCauses c v))
    (fun w => w.outlet (terminalOutlet p)) (fun c w => showCauses_terminal c w p) allCircuits _).trans
    (congrArg Prod.fst timers)

/-! ## Pause causes shown -/

/-- A line outlet with the pause causes shown: none while it is OFF (R116, R118). -/
def Outlet.showing (y : Outlet) (breaking far : Bool) : Outlet :=
  let on := decide (y.state ≠ .off)
  { y with counterBreak := on && breaking, farBreak := on && far }

/-- A far break that stops sending (R116). -/
def Circuit.farStops (x : Circuit) : Bool := decide (x.rxPhase = .farBreak) && x.config.breakStopsSending

theorem showCauses_line (c : Fin 16) (s : State) : (driveOutputs c (showCauses c s)).outlet (lineOutlet c)
    = (s.outlet (lineOutlet c)).showing (s.control c).breaking (s.circuit c).farStops := by
  unfold driveOutputs showCauses Outlet.showing Circuit.farStops
  rw [State.outlet_modControl, State.outlet_modOutlet_self, Bool.and_assoc]

theorem showAll_line (a : State) (c : Fin 16) : (showAll a).outlet (lineOutlet c)
    = (a.outlet (lineOutlet c)).showing (a.control c).breaking (a.circuit c).farStops := by
  have timers := forEach_same (f := stallTimer)
    (fun w => (w.outlet (lineOutlet c), w.control c, w.circuit c))
    (fun p w => by
      unfold stallTimer
      rw [State.outlet_modOutlet, if_neg (lineOutlet_ne_terminalOutlet c p)]
      rfl) allTerminals a
  unfold showAll
  generalize forEach allTerminals stallTimer a = b at timers ⊢
  simp only [Prod.mk.injEq] at timers
  obtain ⟨outlet, control, circuit⟩ := timers
  have causes := forEach_at (f := fun c v => driveOutputs c (showCauses c v)) (a := c) (l := allCircuits)
    (fun w => (w.outlet (lineOutlet c), (w.control c).breaking, w.circuit c))
    (fun (y, breaking, x) => (y.showing breaking x.farStops, breaking, x))
    (fun w => by
      have shown := (Shown.showCauses c w).trans (.driveOutputs c _)
      rw [showCauses_line, (shown.control c).1, shown.circuit])
    (fun b w other => by
      have shown := (Shown.showCauses b w).trans (.driveOutputs b _)
      have outlet : (driveOutputs b (showCauses b w)).outlet (lineOutlet c) = w.outlet (lineOutlet c) := by
        unfold driveOutputs showCauses
        rw [State.outlet_modControl, State.outlet_modOutlet,
          if_neg fun same => other (lineOutlet_inj.1 same).symm]
      rw [outlet, (shown.control c).1, shown.circuit])
    (List.nodup_finRange 16) (List.mem_finRange c) b
  rw [outlet, control, circuit] at causes
  exact congrArg Prod.fst causes

/-! ## Control outputs -/

theorem showAll_control (a : State) (c : Fin 16) : (showAll a).control c = { a.control c with
    motorOut := a.outputLevel c (a.control c).motorSel
    signalOut := a.outputLevel c (a.control c).signalSel } := by
  have shown := Shown.showAll a
  obtain ⟨motor, signal⟩ := driveAll_on (forEach allTerminals stallTimer a) c
  rw [← showAll] at motor signal
  obtain ⟨m, g, same⟩ := shown.controls c
  rw [(shown.alike c).outputLevel, same] at motor signal
  rw [same]
  exact congrArg₂ (fun m g => { a.control c with motorOut := m, signalOut := g }) motor signal

/-- A condition of a circuit holds (R151). -/
def State.Holds (s : State) (c : Fin 16) (x : Condition) : Prop :=
  let y := s.outlet (lineOutlet c)
  match x with
  | .motorWanted => (s.control c).motor ≠ .off
  | .counterWave => (s.control c).wave = .high
  | .flashHeld => ∃ h, y.holder = some h ∧ (s.story h).priority = some .f
  | .storyWaiting => ∃ k ∈ y.waiting, (s.story k).state ≠ .held
      ∧ ∃ e, (s.story k).entryOn (lineOutlet c) = some e
        ∧ (e.state = .waiting ∨ e.state = .suspended .preempted)
  | .farBreak => (s.circuit c).rxPhase = .farBreak
  | .outletPaused => y.state = .paused
  | .zero => False

theorem grantable_iff (x : EntryState) : x.grantable = true ↔ x = .waiting ∨ x = .suspended .preempted := by
  cases x with
  | suspended why => cases why <;> simp [EntryState.grantable]
  | waiting | carrying | done | cut _ => simp [EntryState.grantable]

theorem condition_iff (s : State) (c : Fin 16) (x : Condition) : s.condition c x = true ↔ s.Holds c x := by
  unfold State.condition State.Holds
  cases x with
  | motorWanted => cases (s.control c).motor <;> simp [MotorState.wanted]
  | counterWave | farBreak | outletPaused => exact decide_eq_true_iff
  | flashHeld => simp [Option.any_eq_true]
  | storyWaiting =>
    simp only [List.any_eq_true, State.eligible, State.entry, Bool.and_eq_true, Option.any_eq_true,
      grantable_iff, decide_eq_true_eq, and_comm]
  | zero => exact ⟨nofun, False.elim⟩

/-- A selector's level by what holds (R151). -/
theorem outputLevel_gives (s : State) (c : Fin 16) (x : Selector) : let l := s.outputLevel c x
    if (s.circuit c).state = .closed then l = .low
    else (s.Holds c x.inputA → s.Holds c x.inputB → l = x.tt)
      ∧ (s.Holds c x.inputA → ¬s.Holds c x.inputB → l = x.tf)
      ∧ (¬s.Holds c x.inputA → s.Holds c x.inputB → l = x.ft)
      ∧ (¬s.Holds c x.inputA → ¬s.Holds c x.inputB → l = x.ff) := by
  intro l
  split_ifs with closed
  · exact if_pos closed
  · have level : l = x.level (s.condition c) := if_neg closed
    rw [level]
    unfold Selector.level
    simp only [← condition_iff]
    cases s.condition c x.inputA <;> cases s.condition c x.inputB <;> simp

end Sys2Proof.Machine

/-! PROOF. Units completed, outlets driven, and the reactions of an outlet (R9, R53, R54, R82, R87, R114 to R120,
R135, R141, R142). -/

namespace Sys2Proof.Machine

variable {s t u : State} {o : Fin 24} {k : Fin 48}

/-! ## Records written -/

/-- A state with one outlet's record replaced. -/
def State.withOutlet (s : State) (o : Fin 24) (x : Outlet) : State := { s with outlets := s.outlets.set o x }

/-- A state with one control unit replaced. -/
def State.withControl (s : State) (c : Fin 16) (x : Control) : State :=
  { s with controls := s.controls.set c x }

@[simp] theorem State.outlet_withOutlet (s : State) (o : Fin 24) (x : Outlet) : (s.withOutlet o x).outlet o = x :=
  (State.get_set ..).trans (if_pos rfl)

@[simp] theorem State.control_withControl (s : State) (c : Fin 16) (x : Control) :
    (s.withControl c x).control c = x := (State.get_set ..).trans (if_pos rfl)

theorem State.modOutlet_withOutlet (s : State) (o : Fin 24) (x : Outlet) (f : Outlet → Outlet) :
    (s.withOutlet o x).modOutlet o f = s.withOutlet o (f x) := by
  rw [State.modOutlet_eq (congrArg f (s.outlet_withOutlet o x))]
  exact congrArg (fun w => { s with outlets := w }) (vector_set_set ..)

theorem State.modControl_withControl (s : State) (c : Fin 16) (x : Control) (f : Control → Control) :
    (s.withControl c x).modControl c f = s.withControl c (f x) := by
  rw [State.modControl_eq (congrArg f (s.control_withControl c x))]
  exact congrArg (fun w => { s with controls := w }) (vector_set_set ..)

theorem State.modOutlet_eq_withOutlet {f : Outlet → Outlet} : s.modOutlet o f = s.withOutlet o (f (s.outlet o)) := rfl

theorem setOutletState_eq (st : OutletState) :
    setOutletState o st s = s.withOutlet o { s.outlet o with state := st } := rfl

/-! ## A unit completed -/

/-- An outlet whose unit is completed: each character left is dropped (R33, R119). -/
def Outlet.unitDone (y : Outlet) (u : OutUnit) : Outlet :=
  { y with unit := none, drops := incBy u.chars.length y.drops }

/-- What a unit's completion records besides (R120). -/
def unitRecord (o : Fin 24) (kind : UnitKind) (s : State) : State :=
  match kind with
  | .text | .notice .item => s
  | .notice (.entry k) => s.modCarried o k Entry.noticed
  | .notice (.closer k) => claimDone o k s
  | .reply => emptyReply o s
  | .answerback => s.modOutlet o (fun x => { x with answerbackOwed := false })

theorem completeUnit_eq (x : OutUnit) : completeUnit o x s
    = unitRecord o x.kind (s.withOutlet o ((s.outlet o).unitDone x)) := by
  unfold completeUnit unitRecord
  rfl

/-- A change made to a story's CARRYING entry for an outlet. -/
def Story.onCarried (st : Story) (o : Fin 24) (f : Entry → Entry) : Story :=
  { st with
    changed := true
    entries := st.entries.map (fun e => if e.outlet = o ∧ e.state = .carrying then f e else e) }

theorem modStory_carried {f g : Entry → Entry} (carried : ∀ e, g e = if e.state = .carrying then f e else e) :
    s.modStory k (fun st => st.modEntry o g)
      = { s with stories := s.stories.set k ((s.story k).onCarried o f) } := by
  refine State.modStory_eq ?_
  unfold Story.modEntry Story.onCarried
  simp only [carried, ite_and]

theorem modCarried_holder (x : Outlet) (holds : x.holder = some k) {f g : Entry → Entry}
    (carried : ∀ e, g e = if e.state = .carrying then f e else e) :
    (s.withOutlet o x).modCarried o k g = { s.withOutlet o x with
      stories := s.stories.set k ((s.story k).onCarried o f) } := by
  unfold State.modCarried
  rw [State.outlet_withOutlet, if_pos holds, modStory_carried carried]
  rfl

theorem modCarried_other (x : Outlet) (other : x.holder ≠ some k) (g : Entry → Entry) :
    (s.withOutlet o x).modCarried o k g = s.withOutlet o x := by
  unfold State.modCarried
  rw [State.outlet_withOutlet, if_neg other]

theorem doneDue_iff (x : Outlet) : (s.withOutlet o x).doneDue o k = true ↔ x.holder = some k
    ∧ (s.story k).state = .closing ∧ ∃ e, (s.story k).entryOn o = some e ∧ e.read = (s.story k).taken := by
  have story : (s.withOutlet o x).story k = s.story k := rfl
  unfold State.doneDue State.entry
  simp only [State.outlet_withOutlet, story, Bool.and_eq_true, decide_eq_true_eq, Option.any_eq_true, and_assoc]

theorem claimDone_due (x : Outlet) (due : (s.withOutlet o x).doneDue o k = true) :
    claimDone o k (s.withOutlet o x) = afterCut k o
      ({ s with stories := s.stories.set k ((s.story k).onCarried o (fun e => { e with
          state := .done, lost := 0, owed := .none })) } |>.withOutlet o { x with holder := none }) := by
  unfold claimDone
  rw [if_pos due, modStory_carried (g := Entry.finish)
    (f := fun e => { e with state := .done, lost := 0, owed := .none }) fun e => rfl]
  refine congrArg (afterCut k o) ?_
  exact State.modOutlet_withOutlet { s with stories := _ } o x _

theorem emptyReply_line (c : Fin 16) : emptyReply (lineOutlet c) s = s := by
  unfold emptyReply
  simp only [outletTerminal_line]

theorem emptyReply_terminal (p : Fin 8) : emptyReply (terminalOutlet p) s
    = { s with ports := s.ports.set p { s.port p with replySlot := none } } := by
  unfold emptyReply
  rw [outletTerminal_terminal]
  rfl

/-! ## Driving -/

theorem drive_none_waits (n : Nat) (unit : (s.outlet o).unit = none) (pause : s.pauseCause o = true)
    (waits : s.pauseWaits o = true) : drive (n + 1) o s = s :=
  (drive_none_paused n unit pause).trans (pauseOutlet_waits waits)

theorem fallIdle_terminal (p : Fin 8) : fallIdle (terminalOutlet p) s
    = setOutletState (terminalOutlet p) .idle s := by
  unfold fallIdle
  simp only [outletCircuit_terminal]

theorem fallIdle_line (c : Fin 16) : fallIdle (lineOutlet c) s
    = (setOutletState (lineOutlet c) .idle s).withControl c
      ((s.control c).motorRunOn (s.circuit c).config.runOn) := by
  unfold fallIdle
  rw [outletCircuit_line]
  rfl

theorem handOver_terminal {p : Fin 8} {x : OutUnit} {ch : Office} {rest : List Office} (y : Outlet)
    (chars : x.chars = ch :: rest) : handOver (terminalOutlet p) x (s.withOutlet (terminalOutlet p) y)
      = { s with ports := s.ports.set p { s.port p with sending := some ((s.port p).startChar ch) } }.withOutlet
          (terminalOutlet p)
          { y with unit := some { x with chars := rest }, column := columnAfter ch y.column } := by
  unfold handOver
  rw [outletCircuit_terminal, outletTerminal_terminal, chars]
  exact State.modOutlet_withOutlet { s with ports := _ } _ y _

theorem handOver_line {c : Fin 16} {x : OutUnit} {code : Code} {rest : List Code} (y : Outlet)
    (codes : x.codes = code :: rest) : handOver (lineOutlet c) x (s.withOutlet (lineOutlet c) y)
      = { s with circuits := s.circuits.set c { s.circuit c with
            sending := some ((s.circuit c).startChar code .unit) } }.withOutlet (lineOutlet c)
          { y with unit := some { x with codes := rest } } := by
  unfold handOver
  rw [outletCircuit_line, codes]
  exact State.modOutlet_withOutlet { s with circuits := _ } _ y _

/-- A conversion skips the characters that will not be sent, each a drop (R33, R34). -/
theorem convertNext_line {c : Fin 16} {x : OutUnit} {skipped rest : List Office} {ch : Office} (y : Outlet)
    (chars : x.chars = skipped ++ ch :: rest)
    (silent : ∀ d ∈ skipped, s.willSend (lineOutlet c) d = false)
    (sends : s.willSend (lineOutlet c) ch = true) :
    let r := convertChar (s.page (s.circuit c).config.page) (s.circuit c).config
      { y with drops := incBy skipped.length y.drops } ch
    convertNext (lineOutlet c) x (s.withOutlet (lineOutlet c) y)
      = s.withOutlet (lineOutlet c) { r.1 with unit := some { x with codes := r.2, chars := rest } } := by
  have same : (s.withOutlet (lineOutlet c) y).willSend = s.willSend := rfl
  have drops : x.chars.dropWhile (fun d => !s.willSend (lineOutlet c) d) = ch :: rest := by
    rw [chars, List.dropWhile_append_of_pos fun d mem => by simp [silent d mem], List.dropWhile_cons_of_neg]
    simp [sends]
  have takes : x.chars.takeWhile (fun d => !s.willSend (lineOutlet c) d) = skipped := by
    rw [chars, List.takeWhile_append_of_pos fun d mem => by simp [silent d mem], List.takeWhile_cons_of_neg,
      List.append_nil]
    simp [sends]
  unfold convertNext
  simp only [outletCircuit_line, same, drops, takes, State.outlet_withOutlet, State.modOutlet_withOutlet]
  rfl

/-! ## Reactions -/

theorem react_fixed (fixed : (s.outlet o).state = .off ∨ (s.outlet o).state = .stalled) : react o s = s := by
  unfold react
  rcases fixed with state | state <;> simp only [state]

theorem react_going (going : (s.outlet o).state = .starting ∨ (s.outlet o).state = .sending) :
    react o s = goOn o s := by
  unfold react
  rcases going with state | state <;> simp only [state]

theorem react_idle (idle : (s.outlet o).state = .idle) : react o s = gainWork o s := by
  unfold react
  simp only [idle]

theorem react_paused (paused : (s.outlet o).state = .paused) : react o s = leavePause o s := by
  unfold react
  simp only [paused]

theorem gainWork_terminal (p : Fin 8) : gainWork (terminalOutlet p) s = goOn (terminalOutlet p) s := by
  unfold gainWork clearFill
  simp only [outletCircuit_terminal]

theorem gainWork_line (c : Fin 16) : gainWork (lineOutlet c) s
    = lineGainsWork (lineOutlet c) c (s.withControl c { s.control c with fillOwed := false }) := by
  unfold gainWork clearFill
  simp only [outletCircuit_line]
  rfl

/-- Arbitration writes story and outlet records alone. -/
theorem arbitrate_frame (o : Fin 24) (s : State) : arbitrate o s
    = { s with stories := (arbitrate o s).stories, outlets := (arbitrate o s).outlets } := by
  unfold arbitrate
  split
  · rfl
  · rfl
  · exact grant_preempt_frame

theorem control_arbitrate (o : Fin 24) (c : Fin 16) (s : State) : (arbitrate o s).control c = s.control c := by
  rw [arbitrate_frame]
  rfl

/-- A line outlet's lead with its arbitration (R115, R129, R141). -/
def leadBegun (o : Fin 24) (c : Fin 16) (z : Control) (lead : Nat) (s : State) : State :=
  arbitrate o ((setOutletState o .starting s).withControl c
    { z with motor := .starting, motorCount := 0, motorTarget := lead })

theorem lineGainsWork_lead {c : Fin 16} {z : Control} (off : z.motor = .off)
    (lead : (s.circuit c).config.motorLead ≠ 0) : lineGainsWork o c (s.withControl c z)
      = leadBegun o c z (s.circuit c).config.motorLead s := by
  unfold lineGainsWork
  rw [State.control_withControl, if_pos off]
  dsimp only
  rw [State.modControl_withControl]
  exact if_neg lead

theorem lineGainsWork_noLead {c : Fin 16} {z : Control} (off : z.motor = .off)
    (lead : (s.circuit c).config.motorLead = 0) : lineGainsWork o c (s.withControl c z)
      = goOn o ((leadBegun o c z 0 s).withControl c { z with motor := .running, motorCount := 0, motorTarget := 0 }) := by
  have control : (leadBegun o c z 0 s).control c
      = { z with motor := .starting, motorCount := 0, motorTarget := 0 } := by
    unfold leadBegun
    rw [control_arbitrate, State.control_withControl]
  unfold lineGainsWork
  rw [State.control_withControl, if_pos off]
  dsimp only
  rw [State.modControl_withControl]
  refine (if_pos lead).trans (congrArg (goOn o) ?_)
  have begun : arbitrate o (setOutletState o .starting (s.withControl c
      (z.motorLead (s.circuit c).config.motorLead))) = leadBegun o c z 0 s := by
    rw [lead]
    rfl
  refine (congrArg (fun w => State.modControl w c _) begun).trans (State.modControl_eq ?_)
  rw [control]
  rfl

theorem lineGainsWork_running {c : Fin 16} {z : Control} (on : z.motor ≠ .off) :
    lineGainsWork o c (s.withControl c z)
      = goOn o (s.withControl c { z with motor := .running, motorCount := 0 }) := by
  unfold lineGainsWork
  rw [State.control_withControl, if_neg on, State.modControl_withControl]
  rfl

theorem leavePause_pause {x : OutUnit} (pause : s.pauseCause o = true) (unit : (s.outlet o).unit = some x) :
    leavePause o s = completeUnit o x s := by
  unfold leavePause
  rw [if_pos pause]
  simp only [unit]

theorem leavePause_still (pause : s.pauseCause o = true) (unit : (s.outlet o).unit = none) :
    leavePause o s = s := by
  unfold leavePause
  rw [if_pos pause]
  simp only [unit]

theorem leavePause_own (free : s.pauseCause o = false) (own : s.ownBusy o = true) :
    leavePause o s = setOutletState o .sending s := by
  unfold leavePause
  rw [if_neg (by simp [free]), if_pos own]

theorem leavePause_on (free : s.pauseCause o = false) (own : s.ownBusy o = false) :
    leavePause o s = goOn o s := by
  unfold leavePause
  rw [if_neg (by simp [free]), if_neg (by simp [own])]

/-- An outlet that arbitration would grant is granted, and gets another holder. -/
theorem granted_isSome_iff (s : State) (o : Fin 24) : (s.granted o).isSome = true ↔ arbitrate o s ≠ s := by
  have granting (w : Fin 48) (v : State) : ((grant o w v).outlet o).holder = some w := by
    rw [outlet_grant_self]
  constructor
  · intro some_ same
    obtain ⟨w, grants⟩ := Option.isSome_iff_exists.1 some_
    have holder : ((arbitrate o s).outlet o).holder = some w := by
      unfold arbitrate
      rw [grants]
      cases (s.outlet o).holder <;> exact granting ..
    rw [same] at holder
    unfold State.granted at grants
    rw [holder] at grants
    cases winner : s.winner o with
    | none => simp [winner] at grants
    | some x =>
      simp only [winner] at grants
      split_ifs at grants with due
      obtain rfl := Option.some.inj grants
      unfold State.preempts at due
      exact absurd (of_decide_eq_true due).2 (lt_irrefl _)
  · intro other
    by_contra none_
    refine other ?_
    unfold arbitrate
    rw [Option.not_isSome_iff_eq_none.1 none_]

/-! ## The tests after a cut or a DONE -/

/-- A CLOSING story with no live entry left is closed by the test for it (R89). -/
theorem closeIfDone_eq (k : Fin 48) (s : State) :
    let x := s.story k
    let closes := x.state = .closing ∧ x.anyLive = false
    closeIfDone k s = { s with
      stories := if closes then s.stories.set k { x with
          state := .closed, closed := some s.regs.clock, changed := true } else s.stories
      notices := if closes then (s.raise .storyClosed).notices else s.notices } := by
  intro x closes
  unfold closeIfDone
  by_cases due : closes
  · rw [if_pos due, if_pos due, if_pos due]
    rfl
  · rw [if_neg due, if_neg due, if_neg due]

/-- A test for the quiet point writes a circuit record alone. -/
theorem quietTest_frame (c : Fin 16) (s : State) : quietTest c s = { s with circuits := (quietTest c s).circuits } := by
  have test := (quietTest_circuit s c c).1
  by_cases due : s.AtQuietPoint c ∧ (s.circuit c).pendingConfig ≠ none
  · obtain ⟨cfg, pending⟩ := Option.ne_none_iff_exists'.1 due.2
    rw [test.1 due.1 cfg pending]
    rfl
  · rw [test.2 (by tauto)]

theorem quietTestOutlet_line (c : Fin 16) (s : State) : quietTestOutlet (lineOutlet c) s = quietTest c s := by
  unfold quietTestOutlet
  simp only [outletCircuit_line]

theorem quietTestOutlet_terminal (p : Fin 8) (s : State) : quietTestOutlet (terminalOutlet p) s = s := by
  unfold quietTestOutlet
  simp only [outletCircuit_terminal]

theorem quietTestOutlet_frame (o : Fin 24) (s : State) :
    quietTestOutlet o s = { s with circuits := (quietTestOutlet o s).circuits } := by
  rcases line_or_terminal o with ⟨c, rfl⟩ | ⟨p, rfl⟩
  · rw [quietTestOutlet_line]
    exact quietTest_frame c s
  · rw [quietTestOutlet_terminal]

/-- A circuit after the test for the quiet point of an outlet's circuit (R9, R82). -/
theorem quietTestOutlet_circuit (o : Fin 24) (s : State) (c : Fin 16) :
    (o = lineOutlet c → s.AtQuietPoint c → ∀ cfg, (s.circuit c).pendingConfig = some cfg →
      (quietTestOutlet o s).circuit c = (s.circuit c).configured cfg)
    ∧ (o ≠ lineOutlet c ∨ ¬s.AtQuietPoint c ∨ (s.circuit c).pendingConfig = none →
      (quietTestOutlet o s).circuit c = s.circuit c) := by
  constructor
  · rintro rfl quiet cfg pending
    rw [quietTestOutlet_line, (quietTest_circuit s c c).1.1 quiet cfg pending, State.circuit_modCircuit_self]
  · intro still
    rcases line_or_terminal o with ⟨d, rfl⟩ | ⟨p, rfl⟩
    · rw [quietTestOutlet_line]
      rcases still with other | still
      · exact (quietTest_circuit s d c).2 fun same => other (same ▸ rfl)
      · by_cases here : c = d
        · subst here
          rw [(quietTest_circuit s c c).1.2 still]
        · exact (quietTest_circuit s d c).2 here
    · rw [quietTestOutlet_terminal]

/-- An outstanding write that is not taken when offered again stays (R67, R85). -/
theorem offerWrite_not {p : Fin 8} {chs : List Office} (source : (s.story k).source = .terminal p)
    (outstanding : (framerOf (.terminal p) s).outstanding = some chs)
    (not : ¬((framerOf (.terminal p) s).slot = some k ∧ (s.story k).state = .running
      ∧ roomFor (s.story k) chs.length = true)) : offerWrite k s = s := by
  unfold offerWrite
  simp only [source, outstanding]
  exact if_neg not

end Sys2Proof.Machine

/-! PROOF. Outlets reacting until none has anything to do (log 8). -/

namespace Sys2Proof.Machine

variable {s t u : State} {o : Fin 24} {k : Fin 48}

/-- Settling is the outlets' reactions and what follows them, as the obligation says it. -/
theorem showAll_records (a : State) : let t := showAll a
    t = { a with outlets := t.outlets, controls := t.controls }
    ∧ (∀ p, let y := a.outlet (terminalOutlet p)
        t.outlet (terminalOutlet p) = { y with
          stallTimer := if y.state = .paused ∧ a.hasWork (terminalOutlet p) = true
            then some (y.stallTimer.getD 0) else none })
    ∧ (∀ c, ∃ br fb, t.outlet (lineOutlet c)
          = { a.outlet (lineOutlet c) with counterBreak := br, farBreak := fb }
        ∧ (br = true ↔ (a.outlet (lineOutlet c)).state ≠ .off
          ∧ (a.control c).settings.use = .lineBreak
          ∧ ((a.control c).phase = .counting ∨ (a.control c).phase = .holding))
        ∧ (fb = true ↔ (a.outlet (lineOutlet c)).state ≠ .off
          ∧ (a.circuit c).rxPhase = .farBreak ∧ (a.circuit c).config.breakStopsSending = true))
    ∧ ∀ c, t.control c = { a.control c with
        motorOut := a.outputLevel c (a.control c).motorSel
        signalOut := a.outputLevel c (a.control c).signalSel } := by
  refine ⟨(Shown.showAll a).rest, showAll_terminal a, fun c => ⟨_, _, showAll_line a c, ?_, ?_⟩,
    showAll_control a⟩
  · rw [Bool.and_eq_true, decide_eq_true_iff, breaking_iff]
  · unfold Circuit.farStops
    rw [Bool.and_eq_true, decide_eq_true_iff, Bool.and_eq_true, decide_eq_true_iff]

/-- One outlet's drive, by its unit, its pause and its line. -/
theorem drive_idle_cases (n : Nat) (unit : (s.outlet o).unit = none) :
    (s.Pause o → s.Waits o → drive (n + 1) o s = s)
    ∧ (s.Pause o → ¬s.Waits o → drive (n + 1) o s = setOutletState o .paused s)
    ∧ (¬s.Pause o → let v := takeBoundary o s
      ((v.outlet o).unit ≠ none → drive (n + 1) o s = drive n o (setOutletState o .sending v))
      ∧ ((v.outlet o).unit = none → drive (n + 1) o s = fallIdle o v)) := by
  simp only [← pauseCause_iff, ← pauseWaits_iff_waits, Bool.not_eq_true]
  refine ⟨drive_none_waits n unit, fun pause goes => ?_, fun free => ⟨fun begun => ?_, fun none_ => ?_⟩⟩
  · rw [drive_none_paused n unit pause, pauseOutlet_paused goes]
  · rw [drive_none n unit free, if_pos (Option.isSome_iff_ne_none.2 begun)]
  · rw [drive_none n unit free, if_neg (by simp [none_])]

theorem drive_unit_cases {x : OutUnit} (n : Nat) (unit : (s.outlet o).unit = some x) :
    let y := s.outlet o
    (¬s.Yields o x → drive (n + 1) o s = drive n o (completeUnit o x s))
    ∧ (s.Yields o x → s.Pause o → s.Waits o → drive (n + 1) o s = s)
    ∧ (s.Yields o x → s.Pause o → ¬s.Waits o → drive (n + 1) o s = setOutletState o .paused s)
    ∧ (s.Yields o x → ¬s.Pause o → s.Busy o → drive (n + 1) o s = setOutletState o .sending s)
    ∧ (s.Yields o x → ¬s.Pause o → ¬s.Busy o →
      (∀ p ch rest, o = terminalOutlet p → x.chars = ch :: rest →
        drive (n + 1) o s = { s with ports := s.ports.set p { s.port p with
              sending := some ((s.port p).startChar ch) } }.withOutlet o
            { y with
              state := .sending, unit := some { x with chars := rest }
              column := columnAfter ch y.column })
      ∧ ∀ c, o = lineOutlet c →
        (∀ code rest, x.codes = code :: rest → drive (n + 1) o s
          = { s with circuits := s.circuits.set c { s.circuit c with
                sending := some ((s.circuit c).startChar code .unit) } }.withOutlet o
              { y with state := .sending, unit := some { x with codes := rest } })
        ∧ ∀ skipped ch rest, x.codes = [] → x.chars = skipped ++ ch :: rest →
          (∀ d ∈ skipped, ¬s.SentOn o d) → s.SentOn o ch →
          let r := convertChar (s.page (s.circuit c).config.page) (s.circuit c).config
            { y with state := .sending, drops := incBy skipped.length y.drops } ch
          drive (n + 1) o s = drive n o (s.withOutlet o
            { r.1 with unit := some { x with codes := r.2, chars := rest } })) := by
  intro y
  simp only [← pauseCause_iff, ← pauseWaits_iff_waits, ← silent_eq_false_iff, ← lineBusy_iff, ← willSend_iff,
    Bool.not_eq_true, Bool.not_eq_false]
  refine ⟨drive_silent n unit, fun yields pause waits => ?_, fun yields pause goes => ?_,
    fun yields free busy => ?_, fun yields free idle => ?_⟩
  · rw [drive_unit_paused n unit yields pause, pauseOutlet_waits waits]
  · rw [drive_unit_paused n unit yields pause, pauseOutlet_paused goes]
  · rw [drive_unit n unit yields free]
    exact if_pos busy
  · have next : drive (n + 1) o s = if needsConversion o x
        then drive n o (convertNext o x (s.withOutlet o { y with state := .sending }))
        else handOver o x (s.withOutlet o { y with state := .sending }) := by
      rw [drive_unit n unit yields free]
      exact if_neg (by rw [show (setOutletState o .sending s).lineBusy o = s.lineBusy o from rfl, idle]; simp)
    refine ⟨?_, ?_⟩
    · rintro p ch rest rfl chars
      have hands : needsConversion (terminalOutlet p) x = false := by
        unfold needsConversion
        rw [outletCircuit_terminal]
        rfl
      rw [next, hands, if_neg Bool.false_ne_true, handOver_terminal _ chars]
    · rintro c rfl
      refine ⟨fun code rest codes => ?_, fun skipped ch rest codes chars silent sends => ?_⟩
      · have hands : needsConversion (lineOutlet c) x = false := by
          unfold needsConversion
          rw [codes, List.isEmpty_cons, Bool.and_false]
        rw [next, hands, if_neg Bool.false_ne_true, handOver_line _ codes]
      · have converts : needsConversion (lineOutlet c) x = true := by
          unfold needsConversion
          rw [codes, outletCircuit_line]
          rfl
        rw [next, if_pos converts, convertNext_line _ chars silent sends]

/-- Settles O59, part by part. -/
theorem outletsReactToWorkPausesAndCompletions : Obligations.OutletsReactToWorkPausesAndCompletions := by
  intro s withOutlet withControl inState sent yields work pause busy own ended waits due
  have isDue (o : Fin 24) : due o ↔ s.stirs o = true := (stirs_iff s o).symm
  have isCalm (o : Fin 24) : ¬due o ↔ s.stirs o = false := by rw [isDue, Bool.not_eq_true]
  have isPause (o : Fin 24) : pause o ↔ s.pauseCause o = true := (pauseCause_iff s o).symm
  have isOwn (o : Fin 24) : own o ↔ s.ownBusy o = true := (ownBusy_iff s o).symm
  refine ⟨settled s, fun n calm => reactAll_calm (fun o => (stirs_eq_false_iff s o).1 ((isCalm o).1 (calm o))) n,
    fun n o here lowest => reactAll_lowest ((isDue o).1 here) fun j below => (isCalm j).1 (lowest j below),
    ?follows, fun _ o => granted_isSome_iff s o, fun o => ⟨hasWork_iff s o, react_fixed, react_going, ?idle,
      ?paused, rfl, fun n => ?drive⟩, fun o x => ?complete, fun k o => ?tests⟩
  case follows =>
    rw [settle_eq_showAll s]
    generalize reactAll Config.settleFuel s = a
    intro a' t holds gives
    obtain ⟨rest, terminals, lines, controls⟩ := showAll_records a
    exact ⟨rest, terminals, lines, fun c =>
      ⟨_, _, controls c, outputLevel_gives a c _, outputLevel_gives a c _⟩⟩
  case idle =>
    intro idle
    rw [react_idle idle]
    refine ⟨?_, ?_⟩
    · rintro p rfl
      exact gainWork_terminal p
    · rintro c rfl z lead led
      rw [gainWork_line]
      exact ⟨lineGainsWork_lead, fun off none_ => by
        rw [lineGainsWork_noLead off none_, ← none_] <;> rfl, lineGainsWork_running⟩
  case paused =>
    intro paused
    rw [react_paused paused, isPause, isOwn, Bool.not_eq_true, Bool.not_eq_true]
    exact ⟨fun pause => ⟨fun x unit => leavePause_pause pause unit, leavePause_still pause⟩,
      leavePause_own, leavePause_on⟩
  case drive =>
    intro y
    refine ⟨fun unit => (drive_idle_cases n unit).1, fun unit => (drive_idle_cases n unit).2.1,
      fun unit free => ?_, fun x unit => ?_⟩
    · intro v
      obtain ⟨begun, falls⟩ := (drive_idle_cases n unit).2.2 free
      refine ⟨begun, fun none_ => ⟨?_, ?_⟩⟩
      · rintro p rfl
        exact (falls none_).trans (fallIdle_terminal p)
      · rintro c rfl
        exact (falls none_).trans (fallIdle_line c)
    · obtain ⟨silent, waiting, paused, sending, going⟩ := drive_unit_cases n unit
      refine ⟨silent, waiting, paused, sending, fun yields free idle => ?_⟩
      obtain ⟨terminal, line⟩ := going yields free idle
      refine ⟨fun p ch rest here chars => (terminal p ch rest here chars).trans ?_, line⟩
      rw [columnAfter_eq]
      rfl
  case complete =>
    intro y over_ bare entries
    have done : completeUnit o x s = unitRecord o x.kind (s.withOutlet o over_) := completeUnit_eq x
    rw [done]
    refine ⟨?_, ?_, ?_, ?_, ?_⟩
    · rintro (kind | kind) <;> rw [kind] <;> rfl
    · intro kind
      rw [kind]
      exact State.modOutlet_withOutlet s o over_ fun y => { y with answerbackOwed := false }
    · intro kind
      rw [kind]
      refine ⟨?_, ?_⟩
      · rintro c rfl
        exact emptyReply_line c
      · rintro p rfl
        exact emptyReply_terminal p
    · intro k kind
      rw [kind]
      exact ⟨fun other => modCarried_other over_ other _,
        fun holds => modCarried_holder over_ holds fun e => rfl⟩
    · intro k kind finished
      rw [kind]
      have due : (s.withOutlet o over_).doneDue o k = true ↔ finished := doneDue_iff over_
      exact ⟨fun other => if_neg fun h => other (due.1 h), fun here => claimDone_due over_ (due.2 here)⟩
  case tests =>
    intro x closes
    refine ⟨quietTestOutlet o (closeIfDone k s), ?_, ?_, rfl, ?_, offerWrite_none⟩
    · have closed := closeIfDone_eq k s
      have tested := quietTestOutlet_frame o (closeIfDone k s)
      generalize quietTestOutlet o (closeIfDone k s) = v at tested ⊢
      rw [closed] at tested
      exact tested
    · intro c y
      have circuit : (closeIfDone k s).circuit c = y := by
        rw [closeIfDone_eq]
        rfl
      have quiet : (quietTestOutlet o (closeIfDone k s)).AtQuietPoint c ↔ (closeIfDone k s).AtQuietPoint c := by
        rw [quietTestOutlet_frame]
        rfl
      rw [quiet, ← circuit]
      exact quietTestOutlet_circuit o _ c
    · intro p chs source outstanding taken queue
      have room := roomFor_iff x chs.length
      refine ⟨fun here => ?_, fun not => offerWrite_not source outstanding fun h =>
        not ⟨h.1, h.2.1, room.1 h.2.2⟩⟩
      obtain ⟨slot, running, fits⟩ := here
      rw [offerWrite_taken source outstanding slot running (room.2 fits), restartIdle_eq]
      rfl

end Sys2Proof.Machine

/-! PROOF. A framer with no story, and opens (R57 to R61, R66, R68, R75, R76, R78). -/

namespace Sys2Proof.Machine

variable {s t u : State} {src : Source} {ch : Office} {k : Fin 48}

/-! ## A framer's record written, and loose copy counted -/

/-- A state with a source's framer replaced. -/
def State.withFramer (s : State) (src : Source) (g : Framer) : State :=
  { s with framers := s.framers.set src.index g }

@[simp] theorem framerOf_withFramer (s : State) (src : Source) (g : Framer) :
    framerOf src (s.withFramer src g) = g := (State.get_set ..).trans (if_pos rfl)

theorem modFramerOf_eq (src : Source) (f : Framer → Framer) (s : State) :
    modFramerOf src f s = s.withFramer src (f (framerOf src s)) := rfl

theorem modFramerOf_withFramer (src : Source) (f : Framer → Framer) (g : Framer) :
    modFramerOf src f (s.withFramer src g) = s.withFramer src (f g) := by
  rw [modFramerOf_eq, framerOf_withFramer]
  exact congrArg (fun w => { s with framers := w }) (vector_set_set ..)

/-- Loose copy counted on a source (R60). -/
theorem addLoose_eq (s : State) (src : Source) (n : Nat) : s.addLoose src n = { s with
    circuits := match src with
      | .circuit c => s.circuits.set c { s.circuit c with counts := { (s.circuit c).counts with
          looseCopy := incBy n (s.circuit c).counts.looseCopy } }
      | .terminal _ => s.circuits
    ports := match src with
      | .circuit _ => s.ports
      | .terminal p => s.ports.set p { s.port p with counts := { (s.port p).counts with
          looseCopy := incBy n (s.port p).counts.looseCopy } } } := by
  cases src <;> rfl

/-! ## The marks after a character -/

theorem swallows_iff (f : Framer) (ch : Office) : f.swallows ch = true ↔ f.lineEnd = true ∧ ch = lf := by
  simp [Framer.swallows]

/-! ## A framer that has no story -/

section NoStory

variable (none_ : (framerOf src s).slot = none)
include none_

theorem takeChar_idle (state : (framerOf src s).state = .idle) : takeChar src ch s = takeIdle src ch s := by
  unfold takeChar
  simp only [none_, state]

theorem takeChar_discard (state : (framerOf src s).state = .discard) :
    takeChar src ch s = takeDiscard src ch s := by
  unfold takeChar
  simp only [none_, state]

theorem takeChar_openerMatch (state : (framerOf src s).state = .openerMatch) :
    takeChar src ch s = takeOpenerMatch src ch s := by
  unfold takeChar
  simp only [none_, state]

theorem takeChar_closerMatch (state : (framerOf src s).state = .closerMatch) :
    takeChar src ch s = takeCloserDiscard src ch s := by
  unfold takeChar
  simp only [none_, state]

/-- A match that fails outside a story is taken again in the state it came from (R60, R66). -/
theorem failMatch_eq : failMatch src ch s
    = takeChar src ch ((s.withFramer src (framerOf src s).failed).addLoose src
        (framerOf src s).holdBack.length) := by
  have framer : framerOf src ((s.withFramer src (framerOf src s).failed).addLoose src
      (framerOf src s).holdBack.length) = (framerOf src s).failed := by
    rw [framerOf_addLoose, framerOf_withFramer]
  have slot : (framerOf src ((s.withFramer src (framerOf src s).failed).addLoose src
      (framerOf src s).holdBack.length)).slot = none := by
    rw [framer]
    exact none_
  unfold failMatch
  by_cases discard : (framerOf src s).origin = some .discard
  · rw [takeChar_discard slot (by rw [framer]; exact if_pos discard)]
    exact if_pos discard
  · rw [takeChar_idle slot (by rw [framer]; exact if_neg discard)]
    exact if_neg discard

end NoStory

theorem takeIdle_cases (src : Source) (ch : Office) (s : State) : let f := framerOf src s
    let swallowed := f.lineEnd = true ∧ ch = lf
    (swallowed → takeIdle src ch s = s.withFramer src (f.took ch))
    ∧ (¬swallowed → ch = letterN ∧ f.lineStart = true →
      takeIdle src ch s = s.withFramer src (f.begin .openerMatch .idle ch))
    ∧ (¬swallowed → f.lineStart = false → f.tail = true →
      takeIdle src ch s = s.withFramer src (f.ignoreTail ch))
    ∧ (¬swallowed → ¬(ch = letterN ∧ f.lineStart = true) → f.lineStart = true ∨ f.tail = false →
      takeIdle src ch s = (s.withFramer src (f.took ch)).addLoose src 1) := by
  intro f swallowed
  have isSwallowed : f.swallows ch = true ↔ swallowed := swallows_iff f ch
  unfold takeIdle
  refine ⟨fun yes => if_pos (isSwallowed.2 yes), fun no begins => ?_, fun no inside tail => ?_,
    fun no other plain => ?_⟩
  · exact (if_neg (mt isSwallowed.1 no)).trans (if_pos begins)
  · refine (if_neg (mt isSwallowed.1 no)).trans ((if_neg ?_).trans (if_pos ⟨?_, tail⟩))
    · exact fun begins => Bool.noConfusion (inside.symm.trans begins.2)
    · exact ne_true_of_eq_false inside
  · refine (if_neg (mt isSwallowed.1 no)).trans ((if_neg other).trans (if_neg ?_))
    rintro ⟨inside, tail⟩
    rcases plain with start | done
    · exact inside start
    · exact Bool.noConfusion (done.symm.trans tail)

theorem takeDiscard_cases (src : Source) (ch : Office) (s : State) : let f := framerOf src s
    let swallowed := f.lineEnd = true ∧ ch = lf
    (swallowed → takeDiscard src ch s = s.withFramer src (f.took ch))
    ∧ (¬swallowed → ch = letterN ∧ f.lineStart = true →
      takeDiscard src ch s = s.withFramer src (f.begin .openerMatch .discard ch))
    ∧ (¬swallowed → ch = letterE ∧ f.lineStart = true →
      takeDiscard src ch s = s.withFramer src (f.begin .closerMatch .discard ch))
    ∧ (¬swallowed → ¬((ch = letterN ∨ ch = letterE) ∧ f.lineStart = true) →
      takeDiscard src ch s = (s.withFramer src (f.took ch)).addLoose src 1) := by
  intro f swallowed
  have isSwallowed : f.swallows ch = true ↔ swallowed := swallows_iff f ch
  unfold takeDiscard
  refine ⟨fun yes => if_pos (isSwallowed.2 yes), fun no begins => ?_, fun no begins => ?_,
    fun no other => ?_⟩
  · exact (if_neg (mt isSwallowed.1 no)).trans (if_pos begins)
  · refine (if_neg (mt isSwallowed.1 no)).trans ((if_neg ?_).trans (if_pos begins))
    exact fun opens => absurd (opens.1.symm.trans begins.1) (by decide)
  · exact (if_neg (mt isSwallowed.1 no)).trans ((if_neg fun opens => other ⟨.inl opens.1, opens.2⟩).trans
      (if_neg fun closes => other ⟨.inr closes.1, closes.2⟩))

theorem extends_iff (pattern held : List Office) (ch : Office) :
    extends? pattern held ch = true ↔ pattern[held.length]? = some ch := decide_eq_true_iff

theorem takeOpenerMatch_cases (none_ : (framerOf src s).slot = none) : let f := framerOf src s
    let next := opener[f.holdBack.length]? = some ch
    (next → f.holdBack.length ≠ 3 → takeOpenerMatch src ch s
      = s.withFramer src { f.took ch with holdBack := f.holdBack ++ [ch] })
    ∧ (next → f.holdBack.length = 3 → takeOpenerMatch src ch s
      = completeOpener src (s.withFramer src { f.took ch with holdBack := f.holdBack ++ [ch] }))
    ∧ (¬next → takeOpenerMatch src ch s
      = takeChar src ch ((s.withFramer src f.failed).addLoose src f.holdBack.length)) := by
  intro f next
  have isNext : extends? opener f.holdBack ch = true ↔ next := extends_iff ..
  have more (yes : next) : extendOpener src ch s
      = s.withFramer src { f.took ch with holdBack := f.holdBack ++ [ch] } := if_pos (isNext.2 yes)
  have less (no : ¬next) : extendOpener src ch s = failMatch src ch s := if_neg (mt isNext.1 no)
  unfold takeOpenerMatch
  refine ⟨fun yes short => ?_, fun yes whole => ?_, fun no => ?_⟩
  · exact (if_neg fun h => short h.2).trans (more yes)
  · exact (if_pos ⟨isNext.2 yes, whole⟩).trans (congrArg _ (more yes))
  · exact (if_neg fun h => no (isNext.1 h.1)).trans ((less no).trans (failMatch_eq none_))

theorem takeCloserDiscard_cases (none_ : (framerOf src s).slot = none) : let f := framerOf src s
    let next := closer[f.holdBack.length]? = some ch
    (next → f.holdBack.length ≠ 3 → takeCloserDiscard src ch s
      = s.withFramer src { f.took ch with holdBack := f.holdBack ++ [ch] })
    ∧ (next → f.holdBack.length = 3 → takeCloserDiscard src ch s
      = (s.withFramer src f.closerDone).addLoose src 4)
    ∧ (¬next → takeCloserDiscard src ch s
      = takeChar src ch ((s.withFramer src f.failed).addLoose src f.holdBack.length)) := by
  intro f next
  have isNext : extends? closer f.holdBack ch = true ↔ next := extends_iff ..
  unfold takeCloserDiscard
  exact ⟨fun yes short => (if_pos (isNext.2 yes)).trans (if_neg short),
    fun yes whole => (if_pos (isNext.2 yes)).trans (if_pos whole),
    fun no => (if_neg (mt isNext.1 no)).trans (failMatch_eq none_)⟩

/-! ## Numbers drawn -/

/-- The number drawn is the first from a number on that no record carries (R76). -/
theorem drawNumber_first {n : Nat} (least : 1 ≤ n) (most : n ≤ 9999) (f : Nat) :
    ∃ d, drawNumber u f n = (n + d - 1) % 9999 + 1
      ∧ ∀ e < d, (u.findNumber ((n + e - 1) % 9999 + 1)).isSome = true := by
  have here : (n + 0 - 1) % 9999 + 1 = n := by
    rw [Nat.mod_eq_of_lt (by omega)]
    omega
  induction f generalizing n with
  | zero => exact ⟨0, here.symm, fun e below => absurd below (Nat.not_lt_zero e)⟩
  | succ f ih =>
    unfold drawNumber
    by_cases taken : (u.findNumber n).isSome = true
    · rw [if_pos taken, nextNumberAfter_eq least most]
      obtain ⟨d, drawn, before⟩ := ih (n := n % 9999 + 1) (by omega) (by omega) (by omega)
      refine ⟨d + 1, drawn.trans (by omega), fun e below => ?_⟩
      cases e with
      | zero =>
        rw [here]
        exact taken
      | succ e =>
        have at_e := before e (by omega)
        rwa [show (n % 9999 + 1 + e - 1) % 9999 + 1 = (n + (e + 1) - 1) % 9999 + 1 by omega] at at_e
    · rw [if_neg taken]
      exact ⟨0, here.symm, fun e below => absurd below (Nat.not_lt_zero e)⟩

/-- The number an open draws while its own record is FREE, said of the other records (R76). -/
theorem drawNumber_others {w : State} (next : w.nextNumber = s.nextNumber)
    (range : 1 ≤ s.nextNumber ∧ s.nextNumber ≤ 9999) (free : (w.story k).state = .free)
    (others : ∀ j, j ≠ k → w.story j = s.story j) : let n := drawNumber w 49 w.nextNumber
    1 ≤ n ∧ n ≤ 9999
    ∧ (∀ j, j ≠ k → (s.story j).state ≠ .free → (s.story j).number ≠ n)
    ∧ ((∀ j, j ≠ k → (s.story j).state ≠ .free → (s.story j).number ≠ s.nextNumber) → n = s.nextNumber)
    ∧ ∃ d, n = (s.nextNumber + d - 1) % 9999 + 1 ∧ ∀ e, e < d →
        ∃ j, j ≠ k ∧ (s.story j).state ≠ .free ∧ (s.story j).number = (s.nextNumber + e - 1) % 9999 + 1 := by
  intro n
  have carried (m : Nat) (some_ : (w.findNumber m).isSome = true) :
      ∃ j, j ≠ k ∧ (s.story j).state ≠ .free ∧ (s.story j).number = m := by
    obtain ⟨j, found⟩ := Option.isSome_iff_exists.1 some_
    obtain ⟨stands, number⟩ := findNumber_some found
    have other : j ≠ k := fun same => stands (same ▸ free)
    rw [others j other] at stands number
    exact ⟨j, other, stands, number⟩
  have fresh : w.findNumber n = none := drawNumber_fresh (next ▸ range.1) (next ▸ range.2)
  obtain ⟨d, drawn, before⟩ := drawNumber_first (u := w) (next ▸ range.1) (next ▸ range.2) 49
  rw [next] at before
  have isDrawn : n = (s.nextNumber + d - 1) % 9999 + 1 := by
    rw [← next]
    exact drawn
  refine ⟨(drawNumber_range (next ▸ range.1) (next ▸ range.2)).1,
    (drawNumber_range (next ▸ range.1) (next ▸ range.2)).2, fun j other stands => ?_, fun unused => ?_,
    d, isDrawn, fun e below => carried _ (before e below)⟩
  · have stands' : (w.story j).state ≠ .free := by rwa [others j other]
    have apart := findNumber_none fresh j stands'
    rwa [others j other] at apart
  · cases d with
    | zero => omega
    | succ d =>
      obtain ⟨j, other, stands, number⟩ := carried _ (before 0 (by omega))
      exact absurd (number.trans (by omega)) (unused j other stands)

/-! ## Claiming an open -/

/-- The lowest FREE record (R78). -/
def State.LowestFree (s : State) (k : Fin 48) : Prop :=
  (s.story k).state = .free ∧ ∀ j, j < k → (s.story j).state ≠ .free

/-- The CLOSED record first in the open order that no outlet owes an item for, where none is FREE (R78). -/
def State.OldestClosed (s : State) (k : Fin 48) : Prop := (∀ j, (s.story j).state ≠ .free)
  ∧ ∃ l r, s.openOrder = l ++ k :: r ∧ (s.story k).state = .closed
    ∧ (¬∃ o, ∃ i ∈ (s.outlet o).owed, i.slot = k)
    ∧ ∀ j ∈ l, (s.story j).state = .closed → ∃ o, ∃ i ∈ (s.outlet o).owed, i.slot = j

theorem freeSlot_iff (s : State) (k : Fin 48) : s.freeSlot = some k ↔ s.LowestFree k := by
  unfold State.freeSlot State.LowestFree
  rw [find?_allSlots, Fin.find?_eq_some_iff]
  simp

theorem freeSlot_none_iff (s : State) : s.freeSlot = none ↔ ∀ j, (s.story j).state ≠ .free := by
  unfold State.freeSlot
  rw [find?_allSlots, Fin.find?_eq_none_iff]
  simp

theorem reclaimable_iff (s : State) (k : Fin 48) : s.reclaimable = some k ↔ ∃ l r, s.openOrder = l ++ k :: r
    ∧ (s.story k).state = .closed ∧ (¬∃ o, ∃ i ∈ (s.outlet o).owed, i.slot = k)
    ∧ ∀ j ∈ l, (s.story j).state = .closed → ∃ o, ∃ i ∈ (s.outlet o).owed, i.slot = j := by
  unfold State.reclaimable
  simp only [List.find?_eq_some_iff_append, decide_eq_true_eq, Bool.not_eq_true', decide_eq_false_iff_not,
    ← owedAnywhere_iff, Bool.not_eq_true]
  constructor
  · rintro ⟨⟨closed, apart⟩, l, r, order, before⟩
    exact ⟨l, r, order, closed, apart, fun j mem closed => by simpa [closed] using before j mem⟩
  · rintro ⟨l, r, order, closed, apart, before⟩
    exact ⟨⟨closed, apart⟩, l, r, order, fun j mem h => by simp [before j mem h.1] at h⟩

theorem claimSlot_free (free : s.LowestFree k) : claimSlot s = (some k, s) := by
  unfold claimSlot
  simp only [(freeSlot_iff s k).2 free]

theorem claimSlot_oldest (oldest : s.OldestClosed k) : claimSlot s = (some k, freeRecord k s) := by
  unfold claimSlot
  simp only [(freeSlot_none_iff s).2 oldest.1, (reclaimable_iff s k).2 oldest.2]

theorem claimSlot_none (none_ : ∀ k, ¬s.LowestFree k ∧ ¬s.OldestClosed k) : claimSlot s = (none, s) := by
  have noFree : s.freeSlot = none :=
    Option.eq_none_iff_forall_ne_some.2 fun k found => (none_ k).1 ((freeSlot_iff s k).1 found)
  have noClosed : s.reclaimable = none := Option.eq_none_iff_forall_ne_some.2 fun k found =>
    (none_ k).2 ⟨(freeSlot_none_iff s).1 noFree, (reclaimable_iff s k).1 found⟩
  unfold claimSlot
  simp only [noFree, noClosed]

/-- The record an open leaves, its number drawn (R73, R76, R78). -/
def State.opened (s : State) (src : Source) (k : Fin 48) (n : Nat) : State :=
  { s with
    stories := s.stories.set k { state := .header, number := n, source := src
                                 opened := s.regs.clock, idleTimer := some 0, changed := true }
    openOrder := s.openOrder.filter (fun j => j ≠ k) ++ [k]
    nextNumber := if n < 9999 then n + 1 else 1 }

theorem allocate_free (ordered : ∀ j ∈ s.openOrder, (s.story j).state ≠ .free) (free : (s.story k).state = .free) :
    allocate src k s = s.opened src k (drawNumber s 49 s.nextNumber) := by
  have absent : s.openOrder.filter (fun j => j ≠ k) = s.openOrder := List.filter_eq_self.2 fun j mem => by
    have stands := ordered j mem
    simp only [ne_eq, decide_not, Bool.not_eq_true', decide_eq_false_iff_not]
    rintro rfl
    exact stands free
  unfold State.opened
  rw [absent]
  rfl

theorem allocate_reclaimed : allocate src k (freeRecord k s)
    = s.opened src k (drawNumber (freeRecord k s) 49 s.nextNumber) := by
  have stories (x y : Story) : (s.stories.set k x).set k y = s.stories.set k y := vector_set_set ..
  unfold State.opened
  rw [← stories {}]
  rfl

theorem story_freeRecord_other {j : Fin 48} (other : j ≠ k) : (freeRecord k s).story j = s.story j := by
  rw [story_freeRecord, if_neg other]

theorem openClaim_some {k : Fin 48} {w : State} (claim : claimSlot s = (some k, w)) :
    openClaim src s = (some k, allocate src k w) := by
  unfold openClaim
  simp only [claim]

theorem openClaim_none (claim : claimSlot s = (none, s)) : openClaim src s = (none, s.raise .tableFull) := by
  unfold openClaim
  simp only [claim]

theorem completeOpener_granted {k : Fin 48} {w : State} (claim : openClaim src s = (some k, w)) :
    completeOpener src s = modFramerOf src (fun f => f.granted k) w := by
  unfold completeOpener
  simp only [claim]

theorem completeOpener_refused {w : State} (claim : openClaim src s = (none, w)) : completeOpener src s
    = ((modFramerOf src (fun f => f.refusedOpen) w).addRefusedOpen src).addLoose src 4 := by
  unfold completeOpener
  simp only [claim]

/-- The counts of a refused open: its own, and its letters as loose copy (R61). -/
theorem addRefusedOpen_addLoose (s : State) (src : Source) (n : Nat) :
    (s.addRefusedOpen src).addLoose src n = let v := s.addLoose src n
      { v with
        circuits := match src with
          | .circuit c => v.circuits.set c { v.circuit c with counts := { (v.circuit c).counts with
              refusedOpens := inc (s.circuit c).counts.refusedOpens } }
          | .terminal _ => v.circuits
        ports := match src with
          | .circuit _ => v.ports
          | .terminal p => v.ports.set p { v.port p with counts := { (v.port p).counts with
              refusedOpens := inc (s.port p).counts.refusedOpens } } } := by
  cases src with
  | circuit c =>
    have same : (s.modCircuit c (fun x => { x with counts := { x.counts with
          refusedOpens := inc x.counts.refusedOpens } })).modCircuit c (fun x => { x with
            counts := { x.counts with looseCopy := incBy n x.counts.looseCopy } })
        = (s.modCircuit c (fun x => { x with counts := { x.counts with
          looseCopy := incBy n x.counts.looseCopy } })).modCircuit c (fun x => { x with
            counts := { x.counts with refusedOpens := inc (s.circuit c).counts.refusedOpens } }) := by
      rw [State.modCircuit_modCircuit, State.modCircuit_modCircuit, State.modCircuit_eq rfl,
        State.modCircuit_eq rfl]
    exact same
  | terminal p =>
    have same : (s.modPort p (fun x => { x with counts := { x.counts with
          refusedOpens := inc x.counts.refusedOpens } })).modPort p (fun x => { x with
            counts := { x.counts with looseCopy := incBy n x.counts.looseCopy } })
        = (s.modPort p (fun x => { x with counts := { x.counts with
          looseCopy := incBy n x.counts.looseCopy } })).modPort p (fun x => { x with
            counts := { x.counts with refusedOpens := inc (s.port p).counts.refusedOpens } }) := by
      rw [State.modPort_modPort, State.modPort_modPort, State.modPort_eq rfl, State.modPort_eq rfl]
    exact same

/-- A framer whose hold-back has become the opener (R60). -/
def Framer.opening (f : Framer) : Framer :=
  { f with lineStart := false, lineEnd := false, holdBack := opener }

/-- An open that is granted, by whichever record it claims. -/
theorem claimSlot_grants {g : Framer} (ok : s.TableOk) (claims : s.LowestFree k ∨ s.OldestClosed k) :
    ∃ w, claimSlot (s.withFramer src g) = (some k, w)
      ∧ allocate src k w = (s.opened src k (drawNumber w 49 w.nextNumber)).withFramer src g
      ∧ w.nextNumber = s.nextNumber ∧ (w.story k).state = .free ∧ ∀ j, j ≠ k → w.story j = s.story j := by
  rcases claims with free | oldest
  · exact ⟨s.withFramer src g, claimSlot_free (s := s.withFramer src g) free,
      allocate_free (s := s.withFramer src g) (fun j mem => (ok.ordered j).1 mem) free.1, rfl, free.1,
      fun _ _ => rfl⟩
  · refine ⟨freeRecord k (s.withFramer src g), claimSlot_oldest (s := s.withFramer src g) oldest,
      allocate_reclaimed, rfl, ?_, fun j other => story_freeRecord_other other⟩
    rw [story_freeRecord, if_pos rfl]

/-- Settles O54: the cases of each state, and the claim the fourth letter makes. -/
theorem openersClaimTheLowestFreeOrOldestClosedRecord :
    Obligations.OpenersClaimTheLowestFreeOrOldestClosedRecord := by
  intro s src f none_ become loose
  have isLoose (n : Nat) (g : Framer) : (s.withFramer src g).addLoose src n = loose n g := addLoose_eq ..
  refine ⟨fun ch => ⟨fun idle => ?idle, fun discard => ?discard, fun opens => ?opener, fun closes => ?closer⟩,
    fun ok opens held => ?claim⟩
  case idle =>
    rw [takeChar_idle none_ idle]
    obtain ⟨swallows, begins, ignores, loosens⟩ := takeIdle_cases src ch s
    exact ⟨swallows, begins, fun no inside tail => (ignores no inside tail).trans (by
      unfold Framer.ignoreTail; rw [show (framerOf src s).tail = true from tail, Bool.true_and]; rfl),
      fun no other plain => (loosens no other plain).trans (isLoose ..)⟩
  case discard =>
    rw [takeChar_discard none_ discard]
    obtain ⟨swallows, opens, closes, loosens⟩ := takeDiscard_cases src ch s
    exact ⟨swallows, opens, closes, fun no other => (loosens no other).trans (isLoose ..)⟩
  case opener =>
    rw [takeChar_openerMatch none_ opens, ← isLoose]
    obtain ⟨more, _, fails⟩ := takeOpenerMatch_cases (ch := ch) none_
    exact ⟨more, fails⟩
  case closer =>
    rw [takeChar_closerMatch none_ closes, ← isLoose, ← isLoose]
    obtain ⟨more, ends, fails⟩ := takeCloserDiscard_cases (ch := ch) none_
    have done : (framerOf src s).closerDone = { f with
        state := .idle, origin := none, holdBack := [], tail := true, lineStart := false
        lineEnd := false } := by
      unfold Framer.closerDone
      rw [← none_]
    exact ⟨more, fun next whole => (ends next whole).trans
      (congrArg (fun g => (s.withFramer src g).addLoose src 4) done), fails⟩
  case claim =>
    intro u owed free oldest
    have matched : u = completeOpener src (s.withFramer src (f.opening)) := by
      rw [show u = takeChar src (office 'R') s from rfl, takeChar_openerMatch none_ opens]
      refine ((takeOpenerMatch_cases none_).2.1 ?_ ?_).trans ?_
      · rw [show (framerOf src s).holdBack = _ from held]
        rfl
      · rw [show (framerOf src s).holdBack = _ from held]
        rfl
      · unfold Framer.opening
        rw [show (framerOf src s).holdBack = _ from held]
        rfl
    refine ⟨fun k claims => ?granted, fun none_ => ?refused⟩
    case granted =>
      obtain ⟨w, claim, records, next, vacant, others⟩ := claimSlot_grants (src := src) (g := f.opening) ok claims
      have number := drawNumber_others next ok.next vacant others
      generalize drawNumber w 49 w.nextNumber = n at records number
      obtain ⟨least, most, fresh, plain, drawn⟩ := number
      refine ⟨n, least, most, fresh, plain, drawn, ?_⟩
      rw [matched, completeOpener_granted (openClaim_some claim), records, modFramerOf_withFramer]
      rfl
    case refused =>
      have refused : claimSlot (s.withFramer src f.opening) = (none, s.withFramer src f.opening) :=
        claimSlot_none fun k => none_ k
      intro v
      rw [matched, completeOpener_refused (openClaim_none refused), addRefusedOpen_addLoose]
      have framed : modFramerOf src (fun g => g.refusedOpen) ((s.withFramer src f.opening).raise .tableFull)
          = (s.raise .tableFull).withFramer src f.opening.refusedOpen :=
        modFramerOf_withFramer (s := s.raise .tableFull) src (fun g => g.refusedOpen) f.opening
      rw [framed]
      cases src <;> rfl

end Sys2Proof.Machine

/-! PROOF. Headers read (R63). -/

namespace Sys2Proof.Machine

variable {s t u : State}

/-! ## The form of a header -/

theorem numberField_iff (f : List Office) (n : Nat) : numberField f = some n ↔
    f.length = 4 ∧ (∀ d ∈ f, isDigit d = true) ∧ digitsValue f = n ∧ n ≠ 0 := by
  have four : isFourDigits f = true ↔ f.length = 4 ∧ ∀ d ∈ f, isDigit d = true := by
    simp [isFourDigits]
  unfold numberField
  constructor
  · intro read
    split_ifs at read with good
    obtain ⟨form, some_⟩ := good
    obtain ⟨length, digits⟩ := four.1 form
    obtain rfl := Option.some.inj read
    exact ⟨length, digits, rfl, some_⟩
  · rintro ⟨length, digits, rfl, some_⟩
    exact if_pos ⟨four.2 ⟨length, digits⟩, some_⟩

theorem isFourDigits_of_numberField {f : List Office} {n : Nat} (read : numberField f = some n) :
    isFourDigits f = true := by
  obtain ⟨length, digits, _, _⟩ := (numberField_iff f n).1 read
  simpa [isFourDigits, length] using digits

theorem FieldsOk.numberField {a : List Office} {n : Nat} (read : numberField a = some n) : FieldsOk [a] := by
  obtain ⟨length, digits, _, _⟩ := (numberField_iff a n).1 read
  intro f mem
  obtain rfl := List.mem_singleton.1 mem
  exact ⟨List.ne_nil_of_length_pos (by omega), fun o here => isFieldChar_of_isDigit (digits o here)⟩

/-- The fields of a header read as its record (R63). -/
def readHeader : List (List Office) → Option HeaderFields
  | [] => none
  | f :: more =>
    if isFourDigits f then
      match numberField f with
      | some n => headerBody (some n) more
      | none => none
    else headerBody none (f :: more)

/-- A correction as it is written (R63). -/
def CorrectionWritten (corr : Option Nat) (last : List (List Office)) : Prop :=
  match corr with
  | none => last = []
  | some n => ∃ ds, numberField ds = some n ∧ last = [[office 'C'], ds]

theorem correctionFields_iff (last : List (List Office)) (corr : Option Nat) :
    correctionFields last = some corr ↔ CorrectionWritten corr last := by
  have text_ : text ['C'] = [office 'C'] := rfl
  unfold CorrectionWritten
  constructor
  · intro read
    match last with
    | [] =>
      obtain rfl := Option.some.inj read
      rfl
    | [c, n] =>
      unfold correctionFields at read
      dsimp only at read
      split_ifs at read with letter
      obtain ⟨v, isN, rfl⟩ := Option.map_eq_some_iff.1 read
      exact ⟨n, isN, by rw [letter, text_]⟩
    | [_] | _ :: _ :: _ :: _ => cases read
  · cases corr with
    | none =>
      rintro rfl
      rfl
    | some n =>
      rintro ⟨ds, isN, rfl⟩
      unfold correctionFields
      simp only [text_, if_true, isN, Option.map_some]

/-- The fields from the priority on, as they are written (R63). -/
theorem headerBody_iff (origin : Option Nat) (fs : List (List Office)) (h : HeaderFields) :
    headerBody origin fs = some h ↔ h.origin = origin ∧ isCapital h.desk.first = true
      ∧ isCapital h.desk.second = true ∧ 1 ≤ h.slug.length ∧ h.slug.length ≤ 20
      ∧ ∃ last, CorrectionWritten h.correction last
        ∧ fs = [h.priority.letter] :: [h.desk.first, h.desk.second] :: h.slug :: last := by
  constructor
  · intro read
    unfold headerBody at read
    split at read
    next p a b slug rest =>
      split at read
      next pr corr isP isC =>
        split_ifs at read with good
        obtain ⟨first, second, least, most⟩ := good
        obtain rfl := Option.some.inj read
        exact ⟨rfl, first, second, least, most, rest, (correctionFields_iff ..).1 isC,
          by rw [(priorityOfLetter_iff p pr).1 isP]⟩
      next => cases read
    next => cases read
  · rintro ⟨rfl, first, second, least, most, last, corr, rfl⟩
    unfold headerBody
    simp only [(priorityOfLetter_iff _ h.priority).2 rfl, (correctionFields_iff ..).2 corr]
    exact if_pos ⟨first, second, least, most⟩

theorem readHeader_iff (fs : List (List Office)) (h : HeaderFields) : readHeader fs = some h ↔
    isCapital h.desk.first = true ∧ isCapital h.desk.second = true ∧ 1 ≤ h.slug.length ∧ h.slug.length ≤ 20
      ∧ ∃ first last, (match h.origin with
          | none => first = []
          | some n => ∃ ds, numberField ds = some n ∧ first = [ds])
        ∧ CorrectionWritten h.correction last
        ∧ fs = first ++ [h.priority.letter] :: [h.desk.first, h.desk.second] :: h.slug :: last := by
  have letter : isFourDigits [h.priority.letter] = false := by
    unfold isFourDigits
    rfl
  constructor
  · intro read
    cases fs with
    | nil => cases read
    | cons f more =>
      unfold readHeader at read
      dsimp only at read
      split_ifs at read with four
      · split at read
        next n isN =>
          obtain ⟨origin, first, second, least, most, last, corr, written⟩ := (headerBody_iff ..).1 read
          refine ⟨first, second, least, most, [f], last, ?_, corr, by rw [written]; rfl⟩
          rw [origin]
          exact ⟨f, isN, rfl⟩
        next => cases read
      · obtain ⟨origin, first, second, least, most, last, corr, written⟩ := (headerBody_iff ..).1 read
        refine ⟨first, second, least, most, [], last, ?_, corr, written⟩
        rw [origin]
  · rintro ⟨first, second, least, most, begins, last, number, corr, rfl⟩
    cases origin : h.origin with
    | none =>
      rw [origin] at number
      dsimp only at number
      subst number
      unfold readHeader
      simp only [List.nil_append, letter, Bool.false_eq_true, if_false]
      exact (headerBody_iff ..).2 ⟨origin, first, second, least, most, last, corr, rfl⟩
    | some n =>
      rw [origin] at number
      obtain ⟨ds, isN, rfl⟩ := number
      unfold readHeader
      simp only [List.cons_append, List.nil_append, isFourDigits_of_numberField isN, if_true, isN]
      exact (headerBody_iff ..).2 ⟨origin, first, second, least, most, last, corr, rfl⟩

/-- A header line is the letters of the opener and the fields that read as its record (R63). -/
theorem parseHeader_iff (line : List Office) (h : HeaderFields) : parseHeader line = some h ↔
    ∃ lead fs, lead.length = 4 ∧ line = lead ++ spaced fs ∧ FieldsOk fs ∧ readHeader fs = some h := by
  have reads (sp : Office) (rest lead : List Office) (length : lead.length = 4)
      (split : line = lead ++ sp :: rest) : parseHeader line
        = if sp = space ∧ (fields rest).all (fun f => f ≠ [] ∧ f.all isFieldChar) = true
          then readHeader (fields rest) else none := by
    unfold parseHeader
    rw [split, List.drop_left' length]
    refine if_congr Iff.rfl ?_ rfl
    cases fields rest <;> rfl
  constructor
  · intro read
    cases rest : line.drop 4 with
    | nil =>
      unfold parseHeader at read
      rw [rest] at read
      cases read
    | cons sp more =>
      have long : (line.take 4).length = 4 := by
        rw [List.length_take]
        have := congrArg List.length rest
        rw [List.length_drop, List.length_cons] at this
        omega
      have split : line = line.take 4 ++ sp :: more := by rw [← rest, List.take_append_drop]
      rw [reads sp more _ long split] at read
      split_ifs at read with good
      obtain ⟨gap, clean⟩ := good
      obtain ⟨f, fs, isFields, joined, _⟩ := fields_split more
      refine ⟨_, fields more, long, split.trans ?_, (fieldsOk_iff _).1 clean, read⟩
      rw [isFields, spaced_cons, gap, joined, List.cons_append]
  · rintro ⟨lead, fs, length, written, ok, read⟩
    cases fs with
    | nil => cases read
    | cons f fs =>
      have split := fields_joined f fs ok.clean
      rw [spaced_cons, List.cons_append] at written
      rw [reads space _ lead length written, split, if_pos ⟨rfl, (fieldsOk_iff _).2 ok⟩, read]

theorem FieldsOk.append {fs gs : List (List Office)} (ok : FieldsOk fs) (ok' : FieldsOk gs) :
    FieldsOk (fs ++ gs) := fun f mem => (List.mem_append.1 mem).elim (ok f) (ok' f)

theorem spaced_append (fs gs : List (List Office)) : spaced (fs ++ gs) = spaced fs ++ spaced gs :=
  List.flatMap_append ..

theorem FieldsOk.singleton {f : List Office} (some_ : 1 ≤ f.length) (chars : ∀ o ∈ f, isFieldChar o = true) :
    FieldsOk [f] := fun g mem => by
  obtain rfl := List.mem_singleton.1 mem
  exact ⟨List.ne_nil_of_length_pos some_, chars⟩

theorem FieldsOk.correction {corr : Option Nat} {last : List (List Office)}
    (written : CorrectionWritten corr last) : FieldsOk last := by
  cases corr with
  | none =>
    obtain rfl : last = [] := written
    exact fun f mem => absurd mem List.not_mem_nil
  | some n =>
    obtain ⟨ds, isN, rfl⟩ := written
    exact .append (fs := [_]) (.singleton (le_refl 1) (by decide)) (.numberField isN)

/-- The line of a header's fields. -/
theorem headerLine (lead : List Office) (first last : List (List Office)) (p a b : Office)
    (slug : List Office) : lead ++ spaced (first ++ [p] :: [a, b] :: slug :: last)
      = lead ++ spaced first ++ [space, p, space, a, b, space] ++ slug ++ spaced last := by
  rw [spaced_append]
  simp

/-- A header line by its characters (R63). -/
theorem parseHeader_written (line : List Office) (h : HeaderFields) : parseHeader line = some h ↔
    ∃ lead first last : List Office, lead.length = 4
      ∧ line = lead ++ [space] ++ first ++ [h.priority.letter, space, h.desk.first, h.desk.second, space]
          ++ h.slug ++ last
      ∧ isCapital h.desk.first = true ∧ isCapital h.desk.second = true
      ∧ 1 ≤ h.slug.length ∧ h.slug.length ≤ 20
      ∧ (∀ c ∈ h.slug, isCapital c = true ∨ isDigit c = true ∨ c = office '-')
      ∧ (match h.origin with
        | none => first = []
        | some n => ∃ ds, (ds.length = 4 ∧ (∀ d ∈ ds, isDigit d = true) ∧ digitsValue ds = n ∧ n ≠ 0)
            ∧ first = ds ++ [space])
      ∧ match h.correction with
        | none => last = []
        | some n => ∃ ds, (ds.length = 4 ∧ (∀ d ∈ ds, isDigit d = true) ∧ digitsValue ds = n ∧ n ≠ 0)
            ∧ last = [space, office 'C', space] ++ ds := by
  simp only [parseHeader_iff, readHeader_iff, ← numberField_iff]
  constructor
  · rintro ⟨lead, _, length, rfl, ok, firstOk, secondOk, least, most, first, last, origin, corr, rfl⟩
    have slug : h.slug ∈ first ++ [h.priority.letter] :: [h.desk.first, h.desk.second] :: h.slug :: last := by
      simp
    refine ⟨lead, (spaced first).drop 1 ++ (if first = [] then [] else [space]), spaced last, length, ?_,
      firstOk, secondOk, least, most, fun c mem => (isFieldChar_iff c).1 ((ok _ slug).2 c mem), ?_, ?_⟩
    · rw [headerLine]
      cases first with
      | nil => simp
      | cons f fs =>
        have alone : fs = [] := by
          cases isOrigin : h.origin with
          | none =>
            rw [isOrigin] at origin
            cases origin
          | some n =>
            rw [isOrigin] at origin
            obtain ⟨ds, _, same⟩ := origin
            exact (List.cons.inj same).2
        subst alone
        simp
    · cases isOrigin : h.origin with
      | none =>
        rw [isOrigin] at origin
        obtain rfl : first = [] := origin
        rfl
      | some n =>
        rw [isOrigin] at origin
        obtain ⟨ds, isN, rfl⟩ := origin
        exact ⟨ds, isN, by simp⟩
    · cases isCorr : h.correction with
      | none =>
        rw [isCorr] at corr
        obtain rfl : last = [] := corr
        rfl
      | some n =>
        rw [isCorr] at corr
        obtain ⟨ds, isN, rfl⟩ := corr
        exact ⟨ds, isN, by simp⟩
  · rintro ⟨lead, first, last, length, rfl, firstOk, secondOk, least, most, chars, origin, corr⟩
    obtain ⟨begins, origin', isFirst, beginsOk⟩ : ∃ begins, (match h.origin with
        | none => begins = []
        | some n => ∃ ds, numberField ds = some n ∧ begins = [ds])
        ∧ spaced begins ++ [space] = [space] ++ first ∧ FieldsOk begins := by
      cases isOrigin : h.origin with
      | none =>
        rw [isOrigin] at origin
        obtain rfl : first = [] := origin
        exact ⟨[], rfl, rfl, fun f mem => absurd mem List.not_mem_nil⟩
      | some n =>
        rw [isOrigin] at origin
        obtain ⟨ds, isN, rfl⟩ := origin
        exact ⟨[ds], ⟨ds, isN, rfl⟩, by simp, .numberField isN⟩
    obtain ⟨ends, corr', isLast⟩ : ∃ ends, CorrectionWritten h.correction ends ∧ spaced ends = last := by
      cases isCorr : h.correction with
      | none =>
        rw [isCorr] at corr
        obtain rfl : last = [] := corr
        exact ⟨[], rfl, rfl⟩
      | some n =>
        rw [isCorr] at corr
        obtain ⟨ds, isN, rfl⟩ := corr
        exact ⟨[[office 'C'], ds], ⟨ds, isN, rfl⟩, by simp⟩
    refine ⟨lead, begins ++ [h.priority.letter] :: [h.desk.first, h.desk.second] :: h.slug :: ends, length,
      ?_, ?_, firstOk, secondOk, least, most, begins, ends, origin', corr', rfl⟩
    · have split : [space, h.priority.letter, space, h.desk.first, h.desk.second, space]
          = [space] ++ [h.priority.letter, space, h.desk.first, h.desk.second, space] := rfl
      rw [headerLine, isLast, split, List.append_assoc lead [space], ← isFirst]
      simp only [List.append_assoc]
    · refine .append beginsOk (.append (fs := [_]) ?_ (.append (fs := [_]) ?_
        (.append (fs := [_]) ?_ (.correction corr'))))
      · exact .singleton (le_refl 1) fun o mem => List.mem_singleton.1 mem ▸ isFieldChar_letter _
      · refine .singleton (by simp) fun o mem => ?_
        rcases List.mem_cons.1 mem with rfl | mem
        · exact (isFieldChar_iff _).2 (.inl firstOk)
        · exact (isFieldChar_iff _).2 (.inl (List.mem_singleton.1 mem ▸ secondOk))
      · exact .singleton least fun o mem => (isFieldChar_iff o).2 (chars o mem)

end Sys2Proof.Machine

/-! PROOF. Headers closed, and routes opened (R62, R64, R74, R79, R80, R108). -/

namespace Sys2Proof.Machine

variable {s t u : State} {src : Source} {k : Fin 48}

/-! ## One story's record written -/

/-- A state with one story's record replaced. -/
def State.withStory (s : State) (k : Fin 48) (x : Story) : State := { s with stories := s.stories.set k x }

@[simp] theorem State.story_withStory (s : State) (k : Fin 48) (x : Story) : (s.withStory k x).story k = x :=
  (State.get_set ..).trans (if_pos rfl)

theorem State.story_withStory_other {j : Fin 48} (x : Story) (other : j ≠ k) :
    (s.withStory k x).story j = s.story j := (State.get_set ..).trans (if_neg other)

theorem State.withStory_withStory (s : State) (k : Fin 48) (x y : Story) :
    (s.withStory k x).withStory k y = s.withStory k y :=
  congrArg (fun w => { s with stories := w }) (vector_set_set ..)

theorem State.modStory_withStory (s : State) (k : Fin 48) (x : Story) (f : Story → Story) :
    (s.withStory k x).modStory k f = s.withStory k { f x with changed := true } := by
  rw [State.modStory_eq (y := { f x with changed := true }) (by rw [State.story_withStory])]
  exact State.withStory_withStory s k x _

/-! ## A header closed -/

/-- A story closed in HEADER for a reason (R64, R79). -/
def Story.rejected (x : Story) (why : CloseReason) (clock : Nat) : Story :=
  { x with state := .closed, reason := some why, closed := some clock, idleTimer := none, changed := true }

/-- The record and the notice of a rejection, without the reply and the test that follow. -/
def State.rejecting (s : State) (k : Fin 48) (x : Story) (why : CloseReason) : State :=
  { s.withStory k (x.rejected why s.regs.clock) with notices := (s.raise .storyRejected).notices }

theorem rejectStory_circuit {c : Fin 16} {x : Story} {why : CloseReason} (source : x.source = .circuit c) :
    rejectStory k why (s.withStory k x) = quietTest c (s.rejecting k x why) := by
  unfold rejectStory
  dsimp only
  rw [State.story_withStory, source, State.modStory_withStory]
  rfl

theorem rejectStory_terminal {p : Fin 8} {x : Story} {why : CloseReason} (source : x.source = .terminal p) :
    rejectStory k why (s.withStory k x)
      = (s.rejecting k x why).offerReply p (text ['N', 'O', ' '] ++ why.replyWords) := by
  unfold rejectStory
  dsimp only
  rw [State.story_withStory, source, State.modStory_withStory]
  rfl

theorem incBy_zero (n : Nat) : incBy 0 n = n := by
  unfold incBy
  omega

theorem addLoose_zero (s : State) (src : Source) : s.addLoose src 0 = s := by
  rw [addLoose_eq]
  cases src with
  | circuit c =>
    simp only [incBy_zero]
    exact congrArg (fun w => { s with circuits := w }) (vector_set_same s.circuits c)
  | terminal p =>
    simp only [incBy_zero]
    exact congrArg (fun w => { s with ports := w }) (vector_set_same s.ports p)

/-- The state a header's closing leaves, in the words of the obligation (R9, R62, R64). -/
structure State.HeaderClosed (s u : State) (src : Source) (k : Fin 48) (why : CloseReason) (x : Story)
    (g : Framer) (loose : Nat) : Prop where
  records : u = { s with
    circuits := u.circuits, ports := u.ports, notices := (s.raise .storyRejected).notices
    framers := s.framers.set src.index g
    stories := s.stories.set k (x.rejected why s.regs.clock) }
  circuits : ∀ c, let y := s.circuit c
    let z : Circuit := if src = .circuit c then { y with counts := { y.counts with
        looseCopy := incBy loose y.counts.looseCopy } } else y
    (src = .circuit c → u.AtQuietPoint c → ∀ cfg, y.pendingConfig = some cfg →
      u.circuit c = z.configured cfg)
    ∧ (src ≠ .circuit c ∨ ¬u.AtQuietPoint c ∨ y.pendingConfig = none → u.circuit c = z)
  ports : ∀ p, let y := s.port p
    u.port p = if src = .terminal p then
      { y with
        counts := { y.counts with looseCopy := incBy loose y.counts.looseCopy }
        replySlot := if y.enabled = true ∧ y.replySlot = none
          then some (text ['N', 'O', ' '] ++ why.replyWords) else y.replySlot }
    else y

/-- A header closed on a circuit: the test for its quiet point, then the loose copy. -/
theorem headerClosed_circuit {c : Fin 16} {x : Story} {why : CloseReason} {g : Framer} (n : Nat)
    (source : x.source = .circuit c) : s.HeaderClosed
      (((rejectStory k why (s.withStory k x)).withFramer (.circuit c) g).addLoose (.circuit c) n)
      (.circuit c) k why x g n := by
  rw [rejectStory_circuit source]
  have frame := quietTest_frame c (s.rejecting k x why)
  have tested := quietTest_circuit (s.rejecting k x why) c
  have quiet (d : Fin 16) : (((quietTest c (s.rejecting k x why)).withFramer (.circuit c) g).addLoose
      (.circuit c) n).AtQuietPoint d ↔ (s.rejecting k x why).AtQuietPoint d := by
    rw [frame]
    rfl
  have counted (d : Fin 16) : (((quietTest c (s.rejecting k x why)).withFramer (.circuit c) g).addLoose
      (.circuit c) n).circuit d = if d = c then { (quietTest c (s.rejecting k x why)).circuit c with
        counts := { ((quietTest c (s.rejecting k x why)).circuit c).counts with
          looseCopy := incBy n ((quietTest c (s.rejecting k x why)).circuit c).counts.looseCopy } }
        else (quietTest c (s.rejecting k x why)).circuit d := State.circuit_modCircuit ..
  refine ⟨?_, fun d => ?_, fun p => ?_⟩
  · rw [frame]
    rfl
  · rw [quiet, counted]
    by_cases here : d = c
    · subst here
      simp only [if_true]
      refine ⟨fun _ still cfg pending => ?_, fun stays => ?_⟩
      · rw [(tested d).1.1 still cfg pending, State.circuit_modCircuit_self]
        rfl
      · rw [(tested d).1.2 (stays.resolve_left fun other => other rfl)]
        rfl
    · have apart : (Source.circuit c = .circuit d) = False :=
        eq_false fun same => here (Source.circuit.inj same).symm
      simp only [apart, if_false, here, false_implies, true_and]
      exact fun _ => (tested d).2 here
  · rw [frame]
    rfl

/-- A header closed on a terminal: the reply, then the loose copy. -/
theorem headerClosed_terminal {p : Fin 8} {x : Story} {why : CloseReason} {g : Framer} (n : Nat)
    (source : x.source = .terminal p) : s.HeaderClosed
      (((rejectStory k why (s.withStory k x)).withFramer (.terminal p) g).addLoose (.terminal p) n)
      (.terminal p) k why x g n := by
  rw [rejectStory_terminal source]
  have replied : (s.rejecting k x why).offerReply p (text ['N', 'O', ' '] ++ why.replyWords)
      = { s.rejecting k x why with ports := s.ports.set p { s.port p with
          replySlot := if (s.port p).enabled = true ∧ (s.port p).replySlot = none
            then some (text ['N', 'O', ' '] ++ why.replyWords) else (s.port p).replySlot } } := by
    unfold State.offerReply
    have same : (s.rejecting k x why).port p = s.port p := rfl
    rw [same]
    split_ifs with free
    · rfl
    · exact (congrArg (fun w => { s.rejecting k x why with ports := w }) (vector_set_same s.ports p)).symm
  rw [replied]
  refine ⟨rfl, fun c => ?_, fun q => ?_⟩
  · have apart : (Source.terminal p = .circuit c) = False := by simp
    simp only [apart, if_false, false_implies, true_and]
    exact fun _ => rfl
  · by_cases here : q = p
    · subst here
      simp only [if_true]
      refine (State.port_modPort_self ..).trans ?_
      have read (y : Port) : ({ s.rejecting k x why with ports := s.ports.set q y }.withFramer
          (.terminal q) g).port q = y := (State.get_set ..).trans (if_pos rfl)
      rw [read]
    · have apart : (Source.terminal p = .terminal q) = False :=
        eq_false fun same => here (Source.terminal.inj same).symm
      simp only [apart, if_false]
      refine (State.port_modPort ..).trans ((if_neg here).trans ?_)
      exact (State.get_set ..).trans (if_neg here)

theorem headerClosed (n : Nat) {x : Story} {why : CloseReason} {g : Framer} (source : x.source = src) :
    s.HeaderClosed (((rejectStory k why (s.withStory k x)).withFramer src g).addLoose src n)
      src k why x g n := by
  cases src with
  | circuit c => exact headerClosed_circuit n source
  | terminal p => exact headerClosed_terminal n source

/-! ## A route opened -/

theorem insertEntry_last {e : Entry} {l : List Entry} (before : ∀ x ∈ l, x.outlet < e.outlet) :
    insertEntry e l = l ++ [e] := by
  have below : l.filter (fun x => x.outlet.val < e.outlet.val) = l :=
    List.filter_eq_self.2 fun x mem => decide_eq_true (before x mem)
  have above : l.filter (fun x => e.outlet.val < x.outlet.val) = [] := by
    refine List.filter_eq_nil_iff.2 fun x mem => ?_
    rw [decide_eq_true_iff, Nat.not_lt]
    exact le_of_lt (before x mem)
  unfold insertEntry
  rw [below, above, List.append_nil]

/-- An entry of a route as it is created (R74). -/
def routeEntry (o : Fin 24) : Entry :=
  { outlet := o, state := .waiting, start := 0, read := 0, owed := .header }

/-- The entries of a route, created one after the other in ascending order (R74, R80). -/
theorem createEntries_eq {os : List (Fin 24)} (ascending : os.Pairwise (· < ·)) {w : State}
    (marked : (w.story k).changed = true) (before : ∀ x ∈ (w.story k).entries, ∀ o ∈ os, x.outlet < o) :
    let v := forEach os (fun o t => createEntry k (.fresh o .waiting 0 .header) t) w
    v = { w with
      stories := w.stories.set k { w.story k with
        entries := (w.story k).entries ++ os.map routeEntry }
      outlets := v.outlets }
    ∧ ∀ o, v.outlet o = if o ∈ os then { w.outlet o with waiting := (w.outlet o).waiting ++ [k] }
      else w.outlet o := by
  induction os generalizing w with
  | nil =>
    refine ⟨?_, fun o => (if_neg List.not_mem_nil).symm⟩
    have same : ({ w.story k with entries := (w.story k).entries ++ [] } : Story) = w.story k := by
      rw [List.append_nil]
    rw [List.map_nil, same]
    exact congrArg (fun x => { w with stories := x }) (vector_set_same w.stories k).symm
  | cons a os ih =>
    obtain ⟨first, rest⟩ := List.pairwise_cons.1 ascending
    have inserted : insertEntry (routeEntry a) (w.story k).entries = (w.story k).entries ++ [routeEntry a] :=
      insertEntry_last fun x mem => before x mem a List.mem_cons_self
    have begun : createEntry k (.fresh a .waiting 0 .header) w
        = (w.withStory k { w.story k with entries := (w.story k).entries ++ [routeEntry a] }).withOutlet a
            { w.outlet a with waiting := (w.outlet a).waiting ++ [k] } := by
      have kept : ({ w.story k with
            entries := insertEntry (routeEntry a) (w.story k).entries, changed := true } : Story)
          = { w.story k with entries := (w.story k).entries ++ [routeEntry a] } := by
        rw [inserted, ← marked]
      rw [← kept]
      rfl
    intro v
    have isV : v = forEach os (fun o t => createEntry k (.fresh o .waiting 0 .header) t)
        ((w.withStory k { w.story k with entries := (w.story k).entries ++ [routeEntry a] }).withOutlet a
          { w.outlet a with waiting := (w.outlet a).waiting ++ [k] }) := congrArg (forEach os _) begun
    have story : ((w.withStory k { w.story k with
        entries := (w.story k).entries ++ [routeEntry a] }).withOutlet a
          { w.outlet a with waiting := (w.outlet a).waiting ++ [k] }).story k
        = { w.story k with entries := (w.story k).entries ++ [routeEntry a] } := State.story_withStory ..
    obtain ⟨records, outlets⟩ := ih rest (w := (w.withStory k { w.story k with
        entries := (w.story k).entries ++ [routeEntry a] }).withOutlet a
          { w.outlet a with waiting := (w.outlet a).waiting ++ [k] }) (by rw [story]; exact marked)
      (by
        rw [story]
        intro x mem o here
        rcases List.mem_append.1 mem with old | new
        · exact before x old o (List.mem_cons_of_mem a here)
        · rw [List.mem_singleton.1 new]
          exact first o here)
    rw [← isV] at records outlets
    refine ⟨?_, fun o => ?_⟩
    · rw [story] at records
      refine records.trans ?_
      have stories (x y : Story) : (w.stories.set k x).set k y = w.stories.set k y := vector_set_set ..
      simp only [State.withStory, State.withOutlet, stories, List.map_cons, List.append_assoc,
        List.cons_append, List.nil_append]
    · rw [outlets o]
      have outlet : ((w.withStory k { w.story k with
          entries := (w.story k).entries ++ [routeEntry a] }).withOutlet a
            { w.outlet a with waiting := (w.outlet a).waiting ++ [k] }).outlet o
          = if o = a then { w.outlet a with waiting := (w.outlet a).waiting ++ [k] } else w.outlet o :=
        State.get_set ..
      rw [outlet]
      by_cases here : o = a
      · subst here
        have out : o ∉ os := fun mem => lt_irrefl _ (first o mem)
        rw [if_neg out, if_pos rfl, if_pos List.mem_cons_self]
      · simp only [here, if_false, List.mem_cons, false_or]

end Sys2Proof.Machine

/-! PROOF. Routing (R80, R81, R105 to R108), and a header taken character by character (R62, R64). -/

namespace Sys2Proof.Machine

variable {s t u : State} {src : Source} {k : Fin 48} {ch : Office}

/-! ## Routes -/

/-- The directory with the routed count of a position raised, if one is counted (R108). -/
def State.countedDesks (s : State) : Option (Fin 32) → Vector (Option Desk) 32
  | some i => s.desks.set i ((s.desk i).map (fun e => { e with routed := inc e.routed }))
  | none => s.desks

/-- A story's record as its route opens, before its entries (R80). -/
def Story.routedOn (x : Story) (desk : Option DeskCode) : Story :=
  { x with state := .running, routedDesk := desk, changed := true }

theorem routed_begins (x : Story) (r : Route) : routed k r (s.withStory k x)
    = (forEach r.outlets (fun o t => createEntry k (.fresh o .waiting 0 .header) t)
        ({ s with desks := s.countedDesks r.counted }.withStory k (x.routedOn r.desk))).raise .storyOpened := by
  have story (w : State) : (w.withStory k x).modStory k (fun st =>
      { st with state := .running, routedDesk := r.desk }) = w.withStory k (x.routedOn r.desk) :=
    State.modStory_withStory ..
  unfold routed
  dsimp only
  cases r.counted with
  | none => exact congrArg (fun w => (forEach r.outlets _ w).raise .storyOpened) (story s)
  | some i => exact congrArg (fun w => (forEach r.outlets _ w).raise .storyOpened) (story (countRouted i s))

theorem routed_eq {x : Story} (r : Route) (bare : x.entries = []) (ascending : r.outlets.Pairwise (· < ·)) :
    let v := routed k r (s.withStory k x)
    v = { s with
      desks := s.countedDesks r.counted
      outlets := v.outlets
      notices := (s.raise .storyOpened).notices
      stories := s.stories.set k { x with
        state := .running, routedDesk := r.desk, changed := true
        entries := r.outlets.map routeEntry } }
    ∧ ∀ o, v.outlet o = if o ∈ r.outlets then { s.outlet o with waiting := (s.outlet o).waiting ++ [k] }
      else s.outlet o := by
  intro v
  have begun : v = _ := routed_begins x r
  have story : ({ s with desks := s.countedDesks r.counted }.withStory k (x.routedOn r.desk)).story k
      = x.routedOn r.desk := State.story_withStory ..
  have none_ : (x.routedOn r.desk).entries = [] := bare
  obtain ⟨records, outlets⟩ := createEntries_eq (k := k) ascending
    (w := { s with desks := s.countedDesks r.counted }.withStory k (x.routedOn r.desk))
    (by rw [story]; rfl) (by rw [story, none_]; exact fun _ mem => absurd mem List.not_mem_nil)
  generalize forEach r.outlets _ _ = z at begun records outlets
  rw [begun]
  refine ⟨?_, outlets⟩
  rw [story, none_, List.nil_append] at records
  have stories (a b : Story) : (s.stories.set k a).set k b = s.stories.set k b := vector_set_set ..
  simp only [State.withStory, stories] at records
  rw [records]
  rfl

/-- Routing reads no record of the story routed (R80, R81). -/
theorem routeStory_withStory (x : Story) (h : HeaderFields) :
    routeStory (s.withStory k x) k src h = routeStory s k src h := by
  have original (n : Nat) : (s.withStory k x).originalOf k n = s.originalOf k n := by
    unfold State.originalOf
    refine congrArg (fun p => allSlots.find? p) (funext fun j => ?_)
    by_cases here : j = k
    · simp [here]
    · rw [State.story_withStory_other x here]
  unfold routeStory
  rw [funext original]
  cases found : h.correction.bind (s.originalOf k) with
  | none => rfl
  | some j =>
    have other : j ≠ k := by
      obtain ⟨n, _, isOriginal⟩ := Option.bind_eq_some_iff.1 found
      have test := List.find?_some isOriginal
      simp only [ne_eq, decide_eq_true_eq] at test
      exact test.2.2.1
    dsimp only
    rw [State.story_withStory_other x other]
    rfl

theorem passes_iff (s : State) (src : Source) (echo : Bool) (o : Fin 24) : s.passes src echo o = true ↔
    (o ≠ src.index ∨ echo = true) ∧ (s.outlet o).state ≠ .off ∧ (s.outlet o).state ≠ .stalled
    ∧ (∀ c, o = lineOutlet c → (s.circuit c).state = .opened)
    ∧ (∀ p, o = terminalOutlet p → (s.port p).enabled = true)
    ∧ ∀ c d, src = .circuit c → o = lineOutlet d → (s.circuit d).config.n ≤ (s.circuit c).config.n := by
  unfold State.passes
  rw [Bool.and_eq_true, Bool.and_eq_true, Bool.or_eq_true, decide_eq_true_iff, available_iff, fastEnough_iff]
  simp only [and_assoc]

/-- The original of a correction (R81). -/
def State.Original (s : State) (k : Fin 48) (h : HeaderFields) (j : Fin 48) : Prop :=
  j ≠ k ∧ (s.story j).state ≠ .free ∧ h.correction = some (s.story j).number ∧ (s.story j).entries ≠ []

theorem original_some (ok : s.TableOk) {h : HeaderFields} {j : Fin 48} (original : s.Original k h j) :
    h.correction.bind (s.originalOf k) = some j := by
  obtain ⟨other, stands, names, entries⟩ := original
  rw [names, Option.bind_some]
  unfold State.originalOf
  rw [find?_allSlots]
  refine Fin.find?_eq_some_iff.2 ⟨by simp [stands, other, entries], fun i below => ?_⟩
  rw [decide_eq_false_iff_not]
  rintro ⟨stands', number, _⟩
  exact absurd (ok.numbers i j stands' stands number) (ne_of_lt below)

theorem original_none {h : HeaderFields} (no : ∀ j, ¬s.Original k h j) :
    h.correction.bind (s.originalOf k) = none := by
  refine Option.eq_none_iff_forall_ne_some.2 fun j found => no j ?_
  obtain ⟨n, names, isOriginal⟩ := Option.bind_eq_some_iff.1 found
  have test := List.find?_some isOriginal
  simp only [ne_eq, decide_eq_true_eq] at test
  obtain ⟨stands, number, other, entries⟩ := test
  exact ⟨other, stands, names.trans (congrArg some number.symm), entries⟩

/-- The lowest position whose entry carries a code (R101). -/
def State.Named (s : State) (i : Fin 32) (d : DeskCode) : Prop :=
  (∃ e, s.desk i = some e ∧ e.code = d) ∧ ∀ j, j < i → ∀ e, s.desk j = some e → e.code ≠ d

theorem findDesk_iff (s : State) (i : Fin 32) (d : DeskCode) : s.findDesk d = some i ↔ s.Named i d := by
  constructor
  · intro found
    unfold State.findDesk at found
    rw [show allPositions = List.finRange 32 from rfl, ← Fin.find?_eq_find?_finRange,
      Fin.find?_eq_some_iff] at found
    obtain ⟨here, below⟩ := found
    obtain ⟨e, held, carries⟩ := Option.any_eq_true .. |>.1 here
    refine ⟨⟨e, held, of_decide_eq_true carries⟩, fun j before e held => ?_⟩
    have test := below j before
    rw [held] at test
    exact of_decide_eq_false test
  · rintro ⟨⟨e, held, carries⟩, below⟩
    exact findDesk_lowest held carries below

theorem findDesk_none_iff (s : State) (d : DeskCode) :
    s.findDesk d = none ↔ ∀ j e, s.desk j = some e → e.code ≠ d :=
  ⟨fun none_ _ _ held => State.findDesk_none none_ held, findDesk_absent⟩

theorem defaultDesk_some {i : Fin 32} (isDefault : ∃ e, s.desk i = some e ∧ e.isDefault = true)
    (below : ∀ j, j < i → ∀ e, s.desk j = some e → e.isDefault = false) : s.defaultDesk = some i := by
  obtain ⟨e, held, marked⟩ := isDefault
  unfold State.defaultDesk
  rw [show allPositions = List.finRange 32 from rfl, ← Fin.find?_eq_find?_finRange]
  refine Fin.find?_eq_some_iff.2 ⟨by simp [held, marked], fun j before => ?_⟩
  cases other : s.desk j with
  | none => rfl
  | some d => simpa using below j before d other

theorem defaultDesk_none (none_ : ∀ j e, s.desk j = some e → e.isDefault = false) : s.defaultDesk = none := by
  refine List.find?_eq_none.2 fun i _ => ?_
  cases held : s.desk i with
  | none => simp
  | some e => simpa using none_ i e held

theorem echoOf_iff (s : State) (d : Option DeskCode) : s.echoOf d = true
    ↔ ∃ i e, s.desk i = some e ∧ e.echo = true ∧ s.Named i e.code ∧ d = some e.code := by
  unfold State.echoOf
  cases found : d.bind s.findDesk with
  | none =>
    refine ⟨nofun, ?_⟩
    rintro ⟨i, e, held, echo, named, rfl⟩
    rw [Option.bind_some, (findDesk_iff ..).2 named] at found
    cases found
  | some i =>
    obtain ⟨code, rfl, isFound⟩ := Option.bind_eq_some_iff.1 found
    have named := (findDesk_iff ..).1 isFound
    obtain ⟨⟨e, held, carries⟩, _⟩ := id named
    subst carries
    simp only [held, Option.any_some]
    constructor
    · exact fun echo => ⟨i, e, held, echo, named, rfl⟩
    · rintro ⟨j, d, held', echo, named', same⟩
      have at_j := (findDesk_iff ..).2 named'
      rw [← Option.some.inj same, isFound] at at_j
      obtain rfl := Option.some.inj at_j
      rw [held] at held'
      obtain rfl := Option.some.inj held'
      exact echo

/-- A story routed as a correction of its original (R81). -/
theorem routeStory_original (ok : s.TableOk) {h : HeaderFields} {j : Fin 48} (original : s.Original k h j) :
    routeStory s k src h = Route.nonempty
      ⟨((s.story j).entries.map (·.outlet)).filter (s.passes src (s.echoOf (s.story j).routedDesk)),
        (s.story j).routedDesk, none⟩ := by
  unfold routeStory
  simp only [original_some ok original]

theorem routeStory_byDesk {h : HeaderFields} (no : ∀ j, ¬s.Original k h j) :
    routeStory s k src h = routeByDesk s src h := by
  unfold routeStory
  simp only [original_none no]

/-- The desk that a code leads to, the default where no entry carries it (R105). -/
def State.LeadsTo (s : State) (d : DeskCode) (i : Fin 32) : Prop := s.Named i d
  ∨ (∀ j e, s.desk j = some e → e.code ≠ d) ∧ (∃ e, s.desk i = some e ∧ e.isDefault = true)
    ∧ ∀ j, j < i → ∀ e, s.desk j = some e → e.isDefault = false

theorem chooseDesk_some {d : DeskCode} {p : Priority} {i : Fin 32} (leads : s.LeadsTo d i) :
    chooseDesk s d p = deskUsed s i p := by
  unfold chooseDesk
  rcases leads with named | ⟨absent, isDefault, below⟩
  · simp only [(findDesk_iff ..).2 named, Option.orElse_some]
  · simp only [findDesk_absent absent, Option.orElse_none, defaultDesk_some isDefault below]

theorem chooseDesk_none {d : DeskCode} {p : Priority}
    (none_ : ∀ j e, s.desk j = some e → e.code ≠ d ∧ e.isDefault = false) :
    chooseDesk s d p = .error .unknownDesk := by
  unfold chooseDesk
  simp only [findDesk_absent fun j e held => (none_ j e held).1, Option.orElse_none,
    defaultDesk_none fun j e held => (none_ j e held).2]

theorem deskUsed_cases {i : Fin 32} {e : Desk} (held : s.desk i = some e) (p : Priority) :
    (p.rank ≤ e.floor.rank → deskUsed s i p = .ok i)
    ∧ (e.floor.rank < p.rank →
      ((∀ j d, s.desk j = some d → e.fallback ≠ some d.code) → deskUsed s i p = .error .noRoute)
      ∧ ∀ j d, e.fallback = some d → s.Named j d → deskUsed s i p = .ok j) := by
  unfold deskUsed
  simp only [held]
  refine ⟨fun above => if_pos above, fun below => ⟨fun none_ => ?_, fun j d falls named => ?_⟩⟩
  · have absent : e.fallback.bind s.findDesk = none := by
      refine Option.eq_none_iff_forall_ne_some.2 fun j found => ?_
      obtain ⟨code, falls, isFound⟩ := Option.bind_eq_some_iff.1 found
      obtain ⟨⟨d, held', carries⟩, _⟩ := (findDesk_iff ..).1 isFound
      exact none_ j d held' (falls.trans (congrArg some carries.symm))
    rw [if_neg (by omega), absent]
  · rw [if_neg (by omega), falls, Option.bind_some, (findDesk_iff ..).2 named]

theorem routeByDesk_error {h : HeaderFields} {why : CloseReason}
    (chosen : chooseDesk s h.desk h.priority = .error why) : routeByDesk s src h = .error why := by
  unfold routeByDesk
  simp only [chosen]

theorem routeByDesk_ok {h : HeaderFields} {i : Fin 32} {e : Desk}
    (chosen : chooseDesk s h.desk h.priority = .ok i) (held : s.desk i = some e) :
    routeByDesk s src h = Route.nonempty ⟨(setOutlets e.outlets).filter (s.passes src e.echo), some e.code,
      some i⟩ := by
  unfold routeByDesk
  simp only [chosen, held]

end Sys2Proof.Machine

/-! PROOF. A framer in HEADER takes a character (R62, R64). -/

namespace Sys2Proof.Machine

variable {s t u : State} {src : Source} {k : Fin 48} {ch : Office}

/-! ## The framer of a story in HEADER -/

theorem restartIdle_withStory (idle : (s.story k).idleTimer.isSome = true) :
    restartIdle k s = s.withStory k { s.story k with idleTimer := some 0 } := by
  obtain ⟨e, runs⟩ := Option.isSome_iff_exists.1 idle
  rw [restartIdle_eq, runs]
  rfl

theorem takeChar_header (slot : (framerOf src s).slot = some k) (state : (framerOf src s).state = .header) :
    takeChar src ch s = takeHeader src k ch (restartIdle k s) := by
  unfold takeChar
  simp only [slot, state]

theorem framerOf_withStory (s : State) (src : Source) (k : Fin 48) (x : Story) :
    framerOf src (s.withStory k x) = framerOf src s := rfl

theorem framerOf_rejectStory (s : State) (src : Source) (why : CloseReason) :
    framerOf src (rejectStory k why s) = framerOf src s :=
  (OnStory.refl s).rejectStory.framers _

theorem isLineEnd_iff (ch : Office) : isLineEnd ch = true ↔ ch = cr ∨ ch = lf := decide_eq_true_iff

/-- A header rejected, its framer sent on (R62, R64). -/
theorem rejected_closed {x : Story} {why : CloseReason} (n : Nat) (f : Framer → Framer)
    (source : x.source = src) : s.HeaderClosed
      ((modFramerOf src f (rejectStory k why (s.withStory k x))).addLoose src n)
      src k why x (f (framerOf src s)) n := by
  rw [modFramerOf_eq, framerOf_rejectStory]
  exact headerClosed n source

theorem takeHeader_collects {w : State} (inside : ¬(ch = cr ∨ ch = lf))
    (short : (framerOf src w).header.length < 40) : takeHeader src k ch w
      = w.withFramer src { framerOf src w with
          header := (framerOf src w).header ++ [ch], lineStart := false, lineEnd := false } := by
  have notEnd : isLineEnd ch = false := Bool.eq_false_iff.2 (mt (isLineEnd_iff ch).1 inside)
  unfold takeHeader
  rw [notEnd, if_neg Bool.false_ne_true, if_pos short, modFramerOf_eq]
  unfold Framer.took
  rw [notEnd]

theorem takeHeader_overlong {x : Story} (source : x.source = src) (inside : ¬(ch = cr ∨ ch = lf))
    (long : 40 ≤ (framerOf src s).header.length) : s.HeaderClosed (takeHeader src k ch (s.withStory k x))
      src k .headerFault x { framerOf src s with
        lineStart := false, lineEnd := false, state := .discard, slot := none, header := [] } 1 := by
  have notEnd : isLineEnd ch = false := Bool.eq_false_iff.2 (mt (isLineEnd_iff ch).1 inside)
  have full : ¬(framerOf src (s.withStory k x)).header.length < 40 := Nat.not_lt.2 long
  have closed := rejected_closed (k := k) (s := s) (x := x) (why := .headerFault) 1
    (fun g => (g.took ch).dropHeader) source
  unfold takeHeader
  rw [notEnd, if_neg Bool.false_ne_true, if_neg full]
  refine cast (congrArg (fun g => s.HeaderClosed _ src k .headerFault x g 1) ?_) closed
  unfold Framer.took Framer.dropHeader
  rw [notEnd]

theorem takeHeader_ends {w : State} (ends : ch = cr ∨ ch = lf) :
    takeHeader src k ch w = judgeHeader src k (decide (ch = cr)) w := if_pos ((isLineEnd_iff ch).2 ends)

theorem judgeHeader_fault {byCR : Bool} {x : Story} (source : x.source = src)
    (fault : parseHeader (framerOf src s).header = none) :
    s.HeaderClosed (judgeHeader src k byCR (s.withStory k x)) src k .headerFault x
      ((framerOf src s).rejected byCR) 0 := by
  have closed := rejected_closed (k := k) (s := s) (x := x) (why := .headerFault) 0
    (fun g => g.rejected byCR) source
  rw [addLoose_zero] at closed
  unfold judgeHeader
  simp only [framerOf_withStory, fault]
  exact closed

/-- The record of a header read (R80). -/
def Story.headed (x : Story) (h : HeaderFields) : Story := { x.withHeader h with changed := true }

theorem completeHeader_eq {x : Story} (h : HeaderFields) (source : x.source = src) :
    completeHeader k h (s.withStory k x) = match routeStory s k src h with
      | .ok r => (true, routed k r (s.withStory k (x.headed h)))
      | .error why => (false, rejectStory k why (s.withStory k (x.headed h))) := by
  unfold completeHeader
  dsimp only
  rw [State.story_withStory, source, State.modStory_withStory]
  rw [show ({ x.withHeader h with changed := true } : Story) = x.headed h from rfl, routeStory_withStory] <;> rfl

theorem judgeHeader_rejected {byCR : Bool} {x : Story} {h : HeaderFields} {why : CloseReason}
    (source : x.source = src) (reads : parseHeader (framerOf src s).header = some h)
    (route : routeStory s k src h = .error why) :
    s.HeaderClosed (judgeHeader src k byCR (s.withStory k x)) src k why (x.headed h)
      ((framerOf src s).rejected byCR) 0 := by
  have closed := rejected_closed (k := k) (s := s) (x := x.headed h) (why := why) 0
    (fun g => g.rejected byCR) source
  rw [addLoose_zero] at closed
  unfold judgeHeader
  simp only [framerOf_withStory, reads, completeHeader_eq h source, route]
  exact closed

theorem judgeHeader_routed {byCR : Bool} {x : Story} {h : HeaderFields} {r : Route}
    (source : x.source = src) (reads : parseHeader (framerOf src s).header = some h)
    (route : routeStory s k src h = .ok r) : judgeHeader src k byCR (s.withStory k x)
      = modFramerOf src (fun f => f.enterStory byCR) (routed k r (s.withStory k (x.headed h))) := by
  unfold judgeHeader
  simp only [framerOf_withStory, reads, completeHeader_eq h source, route]

/-! ## A filtered set -/

theorem Route.nonempty_nil {d : Option DeskCode} {i : Option (Fin 32)} :
    Route.nonempty ⟨[], d, i⟩ = .error .noOutlet := if_pos rfl

theorem Route.nonempty_some {kept : List (Fin 24)} {d : Option DeskCode} {i : Option (Fin 32)}
    (some_ : kept ≠ []) : Route.nonempty ⟨kept, d, i⟩ = .ok ⟨kept, d, i⟩ := if_neg some_

theorem setOutlets_filter (x : BitVec 24) (p : Fin 24 → Bool) :
    (setOutlets x).filter p = (List.finRange 24).filter (fun o => x.getLsbD o.val && p o) := by
  unfold setOutlets allOutlets
  rw [List.filter_filter]
  simp only [Bool.and_comm]

theorem finRange_filter_ascending (p : Fin 24 → Bool) :
    ((List.finRange 24).filter p).Pairwise (· < ·) := (List.pairwise_lt_finRange 24).filter _

/-- Settles O55: the form of a line, the filter of an outlet, and a framer in HEADER character by
character. -/
theorem headersAreJudgedAndRouted : Obligations.HeadersAreJudgedAndRouted := by
  refine ⟨parseHeader_written, passes_iff, fun s src k ch ok => ?_⟩
  intro f x slot state u ends closedWith fault ended
  obtain ⟨source, fits_⟩ := ok.framers src k slot
  have head : x.state = .header := by
    rw [show (framerOf src s).state = .header from state] at fits_
    change fits .header x.state = true at fits_
    cases at_ : x.state with
    | header => rfl
    | free | running | held | closing | closed => rw [at_] at fits_; cases fits_
  have bare : x.entries = [] := ((ok.table.stories k).bare (.inr head)).1
  have idle : (s.story k).idleTimer.isSome = true := (ok.table.stories k).idle.2 (.inl head)
  have taken : u = takeHeader src k ch (s.withStory k { x with idleTimer := some 0 }) :=
    (takeChar_header slot state).trans (congrArg _ (restartIdle_withStory idle))
  have closes {why : CloseReason} {words : List Char} {y x' : Story} {g : Framer} {n : Nat}
      (isWords : text ['N', 'O', ' '] ++ why.replyWords = text (['N', 'O', ' '] ++ words))
      (closed : s.HeaderClosed u src k why y
        { g with state := .discard, slot := none, header := [] } n)
      (same : y.rejected why s.regs.clock = x'.rejected why s.regs.clock) : closedWith why words x' g n := by
    obtain ⟨records, circuits, ports⟩ := closed
    rw [isWords] at ports
    rw [same] at records
    exact ⟨records, circuits, ports⟩
  refine ⟨fun inside short => ?collects, fun inside long => ?overlong, fun atEnd bad => ?bad,
    fun h atEnd reads => ?reads⟩
  case collects => exact taken.trans (takeHeader_collects inside short)
  case overlong =>
    have closed := takeHeader_overlong (k := k) (x := { x with idleTimer := some 0 }) source inside long
    rw [← taken] at closed
    exact closes rfl closed rfl
  case bad =>
    have closed := judgeHeader_fault (k := k) (byCR := decide (ch = cr))
      (x := { x with idleTimer := some 0 }) source bad
    rw [← takeHeader_ends atEnd, ← taken] at closed
    exact closes rfl closed rfl
  case reads =>
    intro x' rejected original named fallen through routedTo
    have judged : u = judgeHeader src k (decide (ch = cr)) (s.withStory k { x with idleTimer := some 0 }) :=
      taken.trans (takeHeader_ends atEnd)
    have rejects {why : CloseReason} {words : List Char}
        (isWords : text ['N', 'O', ' '] ++ why.replyWords = text (['N', 'O', ' '] ++ words))
        (route : routeStory s k src h = .error why) : rejected why words := by
      have closed := judgeHeader_rejected (k := k) (byCR := decide (ch = cr))
        (x := { x with idleTimer := some 0 }) source reads route
      rw [← judged] at closed
      exact closes isWords closed rfl
    have opens (kept : List (Fin 24)) (desk : Option DeskCode) (counted : Option (Fin 32))
        (ascending : kept.Pairwise (· < ·))
        (route : routeStory s k src h = Route.nonempty ⟨kept, desk, counted⟩) :
        through kept desk (s.countedDesks counted) := by
      refine ⟨fun empty => ?_, fun some_ => ?_⟩
      · subst empty
        exact rejects rfl (route.trans Route.nonempty_nil)
      · have routes := judgeHeader_routed (k := k) (byCR := decide (ch = cr))
          (x := { x with idleTimer := some 0 }) source reads (route.trans (Route.nonempty_some some_))
        obtain ⟨records, outlets⟩ := routed_eq (s := s) (k := k)
          (x := ({ x with idleTimer := some 0 } : Story).headed h) ⟨kept, desk, counted⟩ bare ascending
        rw [judged, routes]
        generalize routed k _ _ = v at records outlets ⊢
        refine ⟨?_, outlets⟩
        rw [records]
        rfl
    refine ⟨fun j isOriginal echo isEcho => ?_, fun none_ => ⟨fun absent => ?_, fun i e leads held => ?_⟩⟩
    · have same : echo = s.echoOf (s.story j).routedDesk := Bool.eq_iff_iff.2 (isEcho.trans (echoOf_iff ..).symm)
      have sorted : ((s.story j).entries.map (·.outlet)).Pairwise (· < ·) :=
        List.pairwise_map.2 (ok.table.stories j).sorted
      have route := routeStory_original (src := src) ok.table isOriginal
      rw [← same] at route
      exact opens _ _ none (sorted.filter _) route
    · exact rejects rfl ((routeStory_byDesk none_).trans (routeByDesk_error (chooseDesk_none absent)))
    · have byDesk := routeStory_byDesk (src := src) none_
      have chosen : chooseDesk s h.desk h.priority = deskUsed s i h.priority := chooseDesk_some leads
      have goes {j : Fin 32} {d : Desk} (used : deskUsed s i h.priority = .ok j) (held : s.desk j = some d) :
          routedTo j d := by
        have route := byDesk.trans (routeByDesk_ok (src := src) (chosen.trans used) held)
        rw [setOutlets_filter] at route
        have desks : s.countedDesks (some j) = s.desks.set j (some { d with routed := inc d.routed }) := by
          unfold State.countedDesks
          simp only [held, Option.map_some]
        have through_ := opens _ (some d.code) (some j) (finRange_filter_ascending _) route
        rw [desks] at through_
        exact through_
      obtain ⟨above, below⟩ := deskUsed_cases held h.priority
      refine ⟨fun high => goes (above high) held, fun low => ⟨fun nowhere => ?_, fun j d held' falls named' => ?_⟩⟩
      · exact rejects rfl (byDesk.trans (routeByDesk_error (chosen.trans ((below low).1 nowhere))))
      · exact goes ((below low).2 j d.code falls named') held'

end Sys2Proof.Machine

/-! PROOF. Entries of a story cut together, and quiet points tested together (R9, R82, R92, R93). -/

namespace Sys2Proof.Machine

variable {s t u : State} {k : Fin 48} {os : List (Fin 24)} {why : Fin 24 → CutReason}

/-! ## Quiet points -/

/-- A circuit record after a test that finds its quiet point (R9). -/
def Circuit.quieted (y : Circuit) : Circuit :=
  match y.pendingConfig with
  | some cfg => y.configured cfg
  | none => y

theorem Circuit.quieted_some {y : Circuit} {cfg : CircuitConfig} (pending : y.pendingConfig = some cfg) :
    y.quieted = y.configured cfg := by
  unfold Circuit.quieted
  simp only [pending]

theorem Circuit.quieted_none {y : Circuit} (pending : y.pendingConfig = none) : y.quieted = y := by
  unfold Circuit.quieted
  simp only [pending]

theorem Circuit.quieted_quieted (y : Circuit) : y.quieted.quieted = y.quieted := by
  cases pending : y.pendingConfig with
  | none => rw [Circuit.quieted_none pending, Circuit.quieted_none pending]
  | some cfg =>
    rw [Circuit.quieted_some pending]
    exact Circuit.quieted_none rfl

/-- A record that is the tested one if a condition holds, in the words of the obligations. -/
theorem quieted_clauses {y z : Circuit} {P Q : Prop} [Decidable (P ∧ Q)]
    (tested : z = if P ∧ Q then y.quieted else y) :
    (P → Q → ∀ cfg, y.pendingConfig = some cfg → z = y.configured cfg)
      ∧ (¬P ∨ ¬Q ∨ y.pendingConfig = none → z = y) := by
  refine ⟨fun asked still cfg pending => ?_, fun stays => ?_⟩
  · rw [tested, if_pos ⟨asked, still⟩, Circuit.quieted_some pending]
  · rw [tested]
    split_ifs with due
    · exact Circuit.quieted_none (by tauto)
    · rfl

theorem circuit_quietTest (c d : Fin 16) (s : State) [Decidable (d = c ∧ s.AtQuietPoint d)] :
    (quietTest c s).circuit d = if d = c ∧ s.AtQuietPoint d then (s.circuit d).quieted else s.circuit d := by
  obtain ⟨⟨due, still⟩, apart⟩ := quietTest_circuit s c d
  by_cases here : d = c
  · subst here
    by_cases quiet : s.AtQuietPoint d
    · rw [if_pos ⟨rfl, quiet⟩]
      cases pending : (s.circuit d).pendingConfig with
      | none => rw [still (.inr pending), Circuit.quieted_none pending]
      | some cfg => rw [due quiet cfg pending, State.circuit_modCircuit_self, Circuit.quieted_some pending]
    · rw [if_neg fun both => quiet both.2, still (.inl quiet)]
  · rw [if_neg fun both => here both.1, apart here]

theorem circuit_quietTestOutlet (o : Fin 24) (c : Fin 16) (s : State)
    [Decidable (lineOutlet c = o ∧ s.AtQuietPoint c)] : (quietTestOutlet o s).circuit c
      = if lineOutlet c = o ∧ s.AtQuietPoint c then (s.circuit c).quieted else s.circuit c := by
  classical
  rcases line_or_terminal o with ⟨d, rfl⟩ | ⟨p, rfl⟩
  · rw [quietTestOutlet_line, circuit_quietTest]
    exact if_congr (by rw [lineOutlet_inj]) rfl rfl
  · rw [quietTestOutlet_terminal, if_neg fun both => lineOutlet_ne_terminalOutlet c p both.1]

theorem quietTests_frame (os : List (Fin 24)) (s : State) : forEach os quietTestOutlet s
    = { s with circuits := (forEach os quietTestOutlet s).circuits } := by
  induction os generalizing s with
  | nil => rfl
  | cons o os ih =>
    rw [forEach_cons]
    exact (ih _).trans (by rw [quietTestOutlet_frame o s])

theorem quietTests_quiet (os : List (Fin 24)) (s : State) (c : Fin 16) :
    (forEach os quietTestOutlet s).AtQuietPoint c ↔ s.AtQuietPoint c := by
  rw [quietTests_frame]
  exact Iff.rfl

theorem quietTestOutlet_quiet (o : Fin 24) (s : State) (c : Fin 16) :
    (quietTestOutlet o s).AtQuietPoint c ↔ s.AtQuietPoint c := quietTests_quiet [o] s c

theorem circuit_quietTests (os : List (Fin 24)) (c : Fin 16) (s : State)
    [Decidable (lineOutlet c ∈ os ∧ s.AtQuietPoint c)] : (forEach os quietTestOutlet s).circuit c
      = if lineOutlet c ∈ os ∧ s.AtQuietPoint c then (s.circuit c).quieted else s.circuit c := by
  classical
  induction os generalizing s with
  | nil => exact (if_neg fun both => List.not_mem_nil both.1).symm
  | cons o os ih =>
    rw [forEach_cons, ih, circuit_quietTestOutlet]
    simp only [quietTestOutlet_quiet]
    by_cases quiet : s.AtQuietPoint c
    · simp only [and_iff_left quiet, List.mem_cons]
      by_cases here : lineOutlet c = o
      · simp only [here, if_true, true_or, Circuit.quieted_quieted, ite_self]
      · simp only [here, if_false, false_or]
    · simp only [quiet, and_false, if_false]

theorem quietTestSource_frame (src : Source) (s : State) :
    quietTestSource src s = { s with circuits := (quietTestSource src s).circuits } := by
  cases src with
  | circuit c => exact quietTest_frame c s
  | terminal p => rfl

theorem circuit_quietTestSource (src : Source) (c : Fin 16) (s : State)
    [Decidable (src = .circuit c ∧ s.AtQuietPoint c)] : (quietTestSource src s).circuit c
      = if src = .circuit c ∧ s.AtQuietPoint c then (s.circuit c).quieted else s.circuit c := by
  classical
  cases src with
  | circuit d =>
    refine (circuit_quietTest d c s).trans (if_congr ?_ rfl rfl)
    rw [Source.circuit.injEq, eq_comm]
  | terminal p => exact (if_neg fun both => Source.noConfusion both.1).symm

/-! ## Entries cut -/

/-- A story with its entries for some outlets cut. -/
def Story.cutAll (x : Story) (os : List (Fin 24)) (why : Fin 24 → CutReason) : Story :=
  { x with
    changed := if os = [] then x.changed else true
    entries := x.entries.map (fun e => if e.outlet ∈ os then e.cut x.taken (why e.outlet) else e) }

theorem Story.cutAll_nil (x : Story) : x.cutAll [] why = x := by
  unfold Story.cutAll
  simp

theorem Story.cutAll_congr (x : Story) {as bs : List (Fin 24)} (same : ∀ o, o ∈ as ↔ o ∈ bs) :
    x.cutAll as why = x.cutAll bs why := by
  have empty : as = [] ↔ bs = [] := by simp only [List.eq_nil_iff_forall_not_mem, same]
  unfold Story.cutAll
  simp only [empty, same]

theorem Entry.cut_live (e : Entry) (taken : Nat) (w : CutReason) : (e.cut taken w).state.live = false := rfl

theorem Story.liveOn_cutAll (x : Story) (o : Fin 24) :
    (x.cutAll os why).liveOn o = true ↔ x.liveOn o = true ∧ o ∉ os := by
  have outlet (e : Entry) : (if e.outlet ∈ os then e.cut x.taken (why e.outlet) else e).outlet = e.outlet := by
    split_ifs <;> rfl
  have live (e : Entry) : (if e.outlet ∈ os then e.cut x.taken (why e.outlet) else e).state.live = true
      ↔ e.state.live = true ∧ e.outlet ∉ os := by
    by_cases gone : e.outlet ∈ os
    · simp [gone, Entry.cut_live]
    · simp [gone]
  unfold Story.liveOn Story.cutAll
  simp only [List.any_map, List.any_eq_true, Function.comp, Bool.and_eq_true, decide_eq_true_eq, outlet, live]
  constructor
  · rintro ⟨e, mem, rfl, isLive, stays⟩
    exact ⟨⟨e, mem, rfl, isLive⟩, stays⟩
  · rintro ⟨⟨e, mem, rfl, isLive⟩, stays⟩
    exact ⟨e, mem, rfl, isLive, stays⟩

theorem Story.cutOff_cutAll (x : Story) {o : Fin 24} (fresh : o ∉ os) :
    (x.cutAll os why).cutOff o (why o) = x.cutAll (os ++ [o]) why := by
  unfold Story.cutOff Story.cutAll
  have some : os ++ [o] ≠ [] := by simp
  rw [if_neg some]
  refine congrArg (fun es => { x with changed := true, entries := es }) ?_
  rw [List.map_map]
  refine List.map_congr_left fun e _ => ?_
  by_cases gone : e.outlet ∈ os
  · have other : e.outlet ≠ o := fun same => fresh (same ▸ gone)
    have stays : (e.cut x.taken (why e.outlet)).outlet ≠ o := other
    simp [gone, stays]
  · by_cases here : e.outlet = o
    · subst here
      simp [gone]
    · simp [gone, here]

/-- Notices with a flag raised (R174). -/
def raisedNotices (f : Flag) (n : Notices) : Notices := n.withFlags (n.flags ||| f.mask)

theorem raise_notices (s : State) (f : Flag) : (s.raise f).notices = raisedNotices f s.notices := rfl

theorem raisedNotices_idem (f : Flag) (n : Notices) : raisedNotices f (raisedNotices f n) = raisedNotices f n := by
  unfold raisedNotices Notices.withFlags
  simp only [BitVec.or_assoc, BitVec.or_self]

/-- What cutting a story's entries for some outlets brings about (R82). -/
structure State.CutOn (s t : State) (k : Fin 48) (os : List (Fin 24)) (why : Fin 24 → CutReason) :
    Prop where
  frame : t = { s with stories := t.stories, outlets := t.outlets, notices := t.notices }
  story : t.story k = (s.story k).cutAll os why
  others : ∀ j, j ≠ k → t.story j = s.story j
  outlets : ∀ o, t.outlet o = if o ∈ os then (s.outlet o).cutOff k (why o) else s.outlet o
  notices : t.notices = if ∃ o ∈ os, (why o).flagged = true then (s.raise .destCut).notices else s.notices

namespace State.CutOn

theorem nil : s.CutOn s k [] why := by
  refine ⟨rfl, (s.story k).cutAll_nil.symm, fun j _ => rfl, fun o => ?_, ?_⟩
  · rw [if_neg List.not_mem_nil]
  · rw [if_neg (by simp)]

theorem congr {as bs : List (Fin 24)} (same : ∀ o, o ∈ as ↔ o ∈ bs) (h : s.CutOn t k as why) :
    s.CutOn t k bs why := by
  obtain ⟨frame, story, others, outlets, notices⟩ := h
  refine ⟨frame, ?_, others, ?_, ?_⟩
  · rw [story]
    exact Story.cutAll_congr _ same
  · simpa only [same] using outlets
  · simpa only [same] using notices

/-- One more entry cut. -/
theorem snoc {o : Fin 24} (live : (s.story k).liveOn o = true) (h : s.CutOn t k os why) :
    s.CutOn (cutRecord k o (why o) t) k (os ++ [o]) why := by
  have standing := h
  obtain ⟨frame, story, others, outlets, notices⟩ := h
  by_cases gone : o ∈ os
  · have dead : (t.story k).liveOn o = false := by
      rw [story, Bool.eq_false_iff]
      exact fun live => ((Story.liveOn_cutAll _ _).1 live).2 gone
    rw [cutRecord_dead dead]
    refine standing.congr fun a => ?_
    rw [List.mem_append, List.mem_singleton]
    exact ⟨.inl, fun mem => mem.elim id fun same => same ▸ gone⟩
  · have still : (t.story k).liveOn o = true := by
      rw [story]
      exact (Story.liveOn_cutAll _ _).2 ⟨live, gone⟩
    rw [cutRecord_live still]
    unfold cutState
    refine ⟨?_, ?_, fun j other => ?_, fun a => ?_, ?_⟩
    · rw [frame]
    · refine ((State.get_set ..).trans (if_pos rfl)).trans ?_
      rw [story, Story.cutOff_cutAll _ gone]
    · exact ((State.get_set ..).trans (if_neg other)).trans (others j other)
    · refine (State.get_set ..).trans ?_
      by_cases here : a = o
      · subst here
        rw [if_pos rfl, outlets, if_neg gone, if_pos (by simp)]
      · refine (if_neg here).trans ((outlets a).trans (if_congr ?_ rfl rfl))
        simp [here]
    · by_cases flags : (why o).flagged = true
      · refine (if_pos flags).trans ?_
        rw [if_pos ⟨o, by simp, flags⟩]
        by_cases before : ∃ a ∈ os, (why a).flagged = true
        · rw [if_pos before] at notices
          exact (congrArg (raisedNotices .destCut) notices).trans (raisedNotices_idem _ _)
        · rw [if_neg before] at notices
          exact congrArg (raisedNotices .destCut) notices
      · refine (if_neg flags).trans (notices.trans (if_congr ?_ rfl rfl))
        simp [flags, or_and_right, exists_or]

/-- A story's live entries for some outlets cut one after the other. -/
theorem of_forEach (live : ∀ o ∈ os, (s.story k).liveOn o = true) :
    s.CutOn (forEach os (fun o t => cutRecord k o (why o) t) s) k os why := by
  induction os using List.reverseRecOn with
  | nil => exact nil
  | append_singleton os o ih =>
    have before := ih fun a mem => live a (List.mem_append_left _ mem)
    have last : forEach (os ++ [o]) (fun o t => cutRecord k o (why o) t) s
        = cutRecord k o (why o) (forEach os (fun o t => cutRecord k o (why o) t) s) := by
      unfold forEach
      rw [List.foldl_append]
      rfl
    rw [last]
    exact before.snoc (live o (by simp))

end State.CutOn

end Sys2Proof.Machine

/-! PROOF. Stories closed with their live entries cut, and kills (R70, R82, R92, R93). -/

namespace Sys2Proof.Machine

variable {s t u : State} {k : Fin 48} {why : Fin 24 → CutReason} {reason : CloseReason}

/-! ## The outlets of a story's live entries -/

/-- The outlets of a story's entries that satisfy a test. -/
theorem mem_outletsWhere_iff {x : Story} {p : Entry → Bool} {o : Fin 24} :
    o ∈ x.outletsWhere p ↔ ∃ e ∈ x.entries, e.outlet = o ∧ p e = true := by
  simp only [Story.outletsWhere, List.mem_map, List.mem_filter]
  exact ⟨fun ⟨e, ⟨mem, sat⟩, onIt⟩ => ⟨e, mem, onIt, sat⟩, fun ⟨e, mem, onIt, sat⟩ => ⟨e, ⟨mem, sat⟩, onIt⟩⟩

/-- The outlets that a story has live entries for. -/
def Story.liveOutlets (x : Story) : List (Fin 24) := x.outletsWhere (fun e => e.state.live)

theorem mem_liveOutlets {x : Story} {o : Fin 24} : o ∈ x.liveOutlets ↔ x.liveOn o = true := by
  rw [Story.liveOutlets, mem_outletsWhere_iff, Story.liveOn_iff]

/-- Each outlet has one entry: an entry's outlet satisfies a test's outlets if the entry satisfies it. -/
theorem mem_outletsWhere_of_ascending {x : Story} {p : Entry → Bool} {e : Entry}
    (ascending : x.entries.Pairwise (fun a b => a.outlet < b.outlet)) (mem : e ∈ x.entries) :
    e.outlet ∈ x.outletsWhere p ↔ p e = true := by
  rw [mem_outletsWhere_iff]
  refine ⟨fun ⟨a, other, same, sat⟩ => ?_, fun sat => ⟨e, mem, rfl, sat⟩⟩
  exact entry_unique ascending other mem same ▸ sat

/-! ## Stories closed with their entries cut -/

/-- A story closed at once (R92, R93). -/
def Story.shut (x : Story) (reason : CloseReason) (clock : Nat) : Story :=
  { x with
    state := .closed, reason := some reason, closed := some clock, idleTimer := none, heldBy := none,
    blockedSince := none, blockTimer := none, changed := true }

/-- What the closing of a story with its live entries cut brings about (R82, R92, R93). -/
structure State.CutClosed (s u : State) (k : Fin 48) (why : Fin 24 → CutReason) (reason : CloseReason) :
    Prop where
  frame : u = { s with
    circuits := u.circuits, stories := u.stories, outlets := u.outlets, notices := u.notices }
  story : u.story k
    = ((s.story k).cutAll (s.story k).liveOutlets why).shut reason s.regs.clock
  others : ∀ j, j ≠ k → u.story j = s.story j
  outlets : ∀ o, u.outlet o = if (s.story k).liveOn o = true then (s.outlet o).cutOff k (why o) else s.outlet o
  notices : (∀ o, (s.story k).liveOn o = true → (why o).flagged = false) → u.notices = s.notices
  circuits : ∀ c [Decidable ((s.story k).liveOn (lineOutlet c) = true ∧ u.AtQuietPoint c)],
    u.circuit c = if (s.story k).liveOn (lineOutlet c) = true ∧ u.AtQuietPoint c
      then (s.circuit c).quieted else s.circuit c

theorem closeCut_cutClosed (k : Fin 48) (why : Fin 24 → CutReason) (reason : CloseReason) (s : State) :
    s.CutClosed (closeCut k why reason s) k why reason := by
  have cut := State.CutOn.of_forEach (why := why) (os := (s.story k).liveOutlets) (s := s) (k := k)
    fun o mem => mem_liveOutlets.1 mem
  have unfolded : closeCut k why reason s = forEach (s.story k).liveOutlets quietTestOutlet
      (closeNow k reason (forEach (s.story k).liveOutlets (fun o t => cutRecord k o (why o) t) s)) := rfl
  rw [unfolded]
  generalize forEach (s.story k).liveOutlets (fun o t => cutRecord k o (why o) t) s = t at cut
  obtain ⟨frame, story, others, outlets, notices⟩ := cut
  have closed : closeNow k reason t = t.withStory k ((t.story k).shut reason s.regs.clock) := by
    rw [frame]
    rfl
  rw [closed]
  have tests := quietTests_frame (s.story k).liveOutlets (t.withStory k ((t.story k).shut reason s.regs.clock))
  have quiet := quietTests_quiet (s.story k).liveOutlets (t.withStory k ((t.story k).shut reason s.regs.clock))
  have tested (c : Fin 16) := circuit_quietTests (s.story k).liveOutlets c
    (t.withStory k ((t.story k).shut reason s.regs.clock))
  generalize forEach (s.story k).liveOutlets quietTestOutlet
    (t.withStory k ((t.story k).shut reason s.regs.clock)) = u at tests quiet tested
  refine ⟨?_, ?_, fun j other => ?_, fun o => ?_, fun unflagged => ?_, fun c _ => ?_⟩
  · rw [tests, frame]
    rfl
  · rw [tests, ← story]
    exact State.story_withStory ..
  · rw [tests]
    exact (State.story_withStory_other _ other).trans (others j other)
  · rw [tests]
    exact (outlets o).trans (if_congr mem_liveOutlets rfl rfl)
  · rw [tests]
    refine notices.trans (if_neg ?_)
    rintro ⟨o, mem, flagged⟩
    rw [unflagged o (mem_liveOutlets.1 mem)] at flagged
    exact Bool.noConfusion flagged
  · classical
    have circuit : (t.withStory k ((t.story k).shut reason s.regs.clock)).circuit c = s.circuit c := by
      rw [frame]
      rfl
    rw [tested, circuit]
    exact if_congr (and_congr mem_liveOutlets (quiet c).symm) rfl rfl

/-! ## Kills -/

/-- The characters a killed story's framer held (R70). -/
def Framer.heldFor (f : Framer) (k : Fin 48) : Nat :=
  if f.slot = some k then f.holdBack.length + f.header.length else 0

theorem killFramer_eq (k : Fin 48) (s : State) :
    let src := (s.story k).source
    let f := framerOf src s
    killFramer k s = (s.withFramer src (if f.slot = some k then f.killed else f)).addLoose src (f.heldFor k) := by
  intro src f
  unfold killFramer Framer.heldFor
  dsimp only
  by_cases has : f.slot = some k
  · rw [if_pos has, if_pos has, if_pos has]
    rfl
  · rw [if_neg has, if_neg has, if_neg has, addLoose_zero]
    exact (congrArg (fun w => { s with framers := w }) (vector_set_same s.framers src.index)).symm

theorem offerReply_eq (p : Fin 8) (line : List Office) (s : State) : s.offerReply p line = { s with
    ports := s.ports.set p { s.port p with
      replySlot := if (s.port p).enabled = true ∧ (s.port p).replySlot = none then some line
        else (s.port p).replySlot } } := by
  unfold State.offerReply
  split_ifs with free
  · rfl
  · exact (congrArg (fun w => { s with ports := w }) (vector_set_same s.ports p)).symm

/-- The reply to a kill (R92). -/
def killReply (src : Source) (asker : Option (Fin 8)) (line : List Office) (s : State) : State :=
  match src with
  | .terminal p => if asker = some p then s else s.offerReply p line
  | .circuit _ => s

theorem killStory_eq (k : Fin 48) (asker : Option (Fin 8)) (s : State) : killStory k asker s
    = killReply (s.story k).source asker (text ['K', 'I', 'L', 'L', 'E', 'D', ' '] ++ fourDigits (s.story k).number)
        (quietTestSource (s.story k).source
          ((closeCut k (fun _ => .killed) .killed (killFramer k s)).raise .storyClosed)) := by
  unfold killStory killReply
  dsimp only
  cases (s.story k).source with
  | circuit c => rfl
  | terminal p =>
    cases asker with
    | none => rfl
    | some q => simp only [Option.some.injEq, @eq_comm _ p q]

/-- A story closed with its entries cut, and its source tested after its outlets (R9, R92). -/
theorem quietTestSource_cutClosed {src : Source} (h : s.CutClosed u k why reason) :
    let t := quietTestSource src (u.raise .storyClosed)
    t = { u with circuits := t.circuits, notices := (u.raise .storyClosed).notices }
    ∧ ∀ c [Decidable ((src = .circuit c ∨ (s.story k).liveOn (lineOutlet c) = true) ∧ t.AtQuietPoint c)],
      t.circuit c = if (src = .circuit c ∨ (s.story k).liveOn (lineOutlet c) = true) ∧ t.AtQuietPoint c
        then (s.circuit c).quieted else s.circuit c := by
  classical
  intro t
  have frame : t = { u with circuits := t.circuits, notices := (u.raise .storyClosed).notices } :=
    quietTestSource_frame ..
  refine ⟨frame, fun c _ => ?_⟩
  have quiet : t.AtQuietPoint c ↔ u.AtQuietPoint c := by
    rw [frame]
    exact Iff.rfl
  have tested : t.circuit c = if src = .circuit c ∧ u.AtQuietPoint c then (u.circuit c).quieted
      else u.circuit c := circuit_quietTestSource ..
  rw [tested, h.circuits c]
  simp only [quiet]
  by_cases still : u.AtQuietPoint c
  · simp only [and_iff_left still]
    by_cases own : src = .circuit c
    · simp only [own, if_true, true_or]
      split_ifs
      · rw [Circuit.quieted_quieted]
      · rfl
    · simp only [own, if_false, false_or]
  · simp only [still, and_false, if_false]

/-- A reply to a kill writes port records alone. -/
theorem killReply_frame (src : Source) (asker : Option (Fin 8)) (line : List Office) (s : State) :
    killReply src asker line s = { s with ports := (killReply src asker line s).ports } := by
  cases src with
  | circuit c => rfl
  | terminal p =>
    unfold killReply
    dsimp only
    split_ifs
    · rfl
    · rw [offerReply_eq]

theorem port_killReply (src : Source) (asker : Option (Fin 8)) (line : List Office) (s : State) (p : Fin 8) :
    (killReply src asker line s).port p = if src = .terminal p then { s.port p with
      replySlot := if (s.port p).enabled = true ∧ (s.port p).replySlot = none ∧ asker ≠ some p then some line
        else (s.port p).replySlot } else s.port p := by
  cases src with
  | circuit c => rw [if_neg Source.noConfusion]; rfl
  | terminal q =>
    unfold killReply
    dsimp only
    by_cases here : p = q
    · subst here
      rw [if_pos rfl]
      split_ifs with own free free
      · exact absurd own free.2.2
      · rfl
      · rw [offerReply_eq]
        refine ((State.get_set ..).trans (if_pos rfl)).trans ?_
        rw [if_pos ⟨free.1, free.2.1⟩]
      · rw [offerReply_eq]
        refine ((State.get_set ..).trans (if_pos rfl)).trans ?_
        rw [if_neg fun both => free ⟨both.1, both.2, own⟩]
    · rw [if_neg fun same => here (Source.terminal.inj same).symm]
      split_ifs
      · rfl
      · rw [offerReply_eq]
        exact (State.get_set ..).trans (if_neg here)

theorem circuit_addLoose (s : State) (src : Source) (n : Nat) (c : Fin 16) :
    (s.addLoose src n).circuit c = if src = .circuit c then { s.circuit c with counts := { (s.circuit c).counts with
      looseCopy := incBy n (s.circuit c).counts.looseCopy } } else s.circuit c := by
  rw [addLoose_eq]
  cases src with
  | terminal p => rw [if_neg Source.noConfusion]; rfl
  | circuit d =>
    refine (State.get_set ..).trans ?_
    by_cases here : c = d
    · subst here
      rw [if_pos rfl, if_pos rfl]
    · rw [if_neg here, if_neg fun same => here (Source.circuit.inj same).symm]
      rfl

theorem port_addLoose (s : State) (src : Source) (n : Nat) (p : Fin 8) :
    (s.addLoose src n).port p = if src = .terminal p then { s.port p with counts := { (s.port p).counts with
      looseCopy := incBy n (s.port p).counts.looseCopy } } else s.port p := by
  rw [addLoose_eq]
  cases src with
  | circuit c => rw [if_neg Source.noConfusion]; rfl
  | terminal q =>
    refine (State.get_set ..).trans ?_
    by_cases here : p = q
    · subst here
      rw [if_pos rfl, if_pos rfl]
    · rw [if_neg here, if_neg fun same => here (Source.terminal.inj same).symm]
      rfl

theorem framerOf_withFramer_ite (s : State) (src : Source) (g : Framer) (o : Source) :
    framerOf o (s.withFramer src g) = if o = src then g else framerOf o s := by
  refine (State.get_set ..).trans (if_congr ?_ rfl rfl)
  exact ⟨fun same => index_inj same, fun same => congrArg _ same⟩

theorem liveEntries_cut {x : Story} (ascending : x.entries.Pairwise (fun a b => a.outlet < b.outlet)) :
    (x.cutAll x.liveOutlets why).entries
      = x.entries.map (fun e => if e.state.live = true then e.cut x.taken (why e.outlet) else e) :=
  List.map_congr_left fun _ mem => if_congr (mem_outletsWhere_of_ascending ascending mem) rfl rfl

theorem exec_storyKill : exec .storyKill s = .next (storyKill s) := rfl

theorem storyKill_eq : storyKill s = onStory 2 (fun k t =>
    if (t.story k).state = .closed then t.refuse 2 .badState else (killStory k none t).done 2) s := rfl

/-- Settles O33: the host's checks, and a kill by its parts: the framer, the cut, the tests, the reply. -/
theorem storyKillClosesTheStory : Obligations.StoryKillClosesTheStory := by
  classical
  intro s
  rw [exec_storyKill, storyKill_eq]
  refine ⟨fun absent => by rw [onStory_none absent], fun k found => ?_, fun k asker => ?_⟩
  · rw [onStory_some found]
    refine ⟨fun shut => by rw [if_pos shut], fun opened => ?_⟩
    rw [if_neg opened]
    rfl
  intro x f loose u
  have framerStep := killFramer_eq k s
  have closing := closeCut_cutClosed k (fun _ => .killed) .killed (killFramer k s)
  have unfolded := killStory_eq k asker s
  have known (o : Fin 24) : x.liveOn o = true → CutReason.killed.flagged = false := fun _ => rfl
  have storyKept : (killFramer k s).story k = x := by
    rw [framerStep, addLoose_eq]
    rfl
  generalize closeCut k (fun _ => .killed) .killed (killFramer k s) = v at closing unfolded
  obtain ⟨tFrame, tested⟩ := quietTestSource_cutClosed (src := x.source) closing
  change u = killReply x.source asker _ (quietTestSource x.source (v.raise .storyClosed)) at unfolded
  generalize quietTestSource x.source (v.raise .storyClosed) = t at tFrame tested unfolded
  obtain ⟨frame, story, others, outlets, notices, -⟩ := closing
  rw [storyKept] at story outlets notices tested
  have port (p : Fin 8) := port_killReply x.source asker
    (text ['K', 'I', 'L', 'L', 'E', 'D', ' '] ++ fourDigits x.number) t p
  have uFrame := killReply_frame x.source asker
    (text ['K', 'I', 'L', 'L', 'E', 'D', ' '] ++ fourDigits x.number) t
  change u = killReply x.source asker (text ['K', 'I', 'L', 'L', 'E', 'D', ' '] ++ fourDigits x.number) t
    at unfolded
  rw [← unfolded] at port uFrame
  have noticesKept : v.notices = s.notices := by
    rw [notices known, framerStep, addLoose_eq]
    rfl
  refine ⟨?records, ?story, fun ascending => ?entries, fun j other => ?others, fun o => ?outlets,
    fun src => ?framers, fun c => ?circuits, fun p => ?ports⟩
  case records =>
    have raised : u.notices = (s.raise .storyClosed).notices := by
      rw [uFrame, tFrame]
      exact congrArg (raisedNotices .storyClosed) noticesKept
    rw [← raised, uFrame, tFrame, frame, framerStep, addLoose_eq]
    rfl
  case story =>
    have clock : (killFramer k s).regs.clock = s.regs.clock := by
      rw [framerStep, addLoose_eq]
      rfl
    have final : u.story k = (x.cutAll x.liveOutlets (fun _ => .killed)).shut .killed s.regs.clock := by
      rw [uFrame, tFrame, ← clock]
      exact story
    have entriesKept : (u.story k).entries = (x.cutAll x.liveOutlets (fun _ => .killed)).entries :=
      (congrArg Story.entries final).trans rfl
    rw [entriesKept, final]
    rfl
  case entries =>
    rw [uFrame, tFrame]
    exact (congrArg Story.entries story).trans (liveEntries_cut (why := fun _ => .killed) ascending)
  case others =>
    rw [uFrame, tFrame]
    refine (others j other).trans ?_
    rw [framerStep, addLoose_eq]
    rfl
  case outlets =>
    rw [uFrame, tFrame]
    refine (outlets o).trans ?_
    rw [framerStep, addLoose_eq]
    rfl
  case framers =>
    rw [uFrame, tFrame, frame, framerStep, addLoose_eq]
    refine (framerOf_withFramer_ite s x.source _ src).trans ?_
    by_cases here : src = x.source
    · subst here
      by_cases has : f.slot = some k
      · rw [if_pos rfl, if_pos has, if_pos ⟨rfl, has⟩]
        rfl
      · rw [if_pos rfl, if_neg has, if_neg fun both => has both.2]
    · rw [if_neg here, if_neg fun both => here both.1]
  case circuits =>
    have killed : (killFramer k s).circuit c = if x.source = .circuit c then { s.circuit c with
        counts := { (s.circuit c).counts with looseCopy := incBy loose (s.circuit c).counts.looseCopy } }
        else s.circuit c := by
      rw [framerStep]
      exact circuit_addLoose ..
    have pending : ((killFramer k s).circuit c).pendingConfig = (s.circuit c).pendingConfig := by
      rw [killed]
      split_ifs <;> rfl
    have quiet : u.AtQuietPoint c ↔ t.AtQuietPoint c := by
      rw [uFrame]
      exact Iff.rfl
    have final : u.circuit c = if (x.source = .circuit c ∨ x.liveOn (lineOutlet c) = true) ∧ u.AtQuietPoint c
        then ((killFramer k s).circuit c).quieted else (killFramer k s).circuit c := by
      simp only [quiet]
      rw [← tested, uFrame]
      rfl
    have clauses := quieted_clauses final
    rw [pending, killed] at clauses
    exact clauses
  case ports =>
    have killed : t.port p = if x.source = .terminal p then { s.port p with
        counts := { (s.port p).counts with looseCopy := incBy loose (s.port p).counts.looseCopy } }
        else s.port p := by
      have same : t.port p = (killFramer k s).port p := by
        rw [tFrame, frame]
        rfl
      rw [same, framerStep]
      exact port_addLoose ..
    rw [port p, killed]
    by_cases own : x.source = .terminal p
    · simp only [own, if_true]
    · simp only [own, if_false]

end Sys2Proof.Machine

/-! PROOF. Entries cut with the tests after each, and stories that go to CLOSING (R9, R82, R84, R86, R89). -/

namespace Sys2Proof.Machine

variable {s t u w : State} {k : Fin 48} {os : List (Fin 24)} {why : Fin 24 → CutReason} {reason : CloseReason}

/-! ## Entries cut, each followed by the test of its circuit -/

/-- A circuit is at its quiet point but for what one story carries on its outlet. -/
def State.QuietBeside (s : State) (k : Fin 48) (c : Fin 16) : Prop :=
  (∀ j, (s.story j).source = .circuit c → (s.story j).state.live = false)
    ∧ ∀ j, j ≠ k → (s.story j).liveOn (lineOutlet c) = false

/-- An outlet cut from a story is left by it: its circuit is quiet if it is so beside the story. -/
theorem State.CutOn.quiet {c : Fin 16} (h : s.CutOn t k os why) (mem : lineOutlet c ∈ os) :
    t.AtQuietPoint c ↔ s.QuietBeside k c := by
  have dead : (t.story k).liveOn (lineOutlet c) = false := by
    rw [h.story, Bool.eq_false_iff]
    exact fun live => ((Story.liveOn_cutAll _ _).1 live).2 mem
  have source (j : Fin 48) : (t.story j).source = (s.story j).source
      ∧ (t.story j).state = (s.story j).state := by
    by_cases here : j = k
    · rw [here, h.story]
      exact ⟨rfl, rfl⟩
    · rw [h.others j here]
      exact ⟨rfl, rfl⟩
  refine and_congr (forall_congr' fun j => by rw [(source j).1, (source j).2]) ⟨fun none j other => ?_,
    fun none j => ?_⟩
  · rw [← h.others j other]
    exact none j
  · by_cases here : j = k
    · exact here ▸ dead
    · rw [h.others j here]
      exact none j here

/-- The quiet points read the stories' sources, states and live entries. -/
theorem atQuietPoint_congr {c : Fin 16} (same : ∀ j, (t.story j).source = (u.story j).source
    ∧ (t.story j).state.live = (u.story j).state.live ∧ ∀ o, (t.story j).liveOn o = (u.story j).liveOn o) :
    t.AtQuietPoint c ↔ u.AtQuietPoint c :=
  and_congr (forall_congr' fun j => by rw [(same j).1, (same j).2.1])
    (forall_congr' fun j => by rw [(same j).2.2])

/-- What cutting a story's entries for some outlets brings about when each cut is followed by the test of
its circuit: the records of the cuts, and the circuits tested (R82, R84, R86). -/
structure State.CutTested (s t : State) (k : Fin 48) (os : List (Fin 24)) (why : Fin 24 → CutReason) :
    Prop where
  frame : t = { s with
    circuits := t.circuits, stories := t.stories, outlets := t.outlets, notices := t.notices }
  story : t.story k = (s.story k).cutAll os why
  others : ∀ j, j ≠ k → t.story j = s.story j
  outlets : ∀ o, t.outlet o = if o ∈ os then (s.outlet o).cutOff k (why o) else s.outlet o
  notices : t.notices = if ∃ o ∈ os, (why o).flagged = true then (s.raise .destCut).notices else s.notices
  circuits : ∀ c [Decidable (lineOutlet c ∈ os ∧ s.QuietBeside k c)], t.circuit c
    = if lineOutlet c ∈ os ∧ s.QuietBeside k c then (s.circuit c).quieted else s.circuit c

namespace State.CutTested

/-- The records of the cuts alone, beside the circuits. -/
theorem of_cutOn (cut : s.CutOn w k os why) (frame : t = { w with circuits := t.circuits })
    (circuits : ∀ c [Decidable (lineOutlet c ∈ os ∧ s.QuietBeside k c)], t.circuit c
      = if lineOutlet c ∈ os ∧ s.QuietBeside k c then (s.circuit c).quieted else s.circuit c) :
    s.CutTested t k os why := by
  obtain ⟨wFrame, story, others, outlets, notices⟩ := cut
  refine ⟨?_, ?_, fun j other => ?_, fun o => ?_, ?_, circuits⟩
  · rw [frame, wFrame]
  · rw [frame]
    exact story
  · rw [frame]
    exact others j other
  · rw [frame]
    exact outlets o
  · rw [frame]
    exact notices

theorem cutRecord_circuits (k : Fin 48) (o : Fin 24) (r : CutReason) (cs : Vector Circuit 16) (w : State) :
    cutRecord k o r { w with circuits := cs } = { cutRecord k o r w with circuits := cs } := by
  have story : ({ w with circuits := cs } : State).story k = w.story k := rfl
  by_cases live : (w.story k).liveOn o = true
  · rw [cutRecord_live live, cutRecord_live (story ▸ live)]
    unfold cutState
    cases r.flagged <;> rfl
  · have dead : (w.story k).liveOn o = false := Bool.eq_false_iff.2 live
    rw [cutRecord_dead dead]
    exact cutRecord_dead (s := { w with circuits := cs }) dead

/-- A story's live entries for some outlets cut one after the other, each followed by the test. -/
theorem beside_of_forEach (live : ∀ o ∈ os, (s.story k).liveOn o = true) :
    ∃ w, s.CutOn w k os why
      ∧ let t := forEach os (fun o t => quietTestOutlet o (cutRecord k o (why o) t)) s
        t = { w with circuits := t.circuits }
        ∧ ∀ c [Decidable (lineOutlet c ∈ os ∧ s.QuietBeside k c)], t.circuit c
          = if lineOutlet c ∈ os ∧ s.QuietBeside k c then (s.circuit c).quieted else s.circuit c := by
  classical
  induction os using List.reverseRecOn with
  | nil =>
    refine ⟨s, .nil, rfl, fun c _ => ?_⟩
    rw [if_neg fun both => List.not_mem_nil both.1]
    rfl
  | append_singleton os o ih =>
    obtain ⟨w, cut, frame, circuits⟩ := ih fun a mem => live a (List.mem_append_left _ mem)
    have last : forEach (os ++ [o]) (fun o t => quietTestOutlet o (cutRecord k o (why o) t)) s
        = quietTestOutlet o (cutRecord k o (why o)
          (forEach os (fun o t => quietTestOutlet o (cutRecord k o (why o) t)) s)) := by
      unfold forEach
      rw [List.foldl_append]
      rfl
    rw [last]
    generalize forEach os (fun o t => quietTestOutlet o (cutRecord k o (why o) t)) s = t at frame circuits
    have cuts := cut.snoc (o := o) (live o (by simp))
    have record : cutRecord k o (why o) t = { cutRecord k o (why o) w with circuits := t.circuits } :=
      (congrArg (cutRecord k o (why o)) frame).trans (cutRecord_circuits ..)
    refine ⟨_, cuts, ?_, fun c _ => ?_⟩
    · rw [quietTestOutlet_frame, record]
    · have quiet (here : lineOutlet c = o) :
          (cutRecord k o (why o) t).AtQuietPoint c ↔ s.QuietBeside k c := by
        rw [← cuts.quiet (c := c) (by simp [here]), record]
        exact Iff.rfl
      have same : (cutRecord k o (why o) t).circuit c = t.circuit c := by
        rw [record]
        rfl
      rw [circuit_quietTestOutlet, same, circuits c]
      by_cases here : lineOutlet c = o
      · simp only [and_congr_right fun here => quiet here]
        by_cases still : s.QuietBeside k c
        · simp only [and_iff_left still, here, List.mem_append, List.mem_singleton, if_true, or_true]
          split_ifs
          · rw [Circuit.quieted_quieted]
          · rfl
        · simp only [still, and_false, if_false]
      · simp only [here, false_and, if_false, List.mem_append, List.mem_singleton, or_false]

theorem of_forEach (live : ∀ o ∈ os, (s.story k).liveOn o = true) :
    s.CutTested (forEach os (fun o t => quietTestOutlet o (cutRecord k o (why o) t)) s) k os why := by
  obtain ⟨w, cut, frame, circuits⟩ := beside_of_forEach (why := why) live
  exact of_cutOn cut frame circuits

theorem quiet {c : Fin 16} (h : s.CutTested t k os why) (mem : lineOutlet c ∈ os) :
    t.AtQuietPoint c ↔ s.QuietBeside k c := by
  have cut : s.CutOn { t with circuits := s.circuits } k os why :=
    ⟨by rw [h.frame], h.story, h.others, h.outlets, h.notices⟩
  exact cut.quiet mem

/-- The circuits as the tests leave them, by the quiet points at the end. -/
theorem circuits_quiet (h : s.CutTested t k os why) (c : Fin 16)
    [Decidable (lineOutlet c ∈ os ∧ t.AtQuietPoint c)] : t.circuit c
      = if lineOutlet c ∈ os ∧ t.AtQuietPoint c then (s.circuit c).quieted else s.circuit c := by
  classical
  rw [h.circuits c]
  exact if_congr (and_congr_right fun mem => (h.quiet mem).symm) rfl rfl

end State.CutTested

/-! ## A story that goes to CLOSING -/

/-- A story that goes to CLOSING, or to CLOSED with no live entry (R87, R89). -/
def Story.ending (z : Story) (why : CloseReason) (clock : Nat) : Story :=
  { z with
    state := if z.anyLive = true then .closing else .closed, reason := some why
    closed := if z.anyLive = true then z.closed else some clock, idleTimer := none
    blockedSince := none, blockTimer := none, changed := true }

theorem toClosing_eq (k : Fin 48) (why : CloseReason) (w : State) :
    let u := toClosing k why w
    u = { w with
      circuits := u.circuits, stories := w.stories.set k ((w.story k).ending why w.regs.clock)
      notices := if (w.story k).anyLive = true then w.notices else (w.raise .storyClosed).notices }
    ∧ ∀ c [Decidable ((w.story k).source = .circuit c ∧ u.AtQuietPoint c)], u.circuit c
      = if (w.story k).source = .circuit c ∧ u.AtQuietPoint c then (w.circuit c).quieted else w.circuit c := by
  classical
  intro u
  let v := w.withStory k { w.story k with
    state := .closing, reason := some why, idleTimer := none, blockedSince := none, blockTimer := none
    changed := true }
  have unfolded : u = closeIfDone k (quietTestSource (w.story k).source v) := rfl
  have tested := quietTestSource_frame (w.story k).source v
  have circuit (c : Fin 16) := circuit_quietTestSource (w.story k).source c v
  generalize quietTestSource (w.story k).source v = t at unfolded tested circuit
  have story : t.story k = { w.story k with
      state := .closing, reason := some why, idleTimer := none, blockedSince := none, blockTimer := none
      changed := true } := by
    rw [tested]
    exact State.story_withStory ..
  have live : (t.story k).anyLive = (w.story k).anyLive := by
    rw [story]
    rfl
  have frame : u = { w with
      circuits := t.circuits, stories := w.stories.set k ((w.story k).ending why w.regs.clock)
      notices := if (w.story k).anyLive = true then w.notices else (w.raise .storyClosed).notices } := by
    rw [unfolded, closeIfDone_eq]
    unfold Story.ending
    rw [live, story, tested]
    cases alive : (w.story k).anyLive with
    | true => rfl
    | false =>
      simp only [Bool.false_eq_true, if_false, and_self, if_true]
      exact congrArg (fun x => { w with
          circuits := t.circuits, stories := x, notices := (w.raise .storyClosed).notices })
        (vector_set_set w.stories k _ _)
  refine ⟨?_, fun c _ => ?_⟩
  · rw [frame]
  · have quiet : u.AtQuietPoint c ↔ v.AtQuietPoint c := by
      refine atQuietPoint_congr fun j => ?_
      have now : u.story j = if j = k then (w.story k).ending why w.regs.clock else w.story j := by
        rw [frame]
        exact State.get_set ..
      have then_ : v.story j = if j = k then { w.story k with
          state := .closing, reason := some why, idleTimer := none, blockedSince := none, blockTimer := none
          changed := true } else w.story j := State.get_set ..
      rw [now, then_]
      by_cases here : j = k
      · rw [if_pos here, if_pos here]
        refine ⟨rfl, ?_, fun o => rfl⟩
        unfold Story.ending
        cases (w.story k).anyLive <;> rfl
      · rw [if_neg here, if_neg here]
        exact ⟨rfl, rfl, fun o => rfl⟩
    have same : u.circuit c = t.circuit c := by
      rw [frame]
      rfl
    rw [same, circuit c]
    exact if_congr (and_congr_right fun _ => quiet.symm) rfl rfl

end Sys2Proof.Machine

/-! PROOF. Story timers (R69, R79, R86, R88, R89). -/

namespace Sys2Proof.Machine

variable {s t u w : State} {k : Fin 48} {src : Source}

/-! ## The timers' guards -/

theorem idleDue_iff (s : State) (k : Fin 48) : s.idleDue k = true ↔ ∃ e, (s.story k).idleTimer = some e
    ∧ (match (s.story k).source with
      | .circuit c => (s.circuit c).config.idleLimit
      | .terminal t => (s.port t).config.idleLimit) ≤ e := by
  unfold State.idleDue State.idleLimit
  refine expired_iff.trans ?_
  cases (s.story k).source <;> exact Iff.rfl

theorem exec_idleExpiry (k : Fin 48) : exec (.idleExpiry k) s
    = .next (if s.idleDue k = true then settle (expireIdle k s) else s) := rfl

theorem exec_blockLimitExpiry (k : Fin 48) : exec (.blockLimitExpiry k) s
    = .next (if s.blockDue k = true then settle (expireBlock k s) else s) := rfl

theorem State.withStory_same (s : State) (k : Fin 48) : s.withStory k (s.story k) = s :=
  congrArg (fun w => { s with stories := w }) (vector_set_same s.stories k)

/-! ## A header ended by silence -/

theorem expireIdle_header (header : (s.story k).state = .header) : expireIdle k s
    = modFramerOf (s.story k).source (fun f => f.dropHeader) (rejectStory k .headerFault s) := by
  unfold expireIdle
  rw [header]

theorem expireIdle_header_closed (source : (s.story k).source = src) (header : (s.story k).state = .header) :
    s.HeaderClosed (expireIdle k s) src k .headerFault (s.story k) (framerOf src s).dropHeader 0 := by
  have closed := rejected_closed (k := k) (s := s) (why := .headerFault) 0 (fun f => f.dropHeader) source
  rw [State.withStory_same, addLoose_zero] at closed
  rw [expireIdle_header header, source]
  exact closed

/-! ## A story ended by silence -/

/-- What the end of a story by silence leaves, in the words of the obligation (R69, R88, R89). -/
structure State.IdleEnded (w u : State) (src : Source) (k : Fin 48) : Prop where
  records : u = { w with
    circuits := u.circuits
    framers := w.framers.set src.index (framerOf src w).giveUp
    stories := w.stories.set k ((w.story k).ending .idleEnd w.regs.clock)
    notices := if (w.story k).anyLive = true then w.notices else (w.raise .storyClosed).notices }
  circuits : ∀ c, (src = .circuit c → u.AtQuietPoint c → ∀ cfg, (w.circuit c).pendingConfig = some cfg →
        u.circuit c = (w.circuit c).configured cfg)
      ∧ (src ≠ .circuit c ∨ ¬u.AtQuietPoint c ∨ (w.circuit c).pendingConfig = none →
        u.circuit c = w.circuit c)

theorem idleEnded (source : (w.story k).source = src) :
    w.IdleEnded (toClosing k .idleEnd (modFramerOf src (fun f => f.giveUp) w)) src k := by
  classical
  obtain ⟨records, circuits⟩ := toClosing_eq k .idleEnd (modFramerOf src (fun f => f.giveUp) w)
  have story : (modFramerOf src (fun f => f.giveUp) w).story k = w.story k := rfl
  rw [story] at records circuits
  rw [source] at circuits
  exact ⟨records, fun c => quieted_clauses (circuits c)⟩

/-- A framer with no write outstanding or withdrawn (R67). -/
def State.unclaimed (s : State) (src : Source) : State :=
  s.withFramer src { framerOf src s with outstanding := none, withdrawn := false }

theorem expireIdle_running (source : (s.story k).source = src) (running : (s.story k).state = .running) :
    let w := flushHeld src k (s.unclaimed src)
    expireIdle k s = if (w.story k).state = .running
      then toClosing k .idleEnd (modFramerOf src (fun f => f.giveUp) w) else w := by
  unfold expireIdle
  rw [running, ← source]
  rfl

theorem flushHeld_unclaimed (s : State) (src : Source) (k : Fin 48) :
    let f := framerOf src s
    flushHeld src k (s.unclaimed src) = if f.slot = some k ∧ f.holdBack ≠ [] then
      if src.isTerminal = false ∨ roomFor (s.story k) f.holdBack.length = true then
        completeWrite src k f.holdBack (s.unclaimed src)
      else (s.unclaimed src).addLoose src f.holdBack.length
      else s.unclaimed src := by
  intro f
  have framer : framerOf src (s.unclaimed src) = { f with outstanding := none, withdrawn := false } :=
    framerOf_withFramer ..
  have story : (s.unclaimed src).story k = s.story k := rfl
  unfold flushHeld
  dsimp only
  rw [framer, story]
  cases src with
  | circuit c => simp [Source.isTerminal]
  | terminal p => simp [Source.isTerminal]

/-! ## A write held too long -/

/-- The entries that hold back a write of n characters (R86). -/
def Entry.holdsBack (e : Entry) (taken n : Nat) : Bool :=
  e.state.live && decide (e.read + 128 < taken + n)

theorem expireBlock_some {chs : List Office} (source : (s.story k).source = src)
    (outstanding : (framerOf src s).outstanding = some chs) : expireBlock k s
      = offerWrite k (forEach ((s.story k).outletsWhere (fun e => e.holdsBack (s.story k).taken
          (min chs.length (65535 - (s.story k).taken))))
        (fun o t => quietTestOutlet o (cutRecord k o .blockLimit t)) s) := by
  unfold expireBlock
  dsimp only
  rw [source, outstanding]
  rfl

theorem expireBlock_none (none_ : (framerOf (s.story k).source s).outstanding = none) :
    expireBlock k s = s := by
  unfold expireBlock
  dsimp only
  rw [none_]

theorem roomFor_cutAll {x : Story} {n : Nat} {why : Fin 24 → CutReason} :
    roomFor (x.cutAll (x.outletsWhere (fun e => e.holdsBack x.taken (min n (65535 - x.taken)))) why) n
      = true := by
  rw [roomFor_iff]
  intro e mem live
  obtain ⟨a, old, rfl⟩ := List.mem_map.1 mem
  split_ifs at live ⊢ with gone
  · exact absurd live (by rw [Entry.cut_live]; exact Bool.noConfusion)
  · rw [mem_outletsWhere_iff] at gone
    by_contra late
    refine gone ⟨a, old, rfl, ?_⟩
    rw [Entry.holdsBack, live, Bool.true_and, decide_eq_true_eq]
    exact Nat.not_le.1 late

/-- The cuts of an expired block timer leave room for the write, which is then taken (R86). -/
theorem offerWrite_cut {v : State} {os : List (Fin 24)} {why : Fin 24 → CutReason} {p : Fin 8}
    {chs : List Office} (cut : s.CutTested v k os why) (source : (s.story k).source = .terminal p)
    (slot : (framerOf (.terminal p) s).slot = some k) (running : (s.story k).state = .running)
    (outstanding : (framerOf (.terminal p) s).outstanding = some chs)
    (room : roomFor ((s.story k).cutAll os why) chs.length = true) :
    offerWrite k v = completeWrite (.terminal p) k chs (restartIdle k (popQueue p v)) := by
  have framer : framerOf (.terminal p) v = framerOf (.terminal p) s := by
    rw [cut.frame]
    rfl
  refine offerWrite_taken ?_ (framer.symm ▸ outstanding) (framer.symm ▸ slot) ?_ ?_
  · rw [cut.story]
    exact source
  · rw [cut.story]
    exact running
  · rw [cut.story]
    exact room

theorem offerWrite_barred {v : State} {os : List (Fin 24)} {why : Fin 24 → CutReason}
    (cut : s.CutTested v k os why) (source : (s.story k).source = src)
    (barred : src.isTerminal = false ∨ (framerOf src s).slot ≠ some k ∨ (s.story k).state ≠ .running) :
    offerWrite k v = v := by
  have source' : (v.story k).source = src := by
    rw [cut.story]
    exact source
  cases src with
  | circuit c =>
    unfold offerWrite
    rw [source']
  | terminal p =>
    have framer : framerOf (.terminal p) v = framerOf (.terminal p) s := by
      rw [cut.frame]
      rfl
    cases outstanding : (framerOf (.terminal p) v).outstanding with
    | none => exact offerWrite_none fun q same => (Source.terminal.inj (source'.symm.trans same)) ▸ outstanding
    | some chs =>
      refine offerWrite_not source' outstanding fun ⟨slot, running, _⟩ => ?_
      rw [framer] at slot
      rw [cut.story] at running
      rcases barred with line | other | other
      · exact Bool.noConfusion line
      · exact other slot
      · exact other running

theorem restartIdle_popQueue (p : Fin 8) (k : Fin 48) (s : State) : restartIdle k (popQueue p s) = { s with
    stories := s.stories.set k { s.story k with idleTimer := (s.story k).idleTimer.map (fun _ => 0) }
    ports := s.ports.set p { s.port p with
      queue := (s.port p).queue.tail
      readyOut := if 12 ≤ (s.port p).queue.tail.length then .low
        else if (s.port p).queue.tail.length ≤ 4 then .high else (s.port p).readyOut } } := by
  rw [restartIdle_eq]
  rfl

theorem addLoose_terminal (s : State) (src : Source) (n : Nat) : src.isTerminal = true → s.addLoose src n = { s with
    ports := match src with
      | .circuit _ => s.ports
      | .terminal p => s.ports.set p { s.port p with counts := { (s.port p).counts with
          looseCopy := incBy n (s.port p).counts.looseCopy } } } := by
  cases src with
  | circuit c => exact Bool.noConfusion
  | terminal p => exact fun _ => rfl

/-- Settles O52: each timer's guard, then the header, the story or the entries that it ends. -/
theorem storyTimersEndHeadersStoriesAndBlocks : Obligations.StoryTimersEndHeadersStoriesAndBlocks := by
  classical
  intro s k x src f limit idleDue blockDue room quietened ended withdrawn loose lags
  have isIdle : s.idleDue k = true ↔ idleDue := idleDue_iff s k
  have isBlock : s.blockDue k = true ↔ blockDue := expired_iff
  rw [exec_idleExpiry, exec_blockLimitExpiry]
  have roomIff (n : Nat) : roomFor x n = true ↔ room n := roomFor_iff x n
  refine ⟨fun early => ?idleEarly, fun due notHeader notRunning => ?idleOther, fun due header => ?header,
    fun due running => ?running, fun early => ?blockEarly, fun due none_ => ?blockNone,
    fun due chs outstanding => ?block⟩
  case idleEarly => rw [if_neg (mt isIdle.1 early)]
  case blockEarly => rw [if_neg (mt isBlock.1 early)]
  case idleOther =>
    rw [if_pos (isIdle.2 due)]
    have same : expireIdle k s = s := by
      unfold expireIdle
      split
      · contradiction
      · contradiction
      all_goals rfl
    rw [same]
  case blockNone => rw [if_pos (isBlock.2 due), expireBlock_none none_]
  case header =>
    rw [if_pos (isIdle.2 due)]
    obtain ⟨records, circuits, ports⟩ := expireIdle_header_closed (s := s) (src := src) rfl header
    refine ⟨_, rfl, records, fun c => ?_, fun p => ?_⟩
    · have clauses := circuits c
      simp only [incBy_zero, ite_self] at clauses
      exact clauses
    · rw [ports p]
      simp only [incBy_zero]
      by_cases here : src = .terminal p
      · simp only [here, if_true, true_and]
        by_cases free : (s.port p).enabled = true ∧ (s.port p).replySlot = none
        · rw [if_pos free, if_pos free]
          rfl
        · rw [if_neg free, if_neg free]
      · simp only [here, if_false, false_and]
  case running =>
    intro holding written
    rw [if_pos (isIdle.2 due), expireIdle_running (src := src) rfl running, flushHeld_unclaimed]
    have isRunning : ((s.unclaimed src).story k).state = .running := running
    have ends (w : State) (source : (w.story k).source = src) (clock : w.regs.clock = s.regs.clock) :
        ended w (toClosing k .idleEnd (modFramerOf src (fun f => f.giveUp) w)) := by
      obtain ⟨records, circuits⟩ := idleEnded source
      rw [clock] at records
      exact ⟨records, circuits⟩
    refine ⟨fun free => ?_, fun holds terminal full => ?_, fun holds fits => ⟨fun over_ => ?_, fun goesOn => ?_⟩⟩
    · rw [if_neg free, if_pos isRunning]
      exact ⟨_, rfl, ends _ rfl rfl⟩
    · have barred : ¬(src.isTerminal = false ∨ roomFor (s.story k) f.holdBack.length = true) := by
        rw [terminal]
        exact fun either => either.elim Bool.noConfusion fun fits => full ((roomIff _).1 fits)
      have isLoose : (s.unclaimed src).addLoose src f.holdBack.length = loose := addLoose_terminal _ src _ terminal
      have stays : (loose.story k).state = .running := running
      rw [if_pos holds, if_neg barred, isLoose, if_pos stays]
      exact ⟨_, rfl, ends _ rfl rfl⟩
    · rw [if_pos holds, if_pos (fits.imp id (roomIff _).2)]
      exact congrArg Host.Outcome.next (congrArg settle (if_neg over_))
    · rw [if_pos holds, if_pos (fits.imp id (roomIff _).2)]
      refine ⟨_, congrArg Host.Outcome.next (congrArg settle (if_pos goesOn)), ends _ ?_ ?_⟩
      · exact completeWrite_source
      · exact congrArg HostRegs.clock (Traffic.refl _).completeWrite.regs
  case block =>
    intro n on
    let held := x.outletsWhere (fun e => e.holdsBack x.taken n)
    obtain ⟨v, isV⟩ : ∃ v, v = forEach held (fun o t => quietTestOutlet o (cutRecord k o .blockLimit t)) s :=
      ⟨_, rfl⟩
    have run : (if s.blockDue k = true then settle (expireBlock k s) else s) = settle (offerWrite k v) := by
      rw [if_pos (isBlock.2 due), expireBlock_some (src := src) rfl outstanding, isV]
    have lagsIff (e : Entry) : e.holdsBack x.taken n = true ↔ lags n e := by
      unfold Entry.holdsBack
      rw [Bool.and_eq_true, decide_eq_true_eq]
    have heldIff (o : Fin 24) : o ∈ held ↔ on o := by
      refine mem_outletsWhere_iff.trans ?_
      simp only [lagsIff, on]
    have cut : s.CutTested v k held (fun _ => .blockLimit) := by
      rw [isV]
      refine .of_forEach fun o mem => ?_
      obtain ⟨e, old, onIt, ⟨live, _⟩⟩ := (heldIff o).1 mem
      exact (x.liveOn_iff o).2 ⟨e, old, onIt, live⟩
    rw [run]
    refine ⟨v, cut.frame, fun ascending some => ?_, fun none_ => ?_, fun some => ?_, cut.others, fun o => ?_,
      fun c => ?_, fun p source slot running => ?_, fun barred => ?_⟩
    · obtain ⟨e, mem, lag⟩ := some
      have notNil : held ≠ [] := List.ne_nil_of_mem ((heldIff e.outlet).2 ⟨e, mem, rfl, lag⟩)
      rw [cut.story]
      unfold Story.cutAll
      rw [if_neg notNil]
      refine congrArg (fun es => { x with changed := true, entries := es })
        (List.map_congr_left fun a old => ?_)
      exact if_congr ((mem_outletsWhere_of_ascending ascending old).trans (lagsIff a)) rfl rfl
    · have nil : held = [] := List.eq_nil_iff_forall_not_mem.2 fun o mem =>
        have ⟨e, old, _, lag⟩ := (heldIff o).1 mem
        none_ e old lag
      rw [isV, nil]
      rfl
    · obtain ⟨e, mem, lag⟩ := some
      rw [cut.notices, if_pos ⟨e.outlet, (heldIff e.outlet).2 ⟨e, mem, rfl, lag⟩, rfl⟩]
    · rw [cut.outlets o]
      exact ⟨fun off => if_neg (mt (heldIff o).1 off), fun isOn => if_pos ((heldIff o).2 isOn)⟩
    · have clauses := quieted_clauses (cut.circuits_quiet c)
      rw [heldIff] at clauses
      exact clauses
    · rw [offerWrite_cut cut source (source ▸ slot) running (source ▸ outstanding) roomFor_cutAll,
        restartIdle_popQueue]
      have ports : v.ports = s.ports := by rw [cut.frame]
      have port : v.port p = s.port p := congrArg (fun w => w.get p) ports
      rw [ports, port]
    · rw [offerWrite_barred cut rfl barred]

end Sys2Proof.Machine

/-! PROOF. Characters written to a story (R82 to R84): the record after some of them, the entries lapped, the
outlets left and the circuits tested. -/

namespace Sys2Proof.Machine

variable {s t u w : State} {k : Fin 48}

/-! ## Entries lapped -/

/-- An entry once a story has taken so many characters, if its source laps (R84). -/
def Entry.lap (e : Entry) (laps : Bool) (taken : Nat) : Entry :=
  if laps = true ∧ e.state.live = true ∧ e.read + 128 < taken then
    { e with state := .cut .lapped, lost := 128, holdMark := false, owed := .none }
  else e

theorem Entry.lap_outlet (e : Entry) (laps : Bool) (n : Nat) : (e.lap laps n).outlet = e.outlet := by
  unfold Entry.lap
  split_ifs <;> rfl

theorem Entry.lap_live (e : Entry) (laps : Bool) (n : Nat) : (e.lap laps n).state.live = true
    ↔ e.state.live = true ∧ ¬(laps = true ∧ e.read + 128 < n) := by
  unfold Entry.lap
  by_cases gone : laps = true ∧ e.state.live = true ∧ e.read + 128 < n
  · rw [if_pos gone]
    exact ⟨fun live => Bool.noConfusion (live : false = true), fun h => absurd ⟨gone.1, gone.2.2⟩ h.2⟩
  · rw [if_neg gone]
    exact ⟨fun live => ⟨live, fun h => gone ⟨h.1, live, h.2⟩⟩, fun h => h.1⟩

theorem Entry.lap_stays {e : Entry} {laps : Bool} {n : Nat}
    (stays : ¬(laps = true ∧ e.state.live = true ∧ e.read + 128 < n)) : e.lap laps n = e := if_neg stays

/-- The entries that a character laps: those a full window behind (R84). -/
def Entry.behind (e : Entry) (laps : Bool) (n : Nat) : Bool :=
  laps && (e.state.live && decide (e.read + 128 ≤ n))

/-- The laps of one more character. -/
theorem Entry.lap_succ (e : Entry) (laps : Bool) (n : Nat) :
    (if (e.lap laps n).behind laps n = true then (e.lap laps n).cut n .lapped else e.lap laps n)
      = e.lap laps (n + 1) := by
  unfold Entry.behind
  simp only [Bool.and_eq_true, decide_eq_true_eq, Entry.lap_live]
  by_cases before : laps = true ∧ e.state.live = true ∧ e.read + 128 < n
  · rw [if_neg fun h => h.2.1.2 ⟨before.1, before.2.2⟩]
    unfold Entry.lap
    rw [if_pos before, if_pos ⟨before.1, before.2.1, by omega⟩]
  · rw [Entry.lap_stays before]
    by_cases now : laps = true ∧ e.state.live = true ∧ e.read + 128 ≤ n
    · have exact_ : n - e.read = 128 := by
        have notBelow : ¬e.read + 128 < n := fun below => before ⟨now.1, now.2.1, below⟩
        omega
      rw [if_pos ⟨now.1, ⟨now.2.1, fun h => before ⟨h.1, now.2.1, h.2⟩⟩, now.2.2⟩]
      unfold Entry.lap Entry.cut
      rw [if_pos ⟨now.1, now.2.1, by omega⟩, exact_]
    · rw [if_neg fun h => now ⟨h.1, h.2.1.1, h.2.2⟩]
      exact (Entry.lap_stays fun h => now ⟨h.1, h.2.1, by omega⟩).symm

/-- A story's entry on an outlet is lapped (R84). -/
def Story.LappedOn (x : Story) (laps : Bool) (n : Nat) (o : Fin 24) : Prop :=
  ∃ e ∈ x.entries, e.outlet = o ∧ laps = true ∧ e.state.live = true ∧ e.read + 128 < n

/-! ## Characters written -/

/-- A story after some characters are written to it (R82 to R84). -/
def Story.written (x : Story) (laps : Bool) (done : List Office) : Story :=
  { x with
    taken := x.taken + done.length
    lines := x.lines + (done.filter (fun ch => ch = cr)).length
    window := (x.window ++ done).drop (x.window.length + done.length - 128)
    entries := x.entries.map (fun e => e.lap laps (x.taken + done.length))
    changed := if done = [] then x.changed else true }

theorem drop_snoc_drop (l : List Office) (ch : Office) :
    (l.drop (l.length - 128) ++ [ch]).drop ((l.drop (l.length - 128) ++ [ch]).length - 128)
      = (l ++ [ch]).drop (l.length + 1 - 128) := by
  rw [← List.drop_append_of_le_length (Nat.sub_le _ _), List.drop_drop]
  refine congrArg (fun n => (l ++ [ch]).drop n) ?_
  rw [List.length_drop, List.length_append, List.length_singleton]
  omega

theorem Story.written_nil {x : Story} {laps : Bool} (window : x.window.length ≤ 128)
    (reach : ∀ e ∈ x.entries, e.state.live = true → x.taken ≤ e.read + 128) : x.written laps [] = x := by
  have entries : x.entries.map (fun e => e.lap laps x.taken) = x.entries := by
    refine (List.map_congr_left fun e mem => Entry.lap_stays fun h => ?_).trans (List.map_id _)
    exact Nat.not_lt.2 (reach e mem h.2.1) h.2.2
  have short : x.window.length - 128 = 0 := by omega
  unfold Story.written
  simp only [List.length_nil, Nat.add_zero, List.filter_nil, List.append_nil, short, List.drop_zero,
    if_true, entries]

/-- The record's own part of one more character. -/
theorem Story.written_snoc {x : Story} {laps : Bool} {done : List Office} {ch : Office} {z : Story}
    (ascending : x.entries.Pairwise (fun a b => a.outlet < b.outlet))
    (isZ : z = (x.written laps done).cutAll
      ((x.written laps done).outletsWhere (fun e => e.behind laps (x.taken + done.length)))
      (fun _ => .lapped)) :
    { z.append ch with changed := true } = x.written laps (done ++ [ch]) := by
  have sorted : (x.written laps done).entries.Pairwise (fun a b => a.outlet < b.outlet) := by
    refine List.pairwise_map.2 (ascending.imp fun below => ?_)
    rwa [Entry.lap_outlet, Entry.lap_outlet]
  have entries : z.entries = x.entries.map (fun e => e.lap laps (x.taken + done.length + 1)) := by
    rw [isZ]
    have cut : ((x.written laps done).cutAll ((x.written laps done).outletsWhere
        (fun e => e.behind laps (x.taken + done.length))) (fun _ => .lapped)).entries
        = (x.written laps done).entries.map (fun e => if e.behind laps (x.taken + done.length) = true
          then e.cut (x.taken + done.length) .lapped else e) :=
      List.map_congr_left fun e mem => if_congr (mem_outletsWhere_of_ascending sorted mem) rfl rfl
    rw [cut]
    refine (List.map_map ..).trans (List.map_congr_left fun e _ => ?_)
    exact Entry.lap_succ e laps (x.taken + done.length)
  have isWritten : z = { x with
      taken := x.taken + done.length, lines := x.lines + (done.filter (fun ch => ch = cr)).length
      window := (x.window ++ done).drop (x.window.length + done.length - 128)
      entries := z.entries, changed := z.changed } := by
    simp only [isZ, Story.cutAll, Story.written]
  have parts : ({ z.append ch with changed := true } : Story) = { z with
      taken := z.taken + 1, lines := if ch = cr then z.lines + 1 else z.lines
      window := (z.window ++ [ch]).drop ((z.window ++ [ch]).length - 128), changed := true } := by
    simp only [Story.append, Config.windowSize]
  rw [entries] at isWritten
  rw [parts, isWritten]
  dsimp only
  rw [← List.length_append, drop_snoc_drop]
  unfold Story.written
  have some : done ++ [ch] ≠ [] := by simp
  have lines : (if ch = cr then x.lines + (done.filter (fun ch => ch = cr)).length + 1
      else x.lines + (done.filter (fun ch => ch = cr)).length)
      = x.lines + ((done ++ [ch]).filter (fun ch => ch = cr)).length := by
    rw [List.filter_append, List.length_append, ← Nat.add_assoc, List.filter_singleton]
    split_ifs with ends
    · rw [decide_eq_true ends]
      rfl
    · rw [decide_eq_false ends]
      rfl
  rw [if_neg some, lines]
  simp only [List.length_append, List.length_singleton, List.append_assoc, Nat.add_assoc]

/-- What writing some characters to a story brings about (R82 to R84). -/
structure State.Wrote (s t : State) (k : Fin 48) (laps : Bool) (done : List Office) : Prop where
  frame : t = { s with
    circuits := t.circuits, stories := t.stories, outlets := t.outlets, notices := t.notices }
  story : t.story k = (s.story k).written laps done
  others : ∀ j, j ≠ k → t.story j = s.story j
  outlets : ∀ o [Decidable ((s.story k).LappedOn laps ((s.story k).taken + done.length) o)],
    t.outlet o = if (s.story k).LappedOn laps ((s.story k).taken + done.length) o
      then (s.outlet o).cutOff k .lapped else s.outlet o
  notices : ∀ [Decidable (∃ o, (s.story k).LappedOn laps ((s.story k).taken + done.length) o)],
    t.notices = if ∃ o, (s.story k).LappedOn laps ((s.story k).taken + done.length) o
      then (s.raise .destCut).notices else s.notices
  circuits : ∀ c [Decidable ((s.story k).LappedOn laps ((s.story k).taken + done.length) (lineOutlet c)
      ∧ s.QuietBeside k c)],
    t.circuit c = if (s.story k).LappedOn laps ((s.story k).taken + done.length) (lineOutlet c)
        ∧ s.QuietBeside k c then (s.circuit c).quieted else s.circuit c

/-- A story that can be written to, as the invariant of the story table keeps it (R83, R84). -/
structure Story.Writable (x : Story) (laps : Bool) : Prop where
  source : laps = !x.source.isTerminal
  window : x.window.length ≤ 128
  ascending : x.entries.Pairwise (fun a b => a.outlet < b.outlet)
  reach : ∀ e ∈ x.entries, e.state.live = true → x.taken ≤ e.read + 128

theorem Story.Ok.writable {x : Story} (ok : x.Ok) : x.Writable (!x.source.isTerminal) := by
  refine ⟨rfl, ?_, ok.sorted, fun e mem => (ok.entries e mem).reach⟩
  rw [ok.window]
  exact Nat.min_le_right _ _

theorem Story.Writable.lapped_none {x : Story} {laps : Bool} (ok : x.Writable laps) (o : Fin 24) :
    ¬x.LappedOn laps x.taken o :=
  fun ⟨e, mem, _, _, live, below⟩ => Nat.not_lt.2 (ok.reach e mem live) below

theorem State.Wrote.nil {laps : Bool} (ok : (s.story k).Writable laps) : s.Wrote s k laps [] := by
  refine ⟨rfl, (Story.written_nil ok.window ok.reach).symm, fun _ _ => rfl, fun o _ => ?_, ?_, fun c _ => ?_⟩
  · exact (if_neg (ok.lapped_none o)).symm
  · exact (if_neg fun ⟨o, lapped⟩ => ok.lapped_none o lapped).symm
  · exact (if_neg fun both => ok.lapped_none _ both.1).symm

theorem writeOne_eq (k : Fin 48) (ch : Office) (s : State) {laps : Bool}
    (source : laps = !(s.story k).source.isTerminal) : writeOne k ch s
      = (forEach ((s.story k).outletsWhere (fun e => e.behind laps (s.story k).taken))
          (fun o t => quietTestOutlet o (cutRecord k o .lapped t)) s).modStory k (fun st => st.append ch) := by
  unfold writeOne lapCuts
  cases isSource : (s.story k).source with
  | circuit c =>
    rw [source, isSource]
    rfl
  | terminal p =>
    have none_ : (s.story k).outletsWhere (fun e => e.behind laps (s.story k).taken) = [] := by
      rw [List.eq_nil_iff_forall_not_mem]
      intro o mem
      obtain ⟨e, _, _, behind⟩ := mem_outletsWhere_iff.1 mem
      rw [source, isSource] at behind
      exact Bool.noConfusion behind
    rw [none_]
    rfl

theorem Story.LappedOn.succ {x : Story} {laps : Bool} {n : Nat} {o : Fin 24} (h : x.LappedOn laps n o) :
    x.LappedOn laps (n + 1) o :=
  have ⟨e, mem, onIt, source, live, below⟩ := h
  ⟨e, mem, onIt, source, live, Nat.lt_succ_of_lt below⟩

/-- The outlets whose entries the next character laps. -/
theorem mem_behind {x : Story} {laps : Bool} {done : List Office} {o : Fin 24}
    (ascending : x.entries.Pairwise (fun a b => a.outlet < b.outlet)) :
    o ∈ (x.written laps done).outletsWhere (fun e => e.behind laps (x.taken + done.length))
      ↔ x.LappedOn laps (x.taken + done.length + 1) o ∧ ¬x.LappedOn laps (x.taken + done.length) o := by
  generalize isN : x.taken + done.length = n
  rw [mem_outletsWhere_iff]
  constructor
  · rintro ⟨a, mem, rfl, behind⟩
    obtain ⟨e, old, rfl⟩ := List.mem_map.1 mem
    rw [isN] at behind ⊢
    unfold Entry.behind at behind
    simp only [Bool.and_eq_true, decide_eq_true_eq, Entry.lap_live] at behind
    obtain ⟨source, ⟨live, stays⟩, below⟩ := behind
    have same : e.lap laps n = e := Entry.lap_stays fun h => stays ⟨h.1, h.2.2⟩
    rw [same] at below ⊢
    refine ⟨⟨e, old, rfl, source, live, Nat.lt_succ_of_le below⟩, fun ⟨a, other, onIt, _, _, before⟩ => ?_⟩
    exact stays ⟨source, entry_unique ascending other old onIt ▸ before⟩
  · rintro ⟨⟨e, old, rfl, source, live, below⟩, notBefore⟩
    have stays : ¬(laps = true ∧ e.state.live = true ∧ e.read + 128 < n) := fun h =>
      notBefore ⟨e, old, rfl, h⟩
    refine ⟨e, List.mem_map.2 ⟨e, old, ?_⟩, rfl, ?_⟩
    · rw [isN]
      exact Entry.lap_stays stays
    · unfold Entry.behind
      simp only [source, live, Bool.true_and, decide_eq_true_eq]
      exact Nat.le_of_lt_succ below

/-- One more character. -/
theorem State.Wrote.snoc {laps : Bool} {done : List Office} (ok : (s.story k).Writable laps)
    (before : s.Wrote t k laps done) (ch : Office) : s.Wrote (writeOne k ch t) k laps (done ++ [ch]) := by
  classical
  obtain ⟨frame, story, others, outlets, notices, circuits⟩ := before
  have source : laps = !(t.story k).source.isTerminal := by
    rw [story]
    exact ok.source
  have taken : (t.story k).taken = (s.story k).taken + done.length := congrArg Story.taken story
  have live : ∀ o ∈ (t.story k).outletsWhere (fun e => e.behind laps (t.story k).taken),
      (t.story k).liveOn o = true := fun o mem => by
    obtain ⟨e, old, onIt, behind⟩ := mem_outletsWhere_iff.1 mem
    unfold Entry.behind at behind
    simp only [Bool.and_eq_true] at behind
    exact ((t.story k).liveOn_iff o).2 ⟨e, old, onIt, behind.2.1⟩
  have cut := State.CutTested.of_forEach (why := fun _ => .lapped) live
  rw [writeOne_eq k ch t source]
  generalize forEach ((t.story k).outletsWhere (fun e => e.behind laps (t.story k).taken))
    (fun o t => quietTestOutlet o (cutRecord k o .lapped t)) t = v at cut
  obtain ⟨vFrame, vStory, vOthers, vOutlets, vNotices, vCircuits⟩ := cut
  rw [taken] at vStory vOutlets vNotices vCircuits
  have length : (s.story k).taken + (done ++ [ch]).length = (s.story k).taken + done.length + 1 := by
    rw [List.length_append, List.length_singleton, Nat.add_assoc]
  have now (o : Fin 24) : o ∈ (t.story k).outletsWhere
      (fun e => e.behind laps ((s.story k).taken + done.length)) ↔
      (s.story k).LappedOn laps ((s.story k).taken + (done ++ [ch]).length) o
        ∧ ¬(s.story k).LappedOn laps ((s.story k).taken + done.length) o := by
    rw [story, length]
    exact mem_behind ok.ascending
  have later (o : Fin 24) (before : (s.story k).LappedOn laps ((s.story k).taken + done.length) o) :
      (s.story k).LappedOn laps ((s.story k).taken + (done ++ [ch]).length) o := by
    rw [length]
    exact before.succ
  have beside (c : Fin 16) : t.QuietBeside k c ↔ s.QuietBeside k c := by
    have same (j : Fin 48) : (t.story j).source = (s.story j).source
        ∧ (t.story j).state = (s.story j).state := by
      by_cases here : j = k
      · rw [here, story]
        exact ⟨rfl, rfl⟩
      · rw [others j here]
        exact ⟨rfl, rfl⟩
    exact and_congr (forall_congr' fun j => by rw [(same j).1, (same j).2])
      (forall_congr' fun j => imp_congr_right fun other => by rw [others j other])
  refine ⟨?_, ?_, fun j other => ?_, fun o _ => ?_, ?_, fun c _ => ?_⟩
  · rw [vFrame, frame]
    rfl
  · refine ((State.get_set ..).trans (if_pos rfl)).trans ?_
    refine Story.written_snoc ok.ascending ?_
    rw [vStory, story]
  · exact ((State.get_set ..).trans (if_neg other)).trans ((vOthers j other).trans (others j other))
  · refine (vOutlets o).trans ?_
    simp only [now, outlets o]
    by_cases before : (s.story k).LappedOn laps ((s.story k).taken + done.length) o
    · simp only [before, not_true, and_false, if_false, if_true, later o before]
    · simp only [before, not_false_eq_true, and_true, if_false]
  · intro _
    refine vNotices.trans ?_
    by_cases before : ∃ o, (s.story k).LappedOn laps ((s.story k).taken + done.length) o
    · obtain ⟨o, onIt⟩ := before
      have after : ∃ o, (s.story k).LappedOn laps ((s.story k).taken + (done ++ [ch]).length) o := ⟨o, later o onIt⟩
      have raised : t.notices = raisedNotices .destCut s.notices := notices.trans (if_pos ⟨o, onIt⟩)
      rw [if_pos after, raise_notices, raise_notices, raised, raisedNotices_idem, ite_self]
    · have none_ (o : Fin 24) : ¬(s.story k).LappedOn laps ((s.story k).taken + done.length) o :=
        fun onIt => before ⟨o, onIt⟩
      have still : t.notices = s.notices := notices.trans (if_neg before)
      rw [raise_notices, raise_notices, still]
      refine if_congr (exists_congr fun o => ?_) rfl rfl
      rw [now]
      exact ⟨fun h => h.1.1, fun h => ⟨⟨h, none_ o⟩, rfl⟩⟩
  · refine (vCircuits c).trans ?_
    simp only [now, circuits c, beside]
    by_cases quiet : s.QuietBeside k c
    · simp only [and_iff_left quiet]
      by_cases before : (s.story k).LappedOn laps ((s.story k).taken + done.length) (lineOutlet c)
      · simp only [before, not_true, and_false, if_false, if_true, later _ before]
      · simp only [before, not_false_eq_true, and_true, if_false]
    · simp only [quiet, and_false, if_false]

end Sys2Proof.Machine

/-! PROOF. A framer in its story takes a character, and a write is completed (R57, R58, R65, R66, R69, R82 to
R85, R89). -/

namespace Sys2Proof.Machine

variable {s t u w : State} {k : Fin 48} {src : Source} {ch : Office}

/-! ## A framer in its story -/

theorem takeChar_inStory (slot : (framerOf src s).slot = some k) (state : (framerOf src s).state = .inStory) :
    takeChar src ch s = takeInStory src k ch (restartIdle k s) := by
  unfold takeChar
  simp only [slot, state]

theorem takeChar_closerMatch_story (slot : (framerOf src s).slot = some k)
    (state : (framerOf src s).state = .closerMatch) :
    takeChar src ch s = takeCloserStory src k ch (restartIdle k s) := by
  unfold takeChar
  simp only [slot, state]

theorem takeInStory_cases (src : Source) (k : Fin 48) (ch : Office) (s : State) : let f := framerOf src s
    let swallowed := f.lineEnd = true ∧ ch = lf
    let begins := ch = letterE ∧ f.lineStart = true
    (swallowed → takeInStory src k ch s = s.withFramer src (f.took ch))
    ∧ (¬swallowed → begins → takeInStory src k ch s = s.withFramer src (f.begin .closerMatch .inStory ch))
    ∧ (¬swallowed → ¬begins → takeInStory src k ch s = completeWrite src k [ch] s) := by
  intro f swallowed begins
  have isSwallowed : f.swallows ch = true ↔ swallowed := swallows_iff f ch
  unfold takeInStory
  exact ⟨fun yes => if_pos (isSwallowed.2 yes),
    fun no yes => (if_neg (mt isSwallowed.1 no)).trans (if_pos yes),
    fun no other => (if_neg (mt isSwallowed.1 no)).trans (if_neg other)⟩

theorem takeCloserStory_cases (src : Source) (k : Fin 48) (ch : Office) (s : State) : let f := framerOf src s
    let next := closer[f.holdBack.length]? = some ch
    (next → f.holdBack.length ≠ 3 → takeCloserStory src k ch s
      = s.withFramer src { f.took ch with holdBack := f.holdBack ++ [ch] })
    ∧ (next → f.holdBack.length = 3 → takeCloserStory src k ch s
      = toClosing k .closer (s.withFramer src f.closerDone))
    ∧ (¬next → takeCloserStory src k ch s = completeWrite src k (f.holdBack ++ [ch]) s) := by
  intro f next
  have isNext : extends? closer f.holdBack ch = true ↔ next := extends_iff ..
  unfold takeCloserStory
  exact ⟨fun yes short => (if_pos (isNext.2 yes)).trans (if_neg short),
    fun yes whole => (if_pos (isNext.2 yes)).trans (if_pos whole),
    fun no => if_neg (mt isNext.1 no)⟩

theorem Framer.took_eq (f : Framer) (ch : Office) :
    f.took ch = { f with lineStart := decide (ch = cr ∨ ch = lf), lineEnd := false } := rfl

/-- The first half of O56: what a character does that the framer of a RUNNING story takes. -/
theorem takeChar_running (slot : (framerOf src s).slot = some k) (source : (s.story k).source = src)
    (idle : (s.story k).idleTimer.isSome = true) :
    let f := framerOf src s
    let x := s.story k
    let u := takeChar src ch s
    let restarted : State := { s with stories := s.stories.set k { x with idleTimer := some 0 } }
    let marked : Framer := { f with lineStart := decide (ch = cr ∨ ch = lf), lineEnd := false }
    let swallowed := f.lineEnd = true ∧ ch = lf
    let begins := ch = office 'E' ∧ f.lineStart = true
    let next := (text ['E', 'N', 'E', 'N'])[f.holdBack.length]? = some ch
    (f.state = .inStory →
      (swallowed → u = restarted.withFramer src marked)
      ∧ (¬swallowed → begins → u = restarted.withFramer src { marked with
          state := .closerMatch, origin := some .inStory, holdBack := [ch] })
      ∧ (¬swallowed → ¬begins → u = completeWrite src k [ch] restarted))
    ∧ (f.state = .closerMatch →
      (next → f.holdBack.length ≠ 3 → u = restarted.withFramer src { marked with holdBack := f.holdBack ++ [ch] })
      ∧ (next → f.holdBack.length = 3 →
        u = { s with
          circuits := u.circuits
          framers := s.framers.set src.index f.closerDone
          stories := s.stories.set k (x.ending .closer s.regs.clock)
          notices := if x.anyLive = true then s.notices else (s.raise .storyClosed).notices }
        ∧ ∀ c [Decidable (src = .circuit c ∧ u.AtQuietPoint c)],
          u.circuit c = if src = .circuit c ∧ u.AtQuietPoint c then (s.circuit c).quieted else s.circuit c)
      ∧ (¬next → u = completeWrite src k (f.holdBack ++ [ch]) restarted)) := by
  subst source
  intro f x u restarted marked swallowed begins next
  have restart : restartIdle k s = restarted := restartIdle_withStory idle
  refine ⟨fun state => ?_, fun state => ?_⟩
  · have isU : u = takeInStory x.source k ch restarted := (takeChar_inStory slot state).trans (by rw [restart])
    rw [isU]
    exact takeInStory_cases x.source k ch restarted
  · have isU : u = takeCloserStory x.source k ch restarted :=
      (takeChar_closerMatch_story slot state).trans (by rw [restart])
    obtain ⟨more, whole, other⟩ := takeCloserStory_cases x.source k ch restarted
    refine ⟨fun yes short => isU.trans (more yes short), fun yes three => ?_, fun no => isU.trans (other no)⟩
    have closes : u = toClosing k .closer (restarted.withFramer x.source f.closerDone) := isU.trans (whole yes three)
    obtain ⟨records, circuits⟩ := toClosing_eq k .closer (restarted.withFramer x.source f.closerDone)
    have story : (restarted.withFramer x.source f.closerDone).story k = { x with idleTimer := some 0 } :=
      State.story_withStory ..
    rw [← closes, story] at records circuits
    refine ⟨?_, fun c _ => ?_⟩
    · exact records.trans (congrArg (fun w => { s with
          circuits := u.circuits, framers := s.framers.set x.source.index f.closerDone, stories := w
          notices := if x.anyLive = true then s.notices else (s.raise .storyClosed).notices })
        (vector_set_set s.stories k _ _))
    · exact circuits c

/-! ## Characters written -/

theorem writeChars_wrote {laps : Bool} (ok : (s.story k).Writable laps) (chs : List Office) {done : List Office}
    (before : s.Wrote t k laps done) :
    let n := min chs.length (65535 - ((s.story k).taken + done.length))
    ∃ u, writeChars k chs t = (chs.drop n, u) ∧ s.Wrote u k laps (done ++ chs.take n) := by
  induction chs generalizing done t with
  | nil =>
    refine ⟨t, ?_, ?_⟩
    · rw [List.drop_nil]
      rfl
    · rw [List.take_nil, List.append_nil]
      exact before
  | cons ch rest ih =>
    intro n
    have taken : (t.story k).taken = (s.story k).taken + done.length := by
      rw [before.story]
      rfl
    unfold writeChars
    by_cases room : (t.story k).taken < Config.takenMax
    · rw [if_pos room]
      obtain ⟨u, left, wrote⟩ := ih (before.snoc ok ch)
      have below : (s.story k).taken + done.length < 65535 := taken ▸ room
      have count : n = min rest.length (65535 - ((s.story k).taken + (done ++ [ch]).length)) + 1 := by
        simp only [n, List.length_cons, List.length_append, List.length_nil]
        omega
      rw [count, List.drop_succ_cons, List.take_succ_cons]
      refine ⟨u, left, ?_⟩
      rw [List.append_assoc] at wrote
      exact wrote
    · rw [if_neg room]
      have full : ¬(s.story k).taken + done.length < 65535 := taken ▸ room
      have none_ : n = 0 := by
        simp only [n]
        omega
      rw [none_, List.drop_zero, List.take_zero, List.append_nil]
      exact ⟨t, rfl, before⟩

/-- A story as a write finds it: no longer refused (R85). -/
def Story.unblocked (x : Story) : Story :=
  { x with
    blockedSince := none, blockTimer := none
    changed := if x.blockedSince = none then x.changed else true }

theorem Story.unblocked_free {x : Story} (since : x.blockedSince = none) (timer : x.blockTimer = none) :
    x.unblocked = x := by
  unfold Story.unblocked
  rw [if_pos since]
  cases x
  subst since timer
  rfl

/-- A write's characters taken by a story, as far as it has room for them (R69, R85). -/
theorem writeText_wrote {laps : Bool} (ok : (s.story k).Writable laps)
    (blocked : (s.story k).blockTimer.isSome = (s.story k).blockedSince.isSome) (chs : List Office) :
    let n := min chs.length (65535 - (s.story k).taken)
    ∃ u, (s.withStory k (s.story k).unblocked).Wrote u k laps (chs.take n)
      ∧ writeText k chs s = (chs.drop n,
        if (s.story k).taken + n = 65535 then toClosing k .tooLong u else u) := by
  intro n
  have begun : (if (s.story k).blockedSince = none then s else s.modStory k
      (fun st => { st with blockedSince := none, blockTimer := none }))
      = s.withStory k (s.story k).unblocked := by
    split_ifs with free
    · have timer : (s.story k).blockTimer = none := by
        rw [free] at blocked
        exact Option.isSome_eq_false_iff.1 blocked |> Option.isNone_iff_eq_none.1
      exact (State.withStory_same s k).symm.trans
        (congrArg (s.withStory k) (Story.unblocked_free free timer).symm)
    · unfold Story.unblocked
      rw [if_neg free]
      rfl
  have ok' : ((s.withStory k (s.story k).unblocked).story k).Writable laps := by
    rw [State.story_withStory]
    obtain ⟨source, window, ascending, reach⟩ := ok
    exact ⟨source, window, ascending, reach⟩
  obtain ⟨u, left, wrote⟩ := writeChars_wrote ok' chs (State.Wrote.nil ok')
  rw [State.story_withStory] at left wrote
  refine ⟨u, wrote, ?_⟩
  have taken : (u.story k).taken = (s.story k).taken + n := by
    rw [wrote.story, State.story_withStory]
    have length : ([] ++ chs.take n).length = n := by
      rw [List.nil_append, List.length_take]
      exact Nat.min_eq_left (Nat.min_le_left _ _)
    exact congrArg ((s.story k).taken + ·) length
  unfold writeText
  rw [begun]
  dsimp only
  rw [left]
  dsimp only
  rw [taken]
  by_cases full : (s.story k).taken + n = 65535
  · rw [if_pos full]
    exact if_pos full
  · rw [if_neg full]
    exact if_neg full

end Sys2Proof.Machine

/-! PROOF. Writes completed, and what is left of one taken in IDLE (R9, R57, R58, R65, R69, R82 to R85, R89). -/

namespace Sys2Proof.Machine

variable {s t u w : State} {k : Fin 48} {src : Source} {ch : Office}

/-! ## What is left of a write -/

/-- A framer with no story, in IDLE or in a match of the opener begun there, with at most so many characters
held back. -/
def Framer.Rests (f : Framer) (held : Nat) : Prop :=
  f.slot = none ∧ (f.state = .idle ∨ (f.state = .openerMatch ∧ f.origin = some .idle ∧ f.holdBack.length ≤ held))

theorem Framer.took_state (f : Framer) (ch : Office) : (f.took ch).state = f.state := rfl

theorem rests_takeIdle {n : Nat} (slot : (framerOf src s).slot = none)
    (idle : (framerOf src s).state = .idle) : (framerOf src (takeIdle src ch s)).Rests (n + 1) := by
  obtain ⟨swallow, begin_, tail, plain⟩ := takeIdle_cases src ch s
  by_cases swallowed : (framerOf src s).lineEnd = true ∧ ch = lf
  · rw [swallow swallowed, framerOf_withFramer]
    exact ⟨slot, .inl idle⟩
  by_cases begins : ch = letterN ∧ (framerOf src s).lineStart = true
  · rw [begin_ swallowed begins, framerOf_withFramer]
    exact ⟨slot, .inr ⟨rfl, rfl, Nat.le_add_left 1 n⟩⟩
  by_cases inside : (framerOf src s).lineStart = false ∧ (framerOf src s).tail = true
  · rw [tail swallowed inside.1 inside.2, framerOf_withFramer]
    exact ⟨slot, .inl idle⟩
  · rw [plain swallowed begins (by
      cases start : (framerOf src s).lineStart <;> cases tail : (framerOf src s).tail <;> simp_all),
      framerOf_addLoose, framerOf_withFramer]
    exact ⟨slot, .inl idle⟩

/-- What is left of a write is taken character by character: too little to complete an opener (R69). -/
theorem takeLeftover_eq {chs : List Office} {held : Nat} (few : chs.length + held ≤ 3)
    (rests : (framerOf src s).Rests held) :
    takeLeftover src chs s = chs.foldl (fun a ch => takeChar src ch a) s := by
  induction chs generalizing s held with
  | nil => rfl
  | cons ch rest ih =>
    rw [List.length_cons] at few
    obtain ⟨slot, idle | ⟨matching, origin, short⟩⟩ := rests
    · have step : takeChar src ch s = takeIdle src ch s := takeChar_idle slot idle
      have other : (framerOf src s).state ≠ .openerMatch := by
        rw [idle]
        exact FramerState.noConfusion
      refine Eq.trans ?_ (ih (s := takeChar src ch s) (held := held + 1) (by omega) ?_)
      · exact (congrArg (takeLeftover src rest) ((if_neg other).trans step.symm))
      · rw [step]
        exact rests_takeIdle slot idle
    · have incomplete : (framerOf src s).holdBack.length ≠ 3 := by omega
      have step : takeChar src ch s = extendOpener src ch s := by
        rw [takeChar_openerMatch slot matching]
        unfold takeOpenerMatch
        exact if_neg fun whole => incomplete whole.2
      refine Eq.trans ?_ (ih (s := takeChar src ch s) (held := held + 1) (by omega) ?_)
      · exact (congrArg (takeLeftover src rest) ((if_pos matching).trans step.symm))
      · rw [step]
        by_cases next : extends? opener (framerOf src s).holdBack ch = true
        · unfold extendOpener
          rw [if_pos next, modFramerOf_eq, framerOf_withFramer]
          refine ⟨slot, .inr ⟨matching, origin, ?_⟩⟩
          rw [List.length_append, List.length_singleton]
          omega
        · unfold extendOpener
          rw [if_neg next]
          unfold failMatch
          dsimp only
          rw [if_neg (by rw [origin]; simp)]
          refine rests_takeIdle ?_ ?_
          · rw [framerOf_addLoose, modFramerOf_eq, framerOf_withFramer]
            exact slot
          · rw [framerOf_addLoose, modFramerOf_eq, framerOf_withFramer]
            exact if_neg (by rw [origin]; simp)

/-! ## Text put into a story -/

/-- An outlet that a write laps carries its entry no longer: its circuit is quiet if it is so beside the
story. -/
theorem State.Wrote.quiet {laps : Bool} {done : List Office} {c : Fin 16} (h : s.Wrote t k laps done)
    (ascending : (s.story k).entries.Pairwise (fun a b => a.outlet < b.outlet))
    (lapped : (s.story k).LappedOn laps ((s.story k).taken + done.length) (lineOutlet c)) :
    t.AtQuietPoint c ↔ s.QuietBeside k c := by
  have dead : (t.story k).liveOn (lineOutlet c) = false := by
    rw [h.story, Bool.eq_false_iff]
    intro live
    obtain ⟨a, mem, onIt, live⟩ := (Story.liveOn_iff _ _).1 live
    obtain ⟨e, old, rfl⟩ := List.mem_map.1 mem
    rw [Entry.lap_outlet] at onIt
    obtain ⟨b, other, same, source, _, below⟩ := lapped
    have isB : b = e := entry_unique ascending other old (same.trans onIt.symm)
    exact ((Entry.lap_live e laps _).1 live).2 ⟨source, isB ▸ below⟩
  have source (j : Fin 48) : (t.story j).source = (s.story j).source
      ∧ (t.story j).state = (s.story j).state := by
    by_cases here : j = k
    · rw [here, h.story]
      exact ⟨rfl, rfl⟩
    · rw [h.others j here]
      exact ⟨rfl, rfl⟩
  refine and_congr (forall_congr' fun j => by rw [(source j).1, (source j).2]) ⟨fun none j other => ?_,
    fun none j => ?_⟩
  · rw [← h.others j other]
    exact none j
  · by_cases here : j = k
    · exact here ▸ dead
    · rw [h.others j here]
      exact none j here

/-- What the characters of a write bring about, before the framer is told (R82 to R85, R87, R89). -/
structure State.TextPut (s p : State) (k : Fin 48) (laps full : Bool) (done : List Office) : Prop where
  frame : p = { s with
    circuits := p.circuits, stories := p.stories, outlets := p.outlets, notices := p.notices }
  others : ∀ j, j ≠ k → p.story j = s.story j
  story : p.story k = if full = true
    then ((s.story k).unblocked.written laps done).ending .tooLong s.regs.clock
    else (s.story k).unblocked.written laps done
  outlets : ∀ o [Decidable ((s.story k).LappedOn laps ((s.story k).taken + done.length) o)],
    p.outlet o = if (s.story k).LappedOn laps ((s.story k).taken + done.length) o
      then (s.outlet o).cutOff k .lapped else s.outlet o
  notices : ∀ [Decidable (∃ o, (s.story k).LappedOn laps ((s.story k).taken + done.length) o)],
    let cut := if ∃ o, (s.story k).LappedOn laps ((s.story k).taken + done.length) o
      then raisedNotices .destCut s.notices else s.notices
    p.notices = if full = true ∧ (p.story k).anyLive = false then raisedNotices .storyClosed cut else cut
  circuits : ∀ c [Decidable (((s.story k).LappedOn laps ((s.story k).taken + done.length) (lineOutlet c)
      ∨ (full = true ∧ (s.story k).source = .circuit c)) ∧ p.AtQuietPoint c)],
    p.circuit c = if ((s.story k).LappedOn laps ((s.story k).taken + done.length) (lineOutlet c)
        ∨ (full = true ∧ (s.story k).source = .circuit c)) ∧ p.AtQuietPoint c
      then (s.circuit c).quieted else s.circuit c

theorem textPut_short {laps : Bool} {done : List Office} (ok : (s.story k).Writable laps)
    (wrote : (s.withStory k (s.story k).unblocked).Wrote u k laps done) : s.TextPut u k laps false done := by
  classical
  have isStory := s.story_withStory k (s.story k).unblocked
  have quiet (c : Fin 16) := wrote.quiet (c := c)
  obtain ⟨frame, story, others, outlets, notices, circuits⟩ := wrote
  rw [isStory] at story outlets notices circuits quiet
  refine ⟨?_, fun j other => ?_, story, outlets, ?_, fun c _ => ?_⟩
  · rw [frame]
    rfl
  · exact (others j other).trans (State.story_withStory_other _ other)
  · intro _ cut
    rw [if_neg fun h => Bool.noConfusion h.1]
    exact notices.trans (if_congr Iff.rfl rfl rfl)
  · refine (circuits c).trans (if_congr ?_ rfl rfl)
    simp only [Bool.false_eq_true, false_and, or_false]
    exact and_congr_right fun lapped => (quiet c ok.ascending lapped).symm

theorem textPut_full {laps : Bool} {done : List Office} (ok : (s.story k).Writable laps)
    (live : (s.story k).state.live = true)
    (wrote : (s.withStory k (s.story k).unblocked).Wrote u k laps done) :
    s.TextPut (toClosing k .tooLong u) k laps true done := by
  classical
  obtain ⟨frame, others, story, outlets, notices, circuits⟩ := textPut_short ok wrote
  obtain ⟨closes, tested⟩ := toClosing_eq k .tooLong u
  generalize toClosing k .tooLong u = p at closes tested
  have clock : u.regs.clock = s.regs.clock := by rw [frame]
  have isStory : u.story k = (s.story k).unblocked.written laps done := story
  have isSource : (u.story k).source = (s.story k).source := by
    rw [isStory]
    rfl
  have isLive : (u.story k).state.live = true := by
    rw [isStory]
    exact live
  rw [isSource] at tested
  have ended : p.story k = (u.story k).ending .tooLong u.regs.clock := by
    rw [closes]
    exact State.story_withStory ..
  have apart (j : Fin 48) (other : j ≠ k) : p.story j = u.story j := by
    rw [closes]
    exact State.story_withStory_other _ other
  have sameLive : (p.story k).anyLive = (u.story k).anyLive := by
    rw [ended]
    rfl
  refine ⟨?_, fun j other => (apart j other).trans (others j other), ?_, fun o _ => ?_, ?_, fun c _ => ?_⟩
  · rw [closes, frame]
  · rw [ended, isStory, clock]
    rfl
  · have same : p.outlet o = u.outlet o := by
      rw [closes]
      rfl
    exact same.trans (outlets o)
  · intro _ cut
    have before : u.notices = cut := notices.trans (if_neg fun h => Bool.noConfusion h.1)
    have after : p.notices = if (u.story k).anyLive = true then u.notices else (u.raise .storyClosed).notices := by
      rw [closes]
    rw [after, sameLive, raise_notices, before]
    cases (u.story k).anyLive <;> rfl
  · have none_ (own : (s.story k).source = .circuit c) : ¬u.AtQuietPoint c := fun still =>
      Bool.noConfusion ((still.1 k (isSource.trans own)).symm.trans isLive)
    have quiet (other : (s.story k).source ≠ .circuit c) : p.AtQuietPoint c ↔ u.AtQuietPoint c := by
      refine and_congr (forall_congr' fun j => ?_) (forall_congr' fun j => ?_)
      · by_cases here : j = k
        · rw [here]
          refine ⟨fun _ own => absurd (isSource.symm.trans own) other, fun _ own => ?_⟩
          rw [ended] at own
          exact absurd (isSource.symm.trans own) other
        · rw [apart j here]
      · by_cases here : j = k
        · rw [here, ended]
          exact Iff.rfl
        · rw [apart j here]
    rw [tested c]
    have before := circuits c
    simp only [Bool.false_eq_true, false_and, or_false] at before
    by_cases own : (s.story k).source = .circuit c
    · have still : u.circuit c = s.circuit c := before.trans (if_neg fun h => none_ own h.2)
      simp only [own, still, true_and, and_self, or_true]
    · simp only [own, false_and, and_false, or_false, if_false]
      exact before.trans (if_congr (and_congr_right fun _ => (quiet own).symm) rfl rfl)

/-- The record of a story that text was put into, in the words of the obligation. -/
theorem Story.put_record {x z : Story} {laps : Bool} {done : List Office} {clock n : Nat} {full : Prop}
    [Decidable full] (running : x.state = .running) (ready : ¬full → done ≠ []) (length : done.length = n)
    (isZ : z = if full then (x.unblocked.written laps done).ending .tooLong clock
      else x.unblocked.written laps done) :
    z = { x with
      taken := x.taken + n
      lines := x.lines + (done.filter (fun ch => ch = cr)).length
      window := (x.window ++ done).drop (x.window.length + n - 128)
      entries := z.entries, blockedSince := none, blockTimer := none, changed := true
      state := if full then (if z.anyLive = true then .closing else .closed) else .running
      reason := if full then some .tooLong else x.reason
      closed := if full ∧ z.anyLive = false then some clock else x.closed
      idleTimer := if full then none else x.idleTimer }
    ∧ z.entries = x.entries.map (fun e => e.lap laps (x.taken + n)) := by
  subst length
  have text : x.unblocked.written laps done = { x with
      taken := x.taken + done.length
      lines := x.lines + (done.filter (fun ch => ch = cr)).length
      window := (x.window ++ done).drop (x.window.length + done.length - 128)
      entries := (x.unblocked.written laps done).entries
      blockedSince := none, blockTimer := none
      changed := (x.unblocked.written laps done).changed } := by
    simp only [Story.written, Story.unblocked]
  have marked (short : ¬full) : (x.unblocked.written laps done).changed = true := if_neg (ready short)
  have entries : (x.unblocked.written laps done).entries
      = x.entries.map (fun e => e.lap laps (x.taken + done.length)) := rfl
  rw [← entries]
  generalize x.unblocked.written laps done = y at text marked isZ
  by_cases whole : full
  · rw [if_pos whole] at isZ
    have live : z.anyLive = y.anyLive := by
      rw [isZ]
      rfl
    have sameEntries : z.entries = y.entries := by
      rw [isZ]
      rfl
    refine ⟨?_, sameEntries⟩
    rw [live, sameEntries, isZ]
    unfold Story.ending
    generalize y.anyLive = alive
    simp only [whole, true_and, if_true]
    rw [text]
    cases alive <;> simp only [Bool.false_eq_true, Bool.true_eq_false, if_true, if_false]
  · rw [if_neg whole] at isZ
    rw [marked whole] at text
    refine ⟨?_, congrArg Story.entries isZ⟩
    rw [isZ]
    simp only [whole, false_and, if_false]
    rw [← running]
    exact text

theorem mask_getLsbD (f g : Flag) : f.mask.getLsbD g.bit = decide (g = f) := by
  cases f <;> cases g <;> rfl

theorem flags_raisedNotices (f g : Flag) (n : Notices) :
    (raisedNotices f n).flags.getLsbD g.bit = (n.flags.getLsbD g.bit || decide (g = f)) := by
  unfold raisedNotices Notices.withFlags
  rw [BitVec.getLsbD_or, mask_getLsbD]

/-- The flags after two of them may have been raised. -/
theorem flags_put {cut closes : Prop} [Decidable cut] [Decidable closes] (n : Notices) (g : Flag) :
    (if closes then raisedNotices .storyClosed (if cut then raisedNotices .destCut n else n)
      else if cut then raisedNotices .destCut n else n).flags.getLsbD g.bit
      = (n.flags.getLsbD g.bit || decide (g = .destCut ∧ cut) || decide (g = .storyClosed ∧ closes)) := by
  have inner : (if cut then raisedNotices .destCut n else n).flags.getLsbD g.bit
      = (n.flags.getLsbD g.bit || decide (g = .destCut ∧ cut)) := by
    split_ifs with h
    · rw [flags_raisedNotices]
      simp only [h, and_true]
    · simp only [h, and_false, decide_false, Bool.or_false]
  by_cases h : closes
  · rw [if_pos h, flags_raisedNotices, inner]
    simp only [h, and_true]
  · rw [if_neg h, inner]
    simp only [h, and_false, decide_false, Bool.or_false]

/-- Settles O56: a character taken in a story, and a write by the text put, its framer and what is left. -/
theorem textIsWrittenAndLapsTheSlowest : Obligations.TextIsWrittenAndLapsTheSlowest := by
  classical
  intro s src k consistent f x quietened slot running
  have ok := consistent.table.stories k
  have source : x.source = src := (consistent.framers src k slot).1
  have idle : x.idleTimer.isSome = true := ok.idle.2 (.inr running)
  refine ⟨fun ch => ?_, fun chs notNil => ?_⟩
  · intro u restarted become marked swallowed begins next
    obtain ⟨inStory, closerMatch⟩ := takeChar_running (ch := ch) slot source idle
    refine ⟨fun state => ?_, fun state => ?_⟩
    · exact inStory state
    · obtain ⟨more, whole, other⟩ := closerMatch state
      refine ⟨more, fun yes three => ?_, other⟩
      obtain ⟨records, circuits⟩ := whole yes three
      exact ⟨records, fun c => quieted_clauses (circuits c)⟩
  intro n few lapped on full
  have writable := ok.writable
  rw [source] at writable
  obtain ⟨u, wrote, isText⟩ := writeText_wrote writable ok.blocked chs
  have length : (chs.take n).length = n := by
    rw [List.length_take]
    exact Nat.min_eq_left (Nat.min_le_left _ _)
  obtain ⟨p, isP, put⟩ : ∃ p, p = (writeText k chs s).2
      ∧ s.TextPut p k (!src.isTerminal) (decide full) (chs.take n) := by
    refine ⟨_, rfl, ?_⟩
    rw [isText]
    by_cases whole : full
    · rw [decide_eq_true whole]
      exact cast (congrArg (s.TextPut · k _ true _) (if_pos whole).symm)
        (textPut_full writable (by rw [running]; rfl) wrote)
    · rw [decide_eq_false whole]
      exact cast (congrArg (s.TextPut · k _ false _) (if_neg whole).symm) (textPut_short writable wrote)
  have isLeft : (writeText k chs s).1 = chs.drop n := congrArg Prod.fst isText
  obtain ⟨frame, others, story, outlets, notices, circuits⟩ := put
  rw [length] at outlets notices circuits
  simp only [decide_eq_true_eq] at story notices circuits
  have lappedIff (o : Fin 24) : (s.story k).LappedOn (!src.isTerminal) ((s.story k).taken + n) o ↔ on o := by
    unfold Story.LappedOn
    simp only [Bool.not_eq_true']
    exact Iff.rfl
  let v : State := p.withFramer src (if full then f.giveUp else f.wrote (chs.getLastD space))
  have story' : v.story k = p.story k := rfl
  have ready : ¬full → chs.take n ≠ [] := fun short nil => by
    have zero : n = 0 := length.symm.trans (congrArg List.length nil)
    have long : 0 < chs.length := List.length_pos_of_ne_nil notNil
    have le : x.taken ≤ 65535 := ok.takenLe
    simp only [full, n] at short zero
    omega
  have framer : framerOf src p = f := by
    rw [frame]
    rfl
  refine ⟨v, ?frame, others, ?record, ?entries, fun o => ?outlets, fun g => ?flags, ?enables, fun c => ?circuits,
    fun short => ⟨?write, ?framer⟩, fun whole => ⟨?writeFull, ?framerFull⟩, fun other ne => ?framers⟩
  case frame =>
    have below : v = { p with framers := v.framers } := rfl
    rw [below, frame]
  case record =>
    exact (Story.put_record running ready length story).1
  case entries =>
    refine (Story.put_record running ready length story).2.trans (List.map_congr_left fun e _ => ?_)
    unfold Entry.lap
    simp only [Bool.not_eq_true']
  case outlets =>
    have here : v.outlet o = p.outlet o := rfl
    rw [here, outlets o]
    simp only [lappedIff]
    exact ⟨fun off => if_neg off, fun isOn => if_pos isOn⟩
  case flags =>
    have here : v.flagSet g = p.notices.flags.getLsbD g.bit := rfl
    have cutIff : (∃ o, (s.story k).LappedOn (!src.isTerminal) ((s.story k).taken + n) o)
        ↔ ∃ e ∈ x.entries, src.isTerminal = false ∧ e.state.live = true ∧ e.read + 128 < x.taken + n := by
      simp only [lappedIff, on, lapped]
      exact ⟨fun ⟨_, e, mem, _, h⟩ => ⟨e, mem, h⟩, fun ⟨e, mem, h⟩ => ⟨e.outlet, e, mem, rfl, h⟩⟩
    rw [here, notices, story']
    simp only [cutIff]
    exact flags_put s.notices g
  case enables =>
    have here : v.notices = p.notices := rfl
    rw [here, notices]
    split_ifs <;> rfl
  case circuits =>
    have tested := circuits c
    simp only [lappedIff] at tested
    rw [source] at tested
    exact quieted_clauses tested
  case write =>
    have state : (p.story k).state = .running :=
      (congrArg Story.state (Story.put_record running ready length story).1).trans (if_neg short)
    have step : completeWrite src k chs s = modFramerOf src (fun g => g.wrote (chs.getLastD space)) p := by
      unfold completeWrite
      dsimp only
      rw [← isP]
      exact if_pos state
    rw [step, modFramerOf_eq, framer]
    exact congrArg (p.withFramer src) (if_neg short).symm
  case framer =>
    refine (framerOf_withFramer ..).trans ((if_neg short).trans ?_)
    have last : chs.getLast? = some (chs.getLastD space) := by
      rw [List.getLastD_eq_getLast?, List.getLast?_eq_some_getLast notNil]
      rfl
    rw [last]
    simp only [Option.some.injEq]
    rfl
  case writeFull =>
    have state : (p.story k).state ≠ .running := by
      rw [congrArg Story.state (Story.put_record running ready length story).1]
      simp only [whole, if_true]
      split_ifs <;> exact StoryState.noConfusion
    have step : completeWrite src k chs s = takeLeftover src (chs.drop n) (modFramerOf src (fun g => g.giveUp) p) := by
      unfold completeWrite
      dsimp only
      rw [← isP, isLeft]
      exact if_neg state
    have isV : modFramerOf src (fun g => g.giveUp) p = v := by
      rw [modFramerOf_eq, framer]
      exact congrArg (p.withFramer src) (if_pos whole).symm
    rw [step, isV]
    refine takeLeftover_eq (held := 0) ?_ ?_
    · rw [List.length_drop]
      omega
    · have isFramer : framerOf src v = f.giveUp := (framerOf_withFramer ..).trans (if_pos whole)
      rw [isFramer]
      exact ⟨rfl, .inl rfl⟩
  case framerFull => exact (framerOf_withFramer ..).trans (if_pos whole)
  case framers =>
    refine (framerOf_withFramer_ite ..).trans ((if_neg ne).trans ?_)
    rw [frame]
    rfl

end Sys2Proof.Machine

/-! PROOF. What an outstanding write offered again touches: its story, its framer, its port and the flag
(R67, R69, R85). -/

namespace Sys2Proof.Machine

variable {s t u w : State} {k : Fin 48} {p : Fin 8}

/-- A change of one story's record with its entries kept, of one terminal's framer, queue and loose copy, and of
STORY_CLOSED. -/
structure State.Offers (s u : State) (k : Fin 48) (p : Fin 8) : Prop where
  frame : u = { s with ports := u.ports, framers := u.framers, stories := u.stories, notices := u.notices }
  others : ∀ j, j ≠ k → u.story j = s.story j
  entries : (u.story k).entries = (s.story k).entries
  source : (u.story k).source = (s.story k).source
  ports : ∀ q, q ≠ p → u.port q = s.port q
  sending : (u.port p).sending = (s.port p).sending
  framers : ∀ src, src ≠ .terminal p → framerOf src u = framerOf src s

namespace State.Offers

theorem refl (s : State) : s.Offers s k p := ⟨rfl, fun _ _ => rfl, rfl, rfl, fun _ _ => rfl, rfl, fun _ _ => rfl⟩

theorem trans (h : s.Offers u k p) (g : u.Offers w k p) : s.Offers w k p where
  frame := by rw [g.frame, h.frame]
  others j other := (g.others j other).trans (h.others j other)
  entries := g.entries.trans h.entries
  source := g.source.trans h.source
  ports q other := (g.ports q other).trans (h.ports q other)
  sending := g.sending.trans h.sending
  framers src other := (g.framers src other).trans (h.framers src other)

theorem withStory (h : s.Offers u k p) {x : Story} (entries : x.entries = (u.story k).entries)
    (source : x.source = (u.story k).source) : s.Offers (u.withStory k x) k p :=
  h.trans ⟨rfl, fun _ other => State.story_withStory_other x other,
    (congrArg Story.entries (u.story_withStory k x)).trans entries,
    (congrArg Story.source (u.story_withStory k x)).trans source, fun _ _ => rfl, rfl, fun _ _ => rfl⟩

theorem modStory (h : s.Offers u k p) {f : Story → Story} (entries : (f (u.story k)).entries = (u.story k).entries)
    (source : (f (u.story k)).source = (u.story k).source) : s.Offers (u.modStory k f) k p :=
  h.withStory (x := { f (u.story k) with changed := true }) entries source

theorem modPort (h : s.Offers u k p) {f : Port → Port} (sending : ∀ x : Port, (f x).sending = x.sending) :
    s.Offers (u.modPort p f) k p :=
  h.trans ⟨rfl, fun _ _ => rfl, rfl, rfl, fun _ other => (State.port_modPort ..).trans (if_neg other),
    (congrArg Port.sending (State.port_modPort_self ..)).trans (sending _), fun _ _ => rfl⟩

theorem modFramerOf (h : s.Offers u k p) {f : Framer → Framer} :
    s.Offers (modFramerOf (.terminal p) f u) k p :=
  h.trans ⟨rfl, fun _ _ => rfl, rfl, rfl, fun _ _ => rfl, rfl, fun _ other =>
    (framerOf_modFramerOf ..).trans (if_neg other)⟩

theorem raise (h : s.Offers u k p) {f : Flag} : s.Offers (u.raise f) k p :=
  h.trans ⟨rfl, fun _ _ => rfl, rfl, rfl, fun _ _ => rfl, rfl, fun _ _ => rfl⟩

theorem addLoose (h : s.Offers u k p) {n : Nat} : s.Offers (u.addLoose (.terminal p) n) k p :=
  h.modPort (f := fun x => { x with counts := { x.counts with looseCopy := incBy n x.counts.looseCopy } })
    fun _ => rfl

theorem popQueue (h : s.Offers u k p) : s.Offers (popQueue p u) k p :=
  h.modPort (f := fun x => x.withQueue x.queue.tail) fun _ => rfl

theorem restartIdle (h : s.Offers u k p) : s.Offers (restartIdle k u) k p := by
  rw [restartIdle_eq]
  exact h.withStory rfl rfl

theorem closeIfDone (h : s.Offers u k p) : s.Offers (closeIfDone k u) k p := by
  unfold Machine.closeIfDone
  split_ifs
  · exact (h.modStory rfl rfl).raise
  · exact h

theorem forEach {α : Type} {l : List α} {f : α → State → State}
    (each : ∀ a v, s.Offers v k p → s.Offers (f a v) k p) (h : s.Offers u k p) :
    s.Offers (Machine.forEach l f u) k p := forEach_keeps each h

theorem takeIdle (h : s.Offers u k p) {ch : Office} : s.Offers (takeIdle (.terminal p) ch u) k p := by
  unfold Machine.takeIdle
  dsimp only
  split_ifs
  · exact h.modFramerOf
  · exact h.modFramerOf
  · exact h.modFramerOf
  · exact h.modFramerOf.addLoose

theorem takeDiscard (h : s.Offers u k p) {ch : Office} : s.Offers (takeDiscard (.terminal p) ch u) k p := by
  unfold Machine.takeDiscard
  dsimp only
  split_ifs
  · exact h.modFramerOf
  · exact h.modFramerOf
  · exact h.modFramerOf
  · exact h.modFramerOf.addLoose

theorem extendOpener (h : s.Offers u k p) {ch : Office} : s.Offers (extendOpener (.terminal p) ch u) k p := by
  unfold Machine.extendOpener failMatch
  dsimp only
  split_ifs
  · exact h.modFramerOf
  · exact h.modFramerOf.addLoose.takeDiscard
  · exact h.modFramerOf.addLoose.takeIdle

theorem takeLeftover (h : s.Offers u k p) {chs : List Office} :
    s.Offers (takeLeftover (.terminal p) chs u) k p := by
  refine h.forEach fun ch v hv => ?_
  split_ifs
  · exact hv.extendOpener
  · exact hv.takeIdle

section Writing

variable (terminal : (s.story k).source.isTerminal = true)
include terminal

theorem toClosing (h : s.Offers u k p) {why : CloseReason} : s.Offers (toClosing k why u) k p := by
  unfold Machine.toClosing
  dsimp only
  cases source : (u.story k).source with
  | circuit c =>
    rw [← h.source, source] at terminal
    exact Bool.noConfusion terminal
  | terminal q => exact (h.modStory rfl rfl).closeIfDone

theorem writeOne (h : s.Offers u k p) {ch : Office} : s.Offers (writeOne k ch u) k p := by
  unfold Machine.writeOne
  cases source : (u.story k).source with
  | circuit c =>
    rw [← h.source, source] at terminal
    exact Bool.noConfusion terminal
  | terminal q => exact h.withStory rfl rfl

theorem writeChars (h : s.Offers u k p) {chs : List Office} : s.Offers (writeChars k chs u).2 k p := by
  induction chs generalizing u with
  | nil => exact h
  | cons ch rest ih =>
    unfold Machine.writeChars
    split_ifs
    · exact ih (h.writeOne terminal)
    · exact h

theorem writeText (h : s.Offers u k p) {chs : List Office} : s.Offers (writeText k chs u).2 k p := by
  unfold Machine.writeText
  dsimp only
  split_ifs
  · exact (h.writeChars terminal).toClosing terminal
  · exact h.writeChars terminal
  · exact ((h.modStory rfl rfl).writeChars terminal).toClosing terminal
  · exact (h.modStory rfl rfl).writeChars terminal

theorem completeWrite (h : s.Offers u k p) {chs : List Office} :
    s.Offers (completeWrite (.terminal p) k chs u) k p := by
  unfold Machine.completeWrite
  dsimp only
  split_ifs
  · exact (h.writeText terminal).modFramerOf
  · exact (h.writeText terminal).modFramerOf.takeLeftover

end Writing

end State.Offers

/-- An outstanding write is offered by a terminal's story alone, and where one is outstanding. -/
theorem offerWrite_offers (k : Fin 48) (s : State) : offerWrite k s = s
    ∨ ∃ p, (s.story k).source = .terminal p ∧ (framerOf (.terminal p) s).outstanding ≠ none
      ∧ s.Offers (offerWrite k s) k p := by
  cases source : (s.story k).source with
  | circuit c => exact .inl (offerWrite_none fun p terminal => Source.noConfusion (source.symm.trans terminal))
  | terminal p =>
    cases outstanding : (framerOf (.terminal p) s).outstanding with
    | none =>
      refine .inl (offerWrite_none fun q terminal => ?_)
      rw [← Source.terminal.inj (source.symm.trans terminal)]
      exact outstanding
    | some chs =>
      by_cases takes : (framerOf (.terminal p) s).slot = some k ∧ (s.story k).state = .running
          ∧ roomFor (s.story k) chs.length = true
      · refine .inr ⟨p, rfl, by rw [outstanding]; exact Option.some_ne_none _, ?_⟩
        rw [offerWrite_taken source outstanding takes.1 takes.2.1 takes.2.2]
        exact (State.Offers.refl s).popQueue.restartIdle.completeWrite (by rw [source]; rfl)
      · exact .inl (offerWrite_not source outstanding takes)

end Sys2Proof.Machine

/-! PROOF. Every live entry on an outlet cut (R94, R118, R138). -/

namespace Sys2Proof.Machine

variable {s t u v w : State} {k : Fin 48} {o : Fin 24} {why : CutReason}

/-! ## One of many changes, seen from one side -/

/-- What a view sees of many changes is what it sees of the one that reaches it, made in a state that the others
have led to. -/
theorem forEach_meets {α β : Type} {f : α → State → State} (view : State → β) {P : State → Prop} {a : α}
    {l : List α} (nodup : l.Nodup) (mem : a ∈ l) (keeps : ∀ b w, P w → P (f b w))
    (apart : ∀ b w, b ≠ a → view (f b w) = view w) (start : P s) :
    ∃ v, P v ∧ view v = view s ∧ view (forEach l f s) = view (f a v) := by
  have stays (l : List α) (out : a ∉ l) (w : State) : view (forEach l f w) = view w := by
    induction l generalizing w with
    | nil => rfl
    | cons b l ih =>
      rw [forEach_cons, ih fun mem => out (List.mem_cons_of_mem b mem)]
      exact apart b w fun same => out (same ▸ List.mem_cons_self)
  obtain ⟨before, after, rfl⟩ := List.append_of_mem mem
  have notBefore : a ∉ before := fun there =>
    (List.nodup_append.1 nodup).2.2 a there a List.mem_cons_self rfl
  have notAfter : a ∉ after := (List.nodup_cons.1 (List.nodup_append.1 nodup).2.1).1
  refine ⟨forEach before f s, forEach_keeps keeps start, stays before notBefore s, ?_⟩
  have split : forEach (before ++ a :: after) f s = forEach after f (f a (forEach before f s)) := by
    unfold forEach
    rw [List.foldl_append]
    rfl
  rw [split, stays after notAfter]

/-! ## What the cuts on an outlet leave of the rest -/

/-- What the cuts of entries on an outlet leave as it was (R94, R138). -/
structure State.Cleared (s u : State) (o : Fin 24) : Prop where
  frame : u = { s with
    circuits := u.circuits, ports := u.ports, framers := u.framers, stories := u.stories
    outlets := u.outlets, notices := u.notices }
  outlets : ∀ j, j ≠ o → u.outlet j = s.outlet j
  outlet : u.outlet o = { s.outlet o with holder := (u.outlet o).holder, waiting := (u.outlet o).waiting }
  circuits : ∀ c, lineOutlet c ≠ o → u.circuit c = s.circuit c
  tested : ∀ c, lineOutlet c = o → u.circuit c = s.circuit c ∨ u.circuit c = (s.circuit c).quieted
  source : ∀ k, (u.story k).source = (s.story k).source
  live : ∀ k, (s.story k).source.isTerminal = false → (u.story k).state.live = (s.story k).state.live
  carried : ∀ k j, j ≠ o → (u.story k).liveOn j = (s.story k).liveOn j
  framers : ∀ c, framerOf (.circuit c) u = framerOf (.circuit c) s
  ports : ∀ p, (s.port p).Reacted (u.port p) ∧ (u.port p).sending = (s.port p).sending
    ∧ ((framerOf (.terminal p) s).outstanding = none →
      u.port p = s.port p ∧ framerOf (.terminal p) u = framerOf (.terminal p) s)
  flags : ∀ f, f ≠ .storyClosed → u.flagSet f = s.flagSet f
  closed : s.flagSet .storyClosed = true → u.flagSet .storyClosed = true
  enables : u.notices.enables = s.notices.enables

namespace State.Cleared

theorem refl (s : State) (o : Fin 24) : s.Cleared s o where
  frame := rfl
  outlets _ _ := rfl
  outlet := rfl
  circuits _ _ := rfl
  tested _ _ := .inl rfl
  source _ := rfl
  live _ _ := rfl
  carried _ _ _ := rfl
  framers _ := rfl
  ports _ := ⟨.refl _, rfl, fun _ => ⟨rfl, rfl⟩⟩
  flags _ _ := rfl
  closed := id
  enables := rfl

theorem trans (h : s.Cleared u o) (g : u.Cleared w o) : s.Cleared w o where
  frame := by rw [g.frame, h.frame]
  outlets j other := (g.outlets j other).trans (h.outlets j other)
  outlet := by rw [g.outlet, h.outlet]
  circuits c other := (g.circuits c other).trans (h.circuits c other)
  tested c own := by
    rcases g.tested c own with later | later <;> rcases h.tested c own with before | before
    · exact .inl (later.trans before)
    · exact .inr (later.trans before)
    · exact .inr (later.trans (by rw [before]))
    · exact .inr (later.trans (by rw [before, Circuit.quieted_quieted]))
  source k := (g.source k).trans (h.source k)
  live k line := (g.live k ((congrArg Source.isTerminal (h.source k)).trans line)).trans (h.live k line)
  carried k j other := (g.carried k j other).trans (h.carried k j other)
  framers c := (g.framers c).trans (h.framers c)
  ports p := by
    obtain ⟨hReacted, hSending, hSame⟩ := h.ports p
    obtain ⟨gReacted, gSending, gSame⟩ := g.ports p
    refine ⟨hReacted.trans gReacted, gSending.trans hSending, fun none_ => ?_⟩
    obtain ⟨port, framer⟩ := hSame none_
    obtain ⟨port', framer'⟩ := gSame (by rw [framer]; exact none_)
    exact ⟨port'.trans port, framer'.trans framer⟩
  flags f other := (g.flags f other).trans (h.flags f other)
  closed raised := g.closed (h.closed raised)
  enables := g.enables.trans h.enables

end State.Cleared

/-- An outstanding write offered again leaves that much. -/
theorem cleared_offerWrite (k : Fin 48) (o : Fin 24) (s : State) : s.Cleared (offerWrite k s) o := by
  have reacted : s.Reacted (offerWrite k s) := (State.Reacted.refl s).offerWrite
  rcases offerWrite_offers k s with same | ⟨p, source, outstanding, offers⟩
  · rw [same]
    exact .refl s o
  generalize offerWrite k s = u at reacted offers
  have outlet (j : Fin 24) : u.outlet j = s.outlet j := by
    rw [offers.frame]
    rfl
  have circuit (c : Fin 16) : u.circuit c = s.circuit c := by
    rw [offers.frame]
    rfl
  refine
    { frame := by rw [offers.frame]
      outlets := fun j _ => outlet j
      outlet := by rw [outlet o]
      circuits := fun c _ => circuit c
      tested := fun c _ => .inl (circuit c)
      source := fun j => ?source
      live := fun j line => ?live
      carried := fun j a _ => ?carried
      framers := fun c => offers.framers _ Source.noConfusion
      ports := fun q => ⟨reacted.ports q, ?sending, fun none_ => ?same⟩
      flags := reacted.otherFlags
      closed := reacted.closedFlag
      enables := reacted.enables }
  case source =>
    by_cases here : j = k
    · rw [here]
      exact offers.source
    · rw [offers.others j here]
  case live =>
    have other : j ≠ k := fun here => by
      rw [here, source] at line
      exact Bool.noConfusion line
    rw [offers.others j other]
  case carried =>
    by_cases here : j = k
    · rw [here]
      unfold Story.liveOn
      rw [offers.entries]
    · rw [offers.others j here]
  case sending =>
    by_cases here : q = p
    · rw [here]
      exact offers.sending
    · rw [offers.ports q here]
  case same =>
    have other : q ≠ p := fun here => outstanding (here ▸ none_)
    exact ⟨offers.ports q other, offers.framers _ fun same => other (Source.terminal.inj same)⟩

/-! ## One entry cut, with the tests that follow -/

/-- A story after the cut of its entry for an outlet, closed where it was CLOSING with no other (R82, R89). -/
def Story.leftOff (x : Story) (o : Fin 24) (why : CutReason) (clock : Nat) : Story :=
  let y := x.cutOff o why
  if y.state = .closing ∧ y.anyLive = false then { y with state := .closed, closed := some clock } else y

/-- A cut that owes no item and raises no flag, with the tests up to the write offered again. -/
theorem closeIfDone_cutState (unflagged : why.flagged = false) (s : State) :
    let y := (s.story k).cutOff o why
    let w := quietTestOutlet o (closeIfDone k (cutState k o why s))
    w = { s with
      circuits := w.circuits, stories := s.stories.set k ((s.story k).leftOff o why s.regs.clock)
      outlets := s.outlets.set o ((s.outlet o).cutOff k why)
      notices := if y.state = .closing ∧ y.anyLive = false then (s.raise .storyClosed).notices else s.notices }
    ∧ ∀ c, (lineOutlet c ≠ o → w.circuit c = s.circuit c)
      ∧ (w.circuit c = s.circuit c ∨ w.circuit c = (s.circuit c).quieted) := by
  classical
  intro y w
  have cut : cutState k o why s = { s with
      stories := s.stories.set k y, outlets := s.outlets.set o ((s.outlet o).cutOff k why) } := by
    unfold cutState
    rw [unflagged]
    rfl
  have story : (cutState k o why s).story k = y := by
    rw [cut]
    exact State.story_withStory ..
  have closed : closeIfDone k (cutState k o why s) = { s with
      stories := s.stories.set k ((s.story k).leftOff o why s.regs.clock)
      outlets := s.outlets.set o ((s.outlet o).cutOff k why)
      notices := if y.state = .closing ∧ y.anyLive = false then (s.raise .storyClosed).notices
        else s.notices } := by
    have left : (s.story k).leftOff o why s.regs.clock = if y.state = .closing ∧ y.anyLive = false
      then { y with state := .closed, closed := some s.regs.clock } else y := rfl
    rw [closeIfDone_eq, story, cut, left]
    by_cases due : y.state = .closing ∧ y.anyLive = false
    · simp only [if_pos due]
      exact congrArg (fun x => { s with
        stories := x, outlets := s.outlets.set o ((s.outlet o).cutOff k why)
        notices := (s.raise .storyClosed).notices }) (vector_set_set s.stories k _ _)
    · simp only [if_neg due]
  have frame : w = { closeIfDone k (cutState k o why s) with circuits := w.circuits } := quietTestOutlet_frame ..
  refine ⟨by rw [frame, closed], fun c => ?_⟩
  have same : (closeIfDone k (cutState k o why s)).circuit c = s.circuit c := by
    rw [closed]
    rfl
  have tested : w.circuit c = if lineOutlet c = o ∧ (closeIfDone k (cutState k o why s)).AtQuietPoint c
      then (s.circuit c).quieted else s.circuit c := by
    rw [← same]
    exact circuit_quietTestOutlet ..
  rw [tested]
  refine ⟨fun other => if_neg fun both => other both.1, ?_⟩
  split_ifs
  · exact .inr rfl
  · exact .inl rfl

theorem Story.leftOff_entries (x : Story) (o : Fin 24) (why : CutReason) (clock : Nat) :
    (x.leftOff o why clock).entries = (x.cutOff o why).entries := by
  unfold Story.leftOff
  dsimp only
  split_ifs <;> rfl

theorem Story.leftOff_source (x : Story) (o : Fin 24) (why : CutReason) (clock : Nat) :
    (x.leftOff o why clock).source = x.source := by
  unfold Story.leftOff
  dsimp only
  split_ifs <;> rfl

theorem Story.leftOff_live (x : Story) (o : Fin 24) (why : CutReason) (clock : Nat) :
    (x.leftOff o why clock).state.live = x.state.live := by
  have state : (x.cutOff o why).state = x.state := rfl
  unfold Story.leftOff
  dsimp only
  split_ifs with due
  · rw [← state, due.1]
    rfl
  · rfl

theorem Story.leftOff_liveOn (x : Story) {o j : Fin 24} (other : j ≠ o) (why : CutReason) (clock : Nat) :
    (x.leftOff o why clock).liveOn j = x.liveOn j := by
  unfold Story.liveOn
  rw [Story.leftOff_entries]
  unfold Story.cutOff
  rw [List.any_map]
  refine congrArg (List.any _) (funext fun e => ?_)
  by_cases here : e.outlet = o
  · have notCut : ¬(e.cut x.taken why).outlet = j := fun there => other (there.symm.trans here)
    have notIt : ¬e.outlet = j := fun there => other (there.symm.trans here)
    simp only [Function.comp, if_pos here, decide_eq_false notCut, decide_eq_false notIt, Bool.false_and]
  · simp only [Function.comp, if_neg here]

/-- The cut of one entry leaves that much, if it owes no item and raises no flag. -/
theorem cleared_cutEntry (unflagged : why.flagged = false) (itemless : why.item = none) (k : Fin 48) (o : Fin 24)
    (s : State) : s.Cleared (cutEntry k o why s) o := by
  by_cases live : (s.story k).liveOn o = true
  swap
  · rw [cutEntry_of_dead (Bool.eq_false_iff.2 live)]
    exact .refl s o
  rw [cutEntry_of_live live]
  unfold afterCut
  refine .trans ?_ (cleared_offerWrite k o _)
  obtain ⟨frame, circuits⟩ := closeIfDone_cutState (k := k) (o := o) unflagged s
  generalize quietTestOutlet o (closeIfDone k (cutState k o why s)) = w at frame circuits
  have story (j : Fin 48) : w.story j = if j = k then (s.story k).leftOff o why s.regs.clock else s.story j := by
    rw [frame]
    exact State.get_set ..
  have outlet (j : Fin 24) : w.outlet j = if j = o then (s.outlet o).cutOff k why else s.outlet j := by
    rw [frame]
    exact State.get_set ..
  have itself : (s.outlet o).cutOff k why = { s.outlet o with
      holder := ((s.outlet o).cutOff k why).holder, waiting := ((s.outlet o).cutOff k why).waiting } := by
    unfold Outlet.cutOff
    rw [itemless]
  have flags (f : Flag) : w.flagSet f = s.flagSet f ∨ (f = .storyClosed ∧ w.flagSet f = true) := by
    have read : w.flagSet f = (if ((s.story k).cutOff o why).state = .closing
        ∧ ((s.story k).cutOff o why).anyLive = false then raisedNotices .storyClosed s.notices
        else s.notices).flags.getLsbD f.bit := by
      rw [frame]
      rfl
    rw [read]
    split_ifs
    · rw [flags_raisedNotices]
      by_cases closing : f = .storyClosed
      · exact .inr ⟨closing, by rw [decide_eq_true closing, Bool.or_true]⟩
      · exact .inl (by rw [decide_eq_false closing, Bool.or_false]; rfl)
    · exact .inl rfl
  refine
    { frame := by rw [frame]
      outlets := fun j other => (outlet j).trans (if_neg other)
      outlet := by rw [outlet o, if_pos rfl]; exact itself
      circuits := fun c other => (circuits c).1 other
      tested := fun c _ => (circuits c).2
      source := fun j => ?source
      live := fun j _ => ?live
      carried := fun j a other => ?carried
      framers := fun c => by rw [frame]; rfl
      ports := fun p => by rw [frame]; exact ⟨.refl _, rfl, fun _ => ⟨rfl, rfl⟩⟩
      flags := fun f other => (flags f).resolve_right fun raised => other raised.1
      closed := fun raised => (flags .storyClosed).elim (fun same => same.trans raised) fun now => now.2
      enables := ?enables }
  case source =>
    rw [story]
    split_ifs with here
    · rw [Story.leftOff_source, here]
    · rfl
  case live =>
    rw [story]
    split_ifs with here
    · rw [Story.leftOff_live, here]
    · rfl
  case carried =>
    rw [story]
    split_ifs with here
    · rw [Story.leftOff_liveOn _ other, here]
    · rfl
  case enables =>
    rw [frame]
    dsimp only
    split_ifs <;> rfl

theorem cleared_cutOutlet (unflagged : why.flagged = false) (itemless : why.item = none) (o : Fin 24)
    (s : State) : s.Cleared (cutOutlet o why s) o := by
  unfold cutOutlet
  exact forEach_keeps (P := fun v => s.Cleared v o)
    (fun k v h => h.trans (cleared_cutEntry unflagged itemless k o v)) (.refl s o)

/-! ## The stories whose entries are cut -/

theorem story_cutEntry_other {j : Fin 48} (other : j ≠ k) (o : Fin 24) (why : CutReason) (s : State) :
    (cutEntry k o why s).story j = s.story j := by
  by_cases live : (s.story k).liveOn o = true
  · have cut : (quietTestOutlet o (closeIfDone k (cutState k o why s))).story j = s.story j := by
      rw [quietTestOutlet_frame]
      have closing : OnStory k (cutState k o why s) (closeIfDone k (cutState k o why s)) :=
        (OnStory.refl _).closeIfDone
      exact (closing.others j other).trans ((State.get_set ..).trans (if_neg other))
    rw [cutEntry_of_live live]
    unfold afterCut
    rcases offerWrite_offers k (quietTestOutlet o (closeIfDone k (cutState k o why s)))
      with same | ⟨p, _, _, offers⟩
    · rw [same, cut]
    · rw [offers.others j other, cut]
  · rw [cutEntry_of_dead (Bool.eq_false_iff.2 live)]

/-- A story of which an entry is cut: its entries, and its whole record where no write of it is outstanding. -/
theorem story_cutEntry (unflagged : why.flagged = false) (live : (s.story k).liveOn o = true) :
    ((cutEntry k o why s).story k).entries = ((s.story k).cutOff o why).entries
    ∧ ((∀ p, (s.story k).source = .terminal p → (framerOf (.terminal p) s).outstanding = none) →
      (cutEntry k o why s).story k = (s.story k).leftOff o why s.regs.clock) := by
  rw [cutEntry_of_live live]
  unfold afterCut
  obtain ⟨frame, -⟩ := closeIfDone_cutState (k := k) (o := o) unflagged s
  generalize quietTestOutlet o (closeIfDone k (cutState k o why s)) = w at frame
  have story : w.story k = (s.story k).leftOff o why s.regs.clock := by
    rw [frame]
    exact State.story_withStory ..
  refine ⟨?_, fun none_ => ?_⟩
  · rcases offerWrite_offers k w with same | ⟨p, _, _, offers⟩
    · rw [same, story, Story.leftOff_entries]
    · rw [offers.entries, story, Story.leftOff_entries]
  · rw [offerWrite_none fun p source => ?_, story]
    rw [story, Story.leftOff_source] at source
    rw [frame]
    exact none_ p source

/-- A story after every live entry on an outlet is cut is the story after the cut of its own. -/
theorem story_cutOutlet (unflagged : why.flagged = false) (itemless : why.item = none) (k : Fin 48)
    (o : Fin 24) (s : State) : ∃ v, s.Cleared v o ∧ v.story k = s.story k
      ∧ (cutOutlet o why s).story k = (cutEntry k o why v).story k :=
  forEach_meets (fun v => v.story k) (P := fun v => s.Cleared v o) (List.nodup_finRange 48)
    (List.mem_finRange k) (fun j v h => h.trans (cleared_cutEntry unflagged itemless j o v))
    (fun _ w other => story_cutEntry_other other.symm o why w) (.refl s o)

theorem cutOutlet_dead_story (unflagged : why.flagged = false) (itemless : why.item = none)
    (dead : (s.story k).liveOn o = false) : (cutOutlet o why s).story k = s.story k := by
  obtain ⟨v, _, same, final⟩ := story_cutOutlet unflagged itemless k o s
  rw [final, cutEntry_of_dead (same ▸ dead), same]

theorem cutOutlet_entries (unflagged : why.flagged = false) (itemless : why.item = none)
    (live : (s.story k).liveOn o = true) :
    ((cutOutlet o why s).story k).entries = ((s.story k).cutOff o why).entries := by
  obtain ⟨v, _, same, final⟩ := story_cutOutlet unflagged itemless k o s
  rw [final, (story_cutEntry unflagged (same ▸ live)).1, same]

theorem cutOutlet_served (unflagged : why.flagged = false) (itemless : why.item = none)
    (live : (s.story k).liveOn o = true)
    (none_ : ∀ p, (s.story k).source = .terminal p → (framerOf (.terminal p) s).outstanding = none) :
    (cutOutlet o why s).story k = (s.story k).leftOff o why s.regs.clock := by
  obtain ⟨v, cleared, same, final⟩ := story_cutOutlet unflagged itemless k o s
  have clock : v.regs.clock = s.regs.clock := by rw [cleared.frame]
  rw [final, (story_cutEntry unflagged (same ▸ live)).2 fun p source => ?_, same, clock]
  have still := none_ p (same ▸ source)
  rw [((cleared.ports p).2.2 still).2]
  exact still

/-- A live entry on the outlet is among its story's entries, cut (R94, R138). -/
theorem cutOutlet_carried (unflagged : why.flagged = false) (itemless : why.item = none) {e : Entry}
    (mem : e ∈ (s.story k).entries) (onIt : e.outlet = o) (live : e.state.live = true) :
    e.cut (s.story k).taken why ∈ ((cutOutlet o why s).story k).entries := by
  have carries : (s.story k).liveOn o = true := (Story.liveOn_iff _ _).2 ⟨e, mem, onIt, live⟩
  rw [cutOutlet_entries unflagged itemless carries]
  exact List.mem_map.2 ⟨e, mem, if_pos onIt⟩

end Sys2Proof.Machine

/-! PROOF. The ready input and the stall of a terminal outlet (R43, R53, R117, R137, R138). -/

namespace Sys2Proof.Machine

variable {s t u v w : State} {k : Fin 48}

theorem exec_readyInRises (t : Fin 8) : exec (.readyInRises t) s = .next (readyRises t s) := rfl

theorem exec_readyInFalls (t : Fin 8) : exec (.readyInFalls t) s = .next (readyFalls t s) := rfl

theorem exec_stall (t : Fin 8) : exec (.stall t) s
    = .next (if s.stallDue t = true then settle (stallOutlet t s) else s) := rfl

theorem stallDue_iff (s : State) (t : Fin 8) : s.stallDue t = true ↔ (s.outlet (terminalOutlet t)).state = .paused
    ∧ ∃ e, (s.outlet (terminalOutlet t)).stallTimer = some e ∧ (s.port t).config.stallTime ≤ e := by
  unfold State.stallDue
  rw [Bool.and_eq_true, decide_eq_true_eq]
  exact and_congr_right fun _ => expired_iff

theorem Outlet.unstalled_eq (y : Outlet) :
    y.unstalled = { y with state := if y.state = .stalled then .idle else y.state } := by
  unfold Outlet.unstalled
  split_ifs <;> rfl

theorem Outlet.paused_eq (y : Outlet) :
    y.paused = { y with state := if y.state = .idle ∨ y.state = .sending then .paused else y.state } := by
  unfold Outlet.paused
  split_ifs <;> rfl

/-- A ready input moved on a port out of service (R43). -/
theorem withReady_disabled {x : Port} (off : x.enabled = false) (l : Level) :
    x.withReady l = { x with readyPin := l } := by
  unfold Port.withReady
  rw [off]
  rfl

theorem withReady_enabled {x : Port} (on : x.enabled = true) (l : Level) :
    x.withReady l = { x with readyPin := l, readyIn := l } := by
  unfold Port.withReady
  rw [on]
  rfl

theorem readyRises_disabled {t : Fin 8} (off : (s.port t).enabled = false) : readyRises t s
    = { s with ports := s.ports.set t { s.port t with readyPin := .high } } := by
  have moved : s.modPort t (fun p => p.withReady .high)
      = { s with ports := s.ports.set t { s.port t with readyPin := .high } } :=
    State.modPort_eq_withPort (withReady_disabled off .high)
  unfold readyRises
  dsimp only
  rw [if_neg (by rw [State.port_modPort_self, withReady_disabled off, off]; exact Bool.false_ne_true), moved]

theorem readyFalls_disabled {t : Fin 8} (off : (s.port t).enabled = false) : readyFalls t s
    = { s with ports := s.ports.set t { s.port t with readyPin := .low } } := by
  have moved : s.modPort t (fun p => p.withReady .low)
      = { s with ports := s.ports.set t { s.port t with readyPin := .low } } :=
    State.modPort_eq_withPort (withReady_disabled off .low)
  unfold readyFalls
  dsimp only
  rw [if_neg (by rw [State.port_modPort_self, withReady_disabled off, off]; exact Bool.false_ne_true), moved]

theorem readyRises_enabled {t : Fin 8} (on : (s.port t).enabled = true) : readyRises t s = settle { s with
    ports := s.ports.set t { s.port t with readyPin := .high, readyIn := .high }
    outlets := s.outlets.set (terminalOutlet t) { s.outlet (terminalOutlet t) with
      state := if (s.outlet (terminalOutlet t)).state = .stalled then .idle
        else (s.outlet (terminalOutlet t)).state } } := by
  have moved : s.modPort t (fun p => p.withReady .high)
      = { s with ports := s.ports.set t { s.port t with readyPin := .high, readyIn := .high } } :=
    State.modPort_eq_withPort (withReady_enabled on .high)
  unfold readyRises
  dsimp only
  rw [if_pos (by rw [State.port_modPort_self, withReady_enabled on, on]), moved]
  exact congrArg settle (State.modOutlet_eq (Outlet.unstalled_eq _))

theorem readyFalls_enabled {t : Fin 8} (on : (s.port t).enabled = true) : readyFalls t s = settle { s with
    ports := s.ports.set t { s.port t with readyPin := .low, readyIn := .low }
    outlets := s.outlets.set (terminalOutlet t) { s.outlet (terminalOutlet t) with
      state := if (s.outlet (terminalOutlet t)).state = .idle ∨ (s.outlet (terminalOutlet t)).state = .sending
        then .paused else (s.outlet (terminalOutlet t)).state } } := by
  have moved : s.modPort t (fun p => p.withReady .low)
      = { s with ports := s.ports.set t { s.port t with readyPin := .low, readyIn := .low } } :=
    State.modPort_eq_withPort (withReady_enabled on .low)
  unfold readyFalls
  dsimp only
  rw [if_pos (by rw [State.port_modPort_self, withReady_enabled on, on]), moved]
  exact congrArg settle (State.modOutlet_eq (Outlet.paused_eq _))

/-- The stalled outlet's records, over the cuts of its entries (R138). -/
def State.stalledOver (v : State) (t : Fin 8) : State :=
  { v with
    outlets := v.outlets.set (terminalOutlet t) (v.outlet (terminalOutlet t)).toStalled
    ports := v.ports.set t (v.port t).stalled
    notices := raisedNotices .destCut v.notices }

theorem stallOutlet_eq (t : Fin 8) (s : State) :
    stallOutlet t s = (cutOutlet (terminalOutlet t) .stall s).stalledOver t := by
  unfold stallOutlet
  dsimp only
  generalize cutOutlet (terminalOutlet t) .stall s = v
  rfl

/-- Settles O49: the ready input by the port, the stall by the cuts of its outlet's entries. -/
theorem readyInAndStallsMoveTheTerminalOutlet : Obligations.ReadyInAndStallsMoveTheTerminalOutlet := by
  intro s t x o y due free
  have isDue : s.stallDue t = true ↔ due := stallDue_iff s t
  rw [exec_readyInRises, exec_readyInFalls, exec_stall]
  refine ⟨fun off => ?disabled, fun on => ?enabled, fun early => ?early, fun late => ?stall⟩
  case disabled => rw [readyRises_disabled off, readyFalls_disabled off]; exact ⟨rfl, rfl⟩
  case enabled => rw [readyRises_enabled on, readyFalls_enabled on]; exact ⟨rfl, rfl⟩
  case early => rw [if_neg (mt isDue.1 early)]
  rw [if_pos (isDue.2 late)]
  have stalled := stallOutlet_eq t s
  have cleared : s.Cleared (cutOutlet o .stall s) o := cleared_cutOutlet rfl rfl o s
  have carried {k : Fin 48} {e : Entry} (mem : e ∈ (s.story k).entries) (onIt : e.outlet = o) :=
    cutOutlet_carried (why := .stall) rfl rfl mem onIt
  have dead (k : Fin 48) : ((cutOutlet o .stall s).story k).liveOn o = false := cutOutlet_dead k
  have others (k : Fin 48) (off : (s.story k).liveOn o = false) :=
    cutOutlet_dead_story (why := .stall) rfl rfl off
  have served (k : Fin 48) (on : (s.story k).liveOn o = true) := cutOutlet_served (why := .stall) rfl rfl on
  change stallOutlet t s = (cutOutlet o .stall s).stalledOver t at stalled
  generalize cutOutlet o .stall s = v at stalled cleared carried dead others served
  generalize stallOutlet t s = u at stalled
  have outlet (j : Fin 24) : u.outlet j = if j = o then (v.outlet o).toStalled else v.outlet j := by
    rw [stalled]
    exact State.get_set ..
  have port (j : Fin 8) : u.port j = if j = t then (v.port t).stalled else v.port j := by
    rw [stalled]
    exact State.get_set ..
  have story (k : Fin 48) : u.story k = v.story k := by
    rw [stalled]
    rfl
  have framer (src : Source) : framerOf src u = framerOf src v := by
    rw [stalled]
    rfl
  have flags (f : Flag) : u.flagSet f = (v.flagSet f || decide (f = .destCut)) := by
    rw [stalled]
    exact flags_raisedNotices ..
  refine ⟨u, rfl, fun k e mem onIt live => ?_, fun k => ?_, fun k off => ?_, fun quiet k on => ?_, ?outlet,
    fun j other => ?outlets, ?reply, ?setting, ?sending, fun quiet => ?port, fun j other => ?ports, ?cut,
    fun f notCut notClosed => ?flags, ?frame, fun c => ⟨?circuit, ?line⟩⟩
  · rw [story]
    exact carried mem onIt live
  · rw [story]
    exact dead k
  · rw [story]
    exact others k off
  · rw [story]
    exact served k on fun p _ => quiet p
  case outlet =>
    rw [outlet, if_pos rfl, cleared.outlet]
    rfl
  case outlets => rw [outlet, if_neg other, cleared.outlets j other]
  case reply =>
    rw [port, if_pos rfl]
    rfl
  case setting =>
    rw [port, if_pos rfl]
    exact (cleared.ports t).1.setting
  case sending =>
    rw [port, if_pos rfl]
    exact congrArg (Option.map fun z : PortChar => { z with orphan := true }) (cleared.ports t).2.1
  case port =>
    rw [port, if_pos rfl, ((cleared.ports t).2.2 (quiet t)).1]
    rfl
  case ports =>
    rw [port, if_neg other, framer]
    exact cleared.ports j
  case cut => rw [flags, decide_eq_true rfl, Bool.or_true]
  case flags => rw [flags, decide_eq_false notCut, Bool.or_false, cleared.flags f notClosed]
  case frame =>
    rw [stalled]
    unfold State.stalledOver
    rw [cleared.frame]
  case circuit =>
    rw [stalled]
    exact cleared.circuits c fun same => lineOutlet_ne_terminalOutlet c t same
  case line =>
    rw [framer]
    exact cleared.framers c

end Sys2Proof.Machine

/-! PROOF. The live stories of a source that leaves service (R93). -/

namespace Sys2Proof.Machine

variable {s t u v w : State} {k : Fin 48} {src : Source} {o : Fin 24}

/-- The reason a story's lost source gives an entry (R93). -/
def lossReason (src : Source) (o : Fin 24) : CutReason := if o = src.index then .outletLost else .killed

theorem lossReason_unflagged (src : Source) (o : Fin 24) : (lossReason src o).flagged = false := by
  unfold lossReason
  split_ifs <;> rfl

/-- A slot holds a live story of a source. -/
def State.OwnLive (s : State) (src : Source) (k : Fin 48) : Prop :=
  (s.story k).source = src ∧ (s.story k).state.live = true

/-- A story that has lost its source (R93). -/
def Story.lost (x : Story) (clock : Nat) : Story :=
  (x.cutAll x.liveOutlets (lossReason x.source)).shut .sourceLost clock

theorem loseStory_eq (k : Fin 48) (s : State) : loseStory k s
    = (closeCut k (lossReason (s.story k).source) .sourceLost s).raise .storyClosed := rfl

/-- What the loss of a source has done once some slots have been looked at. -/
structure State.Lost (s v : State) (src : Source) (done : List (Fin 48)) : Prop where
  frame : v = { s with
    circuits := v.circuits, stories := v.stories, outlets := v.outlets, notices := v.notices }
  own : ∀ k ∈ done, s.OwnLive src k → v.story k = (s.story k).lost s.regs.clock
  others : ∀ k, ¬(k ∈ done ∧ s.OwnLive src k) → v.story k = s.story k
  outlets : ∀ o, v.outlet o = { s.outlet o with
    holder := (v.outlet o).holder, waiting := (v.outlet o).waiting, owed := (v.outlet o).owed }
  untouched : ∀ o, (∀ k ∈ done, s.OwnLive src k → (s.story k).liveOn o = false) → v.outlet o = s.outlet o
  items : ∀ k ∈ done, ∀ o, s.OwnLive src k → (s.story k).liveOn o = true → o ≠ src.index →
    k ∉ (v.outlet o).waiting ∧ (v.outlet o).holder ≠ some k
      ∧ ((s.outlet o).state.takesItems = true → ⟨.kill, k⟩ ∈ (v.outlet o).owed)
  circuits : ∀ c, src ≠ .circuit c →
    ∀ [Decidable ((∃ k ∈ done, s.OwnLive src k ∧ (s.story k).liveOn (lineOutlet c) = true) ∧ v.AtQuietPoint c)],
    v.circuit c = if (∃ k ∈ done, s.OwnLive src k ∧ (s.story k).liveOn (lineOutlet c) = true) ∧ v.AtQuietPoint c
      then (s.circuit c).quieted else s.circuit c
  itself : ∀ c, v.circuit c = s.circuit c ∨ v.circuit c = (s.circuit c).quieted
  flags : ∀ f, f ≠ .storyClosed → v.flagSet f = s.flagSet f
  closed : (∃ k ∈ done, s.OwnLive src k) ∨ s.flagSet .storyClosed = true → v.flagSet .storyClosed = true
  enables : v.notices.enables = s.notices.enables

namespace State.Lost

theorem nil (s : State) (src : Source) : s.Lost s src [] where
  frame := rfl
  own _ mem := absurd mem List.not_mem_nil
  others _ _ := rfl
  outlets _ := rfl
  untouched _ _ := rfl
  items _ mem := absurd mem List.not_mem_nil
  circuits _ _ _ := (if_neg fun ⟨⟨_, mem, _⟩, _⟩ => List.not_mem_nil mem).symm
  itself _ := .inl rfl
  flags _ _ := rfl
  closed h := h.elim (fun ⟨_, mem, _⟩ => absurd mem List.not_mem_nil) id
  enables := rfl

/-- A slot that holds no live story of the source is passed over. -/
theorem skip {done : List (Fin 48)} (h : s.Lost v src done) (idle : k ∈ done ∨ ¬s.OwnLive src k) :
    s.Lost v src (done ++ [k]) := by
  have mem (j : Fin 48) : j ∈ done ++ [k] ∧ s.OwnLive src j ↔ j ∈ done ∧ s.OwnLive src j := by
    rw [List.mem_append, List.mem_singleton]
    refine ⟨fun ⟨there, own⟩ => ⟨there.elim id fun same => ?_, own⟩, fun ⟨there, own⟩ => ⟨.inl there, own⟩⟩
    subst same
    exact idle.resolve_right fun not => not own
  have some_ (Q : Fin 48 → Prop) : (∃ j ∈ done ++ [k], s.OwnLive src j ∧ Q j) ↔ ∃ j ∈ done, s.OwnLive src j ∧ Q j :=
    exists_congr fun j => by rw [← and_assoc, mem j, and_assoc]
  refine ⟨h.frame, fun j there own => h.own j ((mem j).1 ⟨there, own⟩).1 own, fun j out => ?_, h.outlets,
    fun o none_ => h.untouched o fun j there own => none_ j ((mem j).2 ⟨there, own⟩).1 own,
    fun j there o own => h.items j ((mem j).1 ⟨there, own⟩).1 o own, fun c other _ => ?_, h.itself, h.flags,
    fun or_ => h.closed (or_.imp (fun ⟨j, there, own⟩ => ⟨j, ((mem j).1 ⟨there, own⟩).1, own⟩) id), h.enables⟩
  · exact h.others j (mt (mem j).2 out)
  · classical
    rw [h.circuits c other]
    exact if_congr (and_congr_left fun _ => (some_ _).symm) rfl rfl

theorem mem_addItem_other {i j : OwedItem} {l : List OwedItem} (mem : i ∈ l) (other : i.slot ≠ j.slot) :
    i ∈ addItem j l := by
  unfold addItem
  split_ifs
  · exact List.mem_map.2 ⟨i, mem, if_neg other⟩
  · exact List.mem_append_left _ mem

theorem mem_addItem_self (i : OwedItem) (l : List OwedItem) : i ∈ addItem i l := by
  unfold addItem
  split_ifs with held
  · obtain ⟨j, mem, same⟩ := List.any_eq_true.1 held
    exact List.mem_map.2 ⟨j, mem, if_pos (of_decide_eq_true same)⟩
  · exact List.mem_append_right _ List.mem_cons_self

/-- A live story of the source is lost. -/
theorem lose {done : List (Fin 48)} (h : s.Lost v src done) (new : k ∉ done) (isOwn : s.OwnLive src k) :
    s.Lost (loseStory k v) src (done ++ [k]) := by
  classical
  obtain ⟨frame, own, others, outlets, untouched, items, circuits, itself, flags, closed, enables⟩ := h
  have story : v.story k = s.story k := others k fun both => new both.1
  have cut := closeCut_cutClosed k (lossReason (v.story k).source) .sourceLost v
  rw [loseStory_eq]
  generalize closeCut k (lossReason (v.story k).source) .sourceLost v = w at cut
  rw [story, isOwn.1] at cut
  obtain ⟨wFrame, wStory, wOthers, wOutlets, wNotices, wCircuits⟩ := cut
  rw [story] at wStory wOutlets wNotices wCircuits
  have clock : v.regs.clock = s.regs.clock := by rw [frame]
  have notices : w.notices = v.notices := wNotices fun o _ => lossReason_unflagged src o
  have isLive := isOwn.2
  have lostStory : w.story k = (s.story k).lost s.regs.clock := by
    rw [wStory, clock, ← isOwn.1]
    rfl
  have flag (f : Flag) : (w.raise .storyClosed).flagSet f = (v.flagSet f || decide (f = .storyClosed)) := by
    refine (flags_raisedNotices .storyClosed f w.notices).trans ?_
    rw [notices]
    rfl
  have last : k ∈ done ++ [k] := by simp
  refine
    { frame := ?frame
      own := fun j mem ownJ => ?own
      others := fun j out => ?others
      outlets := fun o => ?outlets
      untouched := fun o none_ => ?untouched
      items := fun j mem o ownJ on other => ?items
      circuits := fun c other _ => ?circuits
      itself := fun c => ?itself
      flags := fun f other => ?flags
      closed := fun _ => ?closed
      enables := ?enables }
  case frame =>
    rw [wFrame, frame]
    rfl
  case own =>
    by_cases here : j = k
    · rw [here]
      exact lostStory
    · refine (wOthers j here).trans (own j ?_ ownJ)
      simpa [here] using mem
  case others =>
    have here : j ≠ k := fun same => out (by rw [same]; exact ⟨last, isOwn⟩)
    refine (wOthers j here).trans (others j fun both => out ⟨List.mem_append_left _ both.1, both.2⟩)
  case outlets =>
    change w.outlet o = { s.outlet o with
      holder := (w.outlet o).holder, waiting := (w.outlet o).waiting, owed := (w.outlet o).owed }
    rw [wOutlets o]
    split_ifs
    · rw [outlets o]
      rfl
    · exact outlets o
  case untouched =>
    have off : (s.story k).liveOn o = false := none_ k last isOwn
    refine (wOutlets o).trans ((if_neg (by rw [off]; exact Bool.false_ne_true)).trans ?_)
    exact untouched o fun j mem => none_ j (List.mem_append_left _ mem)
  case items =>
    change j ∉ (w.outlet o).waiting ∧ (w.outlet o).holder ≠ some j
      ∧ ((s.outlet o).state.takesItems = true → _ ∈ (w.outlet o).owed)
    have state : (v.outlet o).state = (s.outlet o).state := (congrArg Outlet.state (outlets o)).trans rfl
    have killed : lossReason src o = .killed := if_neg other
    rw [wOutlets o]
    by_cases here : j = k
    · subst here
      rw [if_pos on, killed]
      refine ⟨fun waits => ?_, fun holds => ?_, fun takes => ?_⟩
      · exact absurd rfl (of_decide_eq_true (List.mem_filter.1 waits).2)
      · have holder : (if (v.outlet o).holder = some j then none else (v.outlet o).holder) = some j := holds
        split_ifs at holder with was
        exact was holder
      · have owed : ((v.outlet o).cutOff j .killed).owed = addItem ⟨.kill, j⟩ (v.outlet o).owed :=
          if_pos (state ▸ takes)
        rw [owed]
        exact mem_addItem_self ..
    · obtain ⟨notWaits, notHolds, owes⟩ := items j (by simpa [here] using mem) o ownJ on other
      split_ifs
      · rw [killed]
        refine ⟨fun waits => notWaits (List.mem_filter.1 waits).1, fun holds => ?_, fun takes => ?_⟩
        · have holder : (if (v.outlet o).holder = some k then none else (v.outlet o).holder) = some j := holds
          split_ifs at holder
          exact notHolds holder
        · have owed : ((v.outlet o).cutOff k .killed).owed = addItem ⟨.kill, k⟩ (v.outlet o).owed :=
            if_pos (state ▸ takes)
          rw [owed]
          exact mem_addItem_other (owes takes) here
      · exact ⟨notWaits, notHolds, owes⟩
  case circuits =>
    have raised : (w.raise .storyClosed).circuit c = w.circuit c := rfl
    have sameQuiet : (w.raise .storyClosed).AtQuietPoint c ↔ w.AtQuietPoint c := Iff.rfl
    rw [raised]
    simp only [sameQuiet]
    have more : (∃ j ∈ done ++ [k], s.OwnLive src j ∧ (s.story j).liveOn (lineOutlet c) = true)
        ↔ (∃ j ∈ done, s.OwnLive src j ∧ (s.story j).liveOn (lineOutlet c) = true)
          ∨ (s.story k).liveOn (lineOutlet c) = true := by
      simp only [List.mem_append, List.mem_singleton, or_and_right, exists_or, exists_eq_left, isOwn, true_and]
    rw [wCircuits c, circuits c other]
    simp only [more]
    by_cases here : (s.story k).liveOn (lineOutlet c) = true
    · have notYet : ¬v.AtQuietPoint c := fun still => by
        have off := still.2 k
        rw [story, here] at off
        exact Bool.noConfusion off
      simp only [here, notYet, and_false, if_false, or_true, true_and]
    · have quiet : w.AtQuietPoint c ↔ v.AtQuietPoint c := by
        have off : (w.story k).liveOn (lineOutlet c) = false := by
          rw [lostStory, Bool.eq_false_iff]
          exact fun live => here ((Story.liveOn_cutAll _ _).1 live).1
        have source : (w.story k).source = src := by
          rw [lostStory]
          exact isOwn.1
        refine and_congr (forall_congr' fun j => ?_) (forall_congr' fun j => ?_)
        · by_cases same : j = k
          · rw [same, source, story, isOwn.1]
            exact ⟨fun _ own => absurd own other, fun _ own => absurd own other⟩
          · rw [wOthers j same]
        · by_cases same : j = k
          · rw [same, off, story, Bool.eq_false_iff.2 here]
          · rw [wOthers j same]
      simp only [here, Bool.false_eq_true, false_and, if_false, or_false, quiet]
  case itself =>
    change w.circuit c = _ ∨ w.circuit c = _
    rw [wCircuits c]
    rcases itself c with same | same <;> rw [same] <;> split_ifs
    · exact .inr rfl
    · exact .inl rfl
    · exact .inr (Circuit.quieted_quieted _)
    · exact .inr rfl
  case flags => rw [flag, decide_eq_false other, Bool.or_false, flags f other]
  case closed => rw [flag, decide_eq_true rfl, Bool.or_true]
  case enables =>
    have same : (w.raise .storyClosed).notices.enables = w.notices.enables := rfl
    rw [same, notices, enables]

/-- The loss of a source, slot by slot. -/
theorem of_forEach (s : State) (src : Source) {l : List (Fin 48)} (nodup : l.Nodup) :
    s.Lost (forEach l (fun k t => if (t.story k).source = src ∧ (t.story k).state.live = true
      then loseStory k t else t) s) src l := by
  induction l using List.reverseRecOn with
  | nil => exact nil s src
  | append_singleton l k ih =>
    obtain ⟨nodupL, _, apart⟩ := List.nodup_append.1 nodup
    have new : k ∉ l := fun mem => apart k mem k List.mem_cons_self rfl
    have before := ih nodupL
    have step : forEach (l ++ [k]) (fun k t => if (t.story k).source = src ∧ (t.story k).state.live = true
        then loseStory k t else t) s
        = (fun t => if (t.story k).source = src ∧ (t.story k).state.live = true then loseStory k t else t)
          (forEach l (fun k t => if (t.story k).source = src ∧ (t.story k).state.live = true
            then loseStory k t else t) s) := by
      unfold Machine.forEach
      rw [List.foldl_append]
      rfl
    rw [step]
    generalize Machine.forEach l (fun k t => if (t.story k).source = src ∧ (t.story k).state.live = true
      then loseStory k t else t) s = v at before
    have same : v.story k = s.story k := before.others k fun both => new both.1
    dsimp only
    rw [same]
    split_ifs with isOwn
    · exact before.lose new isOwn
    · exact before.skip (.inr isOwn)

end State.Lost

theorem loseSource_lost (src : Source) (s : State) :
    ∃ v, s.Lost v src allSlots ∧ loseSource src s = v.withFramer src {} :=
  ⟨_, State.Lost.of_forEach s src (List.nodup_finRange 48), rfl⟩

end Sys2Proof.Machine

/-! PROOF. A source and its outlet out of service (R3, R47, R93, R94, R118). -/

namespace Sys2Proof.Machine

variable {s t u v w : State} {k : Fin 48} {src : Source} {o : Fin 24}

/-- A source's own outlet. -/
def Source.outlet : Source → Fin 24
  | .circuit c => lineOutlet c
  | .terminal p => terminalOutlet p

theorem Source.outlet_eq (src : Source) : src.outlet = src.index := by cases src <;> rfl

theorem lineOutlet_eq_index {c : Fin 16} : lineOutlet c = src.index ↔ src = .circuit c := by
  refine ⟨fun same => (index_inj (a := .circuit c) same).symm, fun same => ?_⟩
  rw [same]
  rfl

theorem clearFill_frame (o : Fin 24) (s : State) : clearFill o s = { s with controls := (clearFill o s).controls } := by
  rcases line_or_terminal o with ⟨c, rfl⟩ | ⟨p, rfl⟩
  · unfold clearFill
    rw [outletCircuit_line]
    rfl
  · unfold clearFill
    rw [outletCircuit_terminal]

theorem control_clearFill (c d : Fin 16) (s : State) : (clearFill (lineOutlet c) s).control d
    = if d = c then { s.control c with fillOwed := false } else s.control d := by
  unfold clearFill
  rw [outletCircuit_line]
  exact State.get_set ..

theorem clearFill_terminal (p : Fin 8) (s : State) : clearFill (terminalOutlet p) s = s := by
  unfold clearFill
  rw [outletCircuit_terminal]

/-- A source and its own outlet out of service, without what its circuit or port does besides. -/
def withdrawSource (src : Source) (s : State) : State := outletOff src.index (loseSource src s)

/-- What the steps of a withdrawal leave, each with its relation to the one before. -/
structure State.Withdrawn (s t : State) (src : Source) (v a b : State) : Prop where
  lost : s.Lost v src allSlots
  reset : a = v.withFramer src {}
  cut : b = cutOutlet src.index .outletLost a
  cleared : a.Cleared b src.index
  off : t = { b with
    outlets := b.outlets.set src.index (b.outlet src.index).toOff, controls := t.controls }
  control : ∀ c, src ≠ .circuit c → t.control c = s.control c
  itself : ∀ c, src = .circuit c → t.control c = { s.control c with fillOwed := false }

theorem withdrawSource_withdrawn (src : Source) (s : State) :
    ∃ v a b, s.Withdrawn (withdrawSource src s) src v a b := by
  obtain ⟨v, lost, eq⟩ := loseSource_lost src s
  obtain ⟨b, cut⟩ : ∃ b, b = cutOutlet src.index .outletLost (v.withFramer src {}) := ⟨_, rfl⟩
  have cleared : (v.withFramer src {}).Cleared b src.index := by
    rw [cut]
    exact cleared_cutOutlet rfl rfl ..
  have isOff : withdrawSource src s = clearFill src.index
      (b.withOutlet src.index (b.outlet src.index).toOff) := by
    unfold withdrawSource
    rw [eq, cut]
    rfl
  have controls : b.controls = s.controls := by
    rw [cleared.frame, lost.frame]
    rfl
  have control (c : Fin 16) : b.control c = s.control c := congrArg (fun w => w.get c) controls
  refine ⟨v, _, b, lost, rfl, cut, cleared, ?_, fun c other => ?_, fun c own => ?_⟩
  · rw [isOff, clearFill_frame]
    rfl
  · rw [isOff]
    cases src with
    | circuit d =>
      have apart : c ≠ d := fun same => other (congrArg Source.circuit same.symm)
      exact (control_clearFill d c _).trans ((if_neg apart).trans (control c))
    | terminal p =>
      have still := clearFill_terminal p (b.withOutlet (terminalOutlet p) (b.outlet (terminalOutlet p)).toOff)
      exact (congrArg (fun w => State.control w c) still).trans (control c)
  · subst own
    rw [isOff]
    refine (control_clearFill c c _).trans ((if_pos rfl).trans ?_)
    exact congrArg (fun z : Control => { z with fillOwed := false }) (control c)

/-- What a withdrawn source leaves (R3, R47, R93, R94, R118). -/
theorem State.Withdrawn.leftService {v a b : State} (h : s.Withdrawn t src v a b) : s.LeftService t src [] := by
  classical
  obtain ⟨lost, reset, cut, cleared, off, control, _⟩ := h
  have story (k : Fin 48) : t.story k = b.story k := by rw [off]; rfl
  have aStory (k : Fin 48) : a.story k = v.story k := by rw [reset]; rfl
  have outlet (o : Fin 24) : t.outlet o = if o = src.index then (b.outlet src.index).toOff else b.outlet o := by
    rw [off]
    exact State.get_set ..
  have aOutlet (o : Fin 24) : a.outlet o = v.outlet o := by rw [reset]; rfl
  have framer (x : Source) : framerOf x t = framerOf x b := by rw [off]; rfl
  have aFramer (x : Source) : framerOf x a = if x = src then {} else framerOf x s := by
    rw [reset, framerOf_withFramer_ite, lost.frame]
    rfl
  have clock : a.regs.clock = s.regs.clock := by
    rw [reset, lost.frame]
    rfl
  have mem (k : Fin 48) : k ∈ allSlots := List.mem_finRange k
  have ownStory (k : Fin 48) (own : s.OwnLive src k) : t.story k = (s.story k).lost s.regs.clock := by
    have isLost : a.story k = (s.story k).lost s.regs.clock := (aStory k).trans (lost.own k (mem k) own)
    have dead : (a.story k).liveOn src.index = false := by
      rw [isLost, Bool.eq_false_iff]
      intro live
      obtain ⟨before, out⟩ := (Story.liveOn_cutAll _ _).1 live
      exact out (mem_liveOutlets.2 before)
    rw [story, cut, cutOutlet_dead_story rfl rfl dead, isLost]
  have otherStory (k : Fin 48) (notOwn : (s.story k).source = src → (s.story k).state.live = false) :
      a.story k = s.story k := by
    refine (aStory k).trans (lost.others k fun both => ?_)
    exact Bool.noConfusion ((notOwn both.2.1).symm.trans both.2.2)
  refine
    { framer := ?framer
      own := fun k source live => ?own
      cuts := fun k source live ascending => ?cuts
      carried := fun k notOwn e inside onIt live => ?carried
      others := fun k notOwn off => ?others
      served := fun k notOwn on none_ => ?served
      off := ?off
      items := fun k o source live on other => ?items
      outlets := fun o other => ?outlets
      untouched := fun o other none_ => ?untouched
      framers := fun c other => ?framers
      circuits := fun c other => ?circuits
      ports := fun p other => ?ports
      controls := fun c other => control c other.symm
      parsers := fun p _ => ?parsers
      kept := ?kept
      flags := fun f other => ?flags
      closed := fun or_ => ?closed }
  case framer =>
    rw [framer]
    cases src with
    | circuit c => exact (cleared.framers c).trans ((aFramer _).trans (if_pos rfl))
    | terminal p =>
      have empty : framerOf (.terminal p) a = {} := (aFramer _).trans (if_pos rfl)
      rw [((cleared.ports p).2.2 (by rw [empty])).2, empty]
  case own =>
    have final := ownStory k ⟨source, live⟩
    have entries : (t.story k).entries = ((s.story k).lost s.regs.clock).entries := congrArg Story.entries final
    rw [entries, final]
    rfl
  case cuts =>
    refine (congrArg Story.entries (ownStory k ⟨source, live⟩)).trans ?_
    refine (liveEntries_cut (why := lossReason (s.story k).source) ascending).trans ?_
    rw [source]
    rfl
  case carried =>
    rw [story, cut, ← otherStory k notOwn]
    exact cutOutlet_carried rfl rfl (by rw [otherStory k notOwn]; exact inside) onIt live
  case others =>
    have same := otherStory k notOwn
    rw [story, cut, cutOutlet_dead_story rfl rfl (by rw [same]; exact off), same]
  case served =>
    have same := otherStory k notOwn
    rw [story, cut, cutOutlet_served rfl rfl (by rw [same]; exact on) ?_, same, clock]
    · rfl
    · intro p source
      rw [aFramer]
      split_ifs
      · rfl
      · exact none_ p (same ▸ source)
  case off =>
    rw [outlet, if_pos rfl, cleared.outlet, aOutlet, lost.outlets]
    rfl
  case items =>
    rw [outlet, if_neg other, cleared.outlets o other, aOutlet]
    exact lost.items k (mem k) o ⟨source, live⟩ on other
  case outlets =>
    rw [outlet, if_neg other, cleared.outlets o other, aOutlet]
    exact lost.outlets o
  case untouched =>
    rw [outlet, if_neg other, cleared.outlets o other, aOutlet]
    exact lost.untouched o fun k _ own => none_ k own.1 own.2
  case framers =>
    rw [framer, cleared.framers, aFramer, if_neg other]
  case circuits =>
    have apart : lineOutlet c ≠ src.index := fun same => other (lineOutlet_eq_index.1 same).symm
    have same : t.circuit c = v.circuit c := by
      have first : t.circuit c = b.circuit c := by rw [off]; rfl
      have then_ : a.circuit c = v.circuit c := by rw [reset]; rfl
      rw [first, cleared.circuits c apart, then_]
    have quiet : t.AtQuietPoint c ↔ v.AtQuietPoint c := by
      refine and_congr (forall_congr' fun k => ?_) (forall_congr' fun k => ?_)
      · rw [story, cleared.source, aStory]
        refine imp_congr_right fun line => ?_
        rw [cleared.live k (by rw [aStory, line]; rfl), aStory]
      · rw [story, cleared.carried k _ apart, aStory]
    have tested := lost.circuits c (Ne.symm other)
    rw [← same] at tested
    simp only [← quiet, mem, true_and] at tested
    have clauses := quieted_clauses tested
    simp only [State.OwnLive, and_assoc] at clauses
    exact clauses
  case ports =>
    have port : a.port p = s.port p := by
      rw [reset, lost.frame]
      rfl
    have portT : t.port p = b.port p := by rw [off]; rfl
    have framerA : framerOf (.terminal p) a = framerOf (.terminal p) s := (aFramer _).trans (if_neg other)
    have kept := cleared.ports p
    rw [port, framerA, ← portT, ← framer] at kept
    exact kept
  case parsers =>
    rw [off, cleared.frame, reset, lost.frame]
    rfl
  case kept =>
    have enables : t.notices.enables = s.notices.enables := by
      have first : t.notices = b.notices := by rw [off]
      have then_ : a.notices = v.notices := by rw [reset]; rfl
      rw [first, cleared.enables, then_, lost.enables]
    refine ⟨?_, ?_, ?_, ?_, ?_, ?_, enables⟩
    all_goals
      rw [off, cleared.frame, reset, lost.frame]
      rfl
  case flags =>
    have first : t.flagSet f = b.flagSet f := by rw [off]; rfl
    have then_ : a.flagSet f = v.flagSet f := by rw [reset]; rfl
    rw [first, cleared.flags f other, then_, lost.flags f other]
    simp
  case closed =>
    have first : t.flagSet .storyClosed = b.flagSet .storyClosed := by rw [off]; rfl
    rw [first]
    refine cleared.closed ?_
    have then_ : a.flagSet .storyClosed = v.flagSet .storyClosed := by rw [reset]; rfl
    rw [then_]
    exact lost.closed (or_.imp (fun ⟨k, own⟩ => ⟨k, mem k, own⟩) id)

end Sys2Proof.Machine

/-! PROOF. Circuits closed, lost and restored, and ports disabled (R3 to R6, R24, R44 to R47, R153). -/

namespace Sys2Proof.Machine

variable {s t u v w a b : State} {k : Fin 48} {src : Source} {o : Fin 24} {c : Fin 16} {p : Fin 8}

/-! ## The circuit and the port of a withdrawn source -/

namespace State.Withdrawn

theorem frame (h : s.Withdrawn t src v a b) : t = { s with
    circuits := t.circuits, ports := t.ports, framers := t.framers, stories := t.stories
    outlets := t.outlets, controls := t.controls, notices := t.notices } := by
  rw [h.off, h.cleared.frame, h.reset, h.lost.frame]
  rfl

theorem circuit (h : s.Withdrawn t (.circuit c) v a b) :
    t.circuit c = s.circuit c ∨ t.circuit c = (s.circuit c).quieted := by
  have first : t.circuit c = b.circuit c := by rw [h.off]; rfl
  have then_ : a.circuit c = v.circuit c := by rw [h.reset]; rfl
  rw [first]
  rcases h.cleared.tested c rfl with later | later <;> rcases h.lost.itself c with before | before
  · exact .inl (later.trans (then_.trans before))
  · exact .inr (later.trans (then_.trans before))
  · exact .inr (later.trans (by rw [then_, before]))
  · exact .inr (later.trans (by rw [then_, before, Circuit.quieted_quieted]))

/-- A circuit out of service is at its quiet point. -/
theorem quiet (h : s.Withdrawn t (.circuit c) v a b) : t.AtQuietPoint c := by
  have story (k : Fin 48) : t.story k = b.story k := by rw [h.off]; rfl
  have aStory (k : Fin 48) : a.story k = v.story k := by rw [h.reset]; rfl
  refine ⟨fun k source => ?_, fun k => ?_⟩
  · rw [story, h.cleared.source, aStory] at source
    rw [story, h.cleared.live k (by rw [aStory, source]; rfl), aStory]
    by_cases own : s.OwnLive (.circuit c) k
    · rw [h.lost.own k (List.mem_finRange k) own]
      rfl
    · have same : v.story k = s.story k := h.lost.others k fun both => own both.2
      rw [same] at source ⊢
      exact Bool.eq_false_iff.2 fun live => own ⟨source, live⟩
  · rw [story, h.cut]
    exact cutOutlet_dead k

theorem port (h : s.Withdrawn t (.terminal p) v a b) : t.port p = s.port p := by
  have first : t.port p = b.port p := by rw [h.off]; rfl
  have then_ : a.port p = s.port p := by
    rw [h.reset, h.lost.frame]
    rfl
  have empty : framerOf (.terminal p) a = {} := by
    rw [h.reset]
    exact framerOf_withFramer ..
  rw [first, ((h.cleared.ports p).2.2 (by rw [empty])).1, then_]

end State.Withdrawn

/-! ## Around a withdrawal -/

/-- A withdrawal with the records that its circuit or port moves before and after it. -/
theorem State.LeftService.around {cs ct : Vector Circuit 16} {ps : Vector Port 8} {rs : Vector Parser 8}
    {zs : Vector Control 16} {ns nt : Notices} {raised : List Flag}
    (h : ({ s with circuits := cs, notices := ns } : State).LeftService t src [])
    (circuits : ∀ c, .circuit c ≠ src → cs.get c = s.circuit c ∧ ct.get c = t.circuit c ∧ zs.get c = t.control c)
    (ports : ∀ p, .terminal p ≠ src → ps.get p = t.port p ∧ rs.get p = t.parser p)
    (flags : ∀ f, f ≠ .storyClosed → (∀ f, f ≠ .storyClosed → t.flagSet f = ns.flags.getLsbD f.bit) →
      nt.flags.getLsbD f.bit = (s.flagSet f || decide (f ∈ raised)))
    (closed : (s.flagSet .storyClosed = true → ns.flags.getLsbD Flag.storyClosed.bit = true)
      ∧ (t.flagSet .storyClosed = true → nt.flags.getLsbD Flag.storyClosed.bit = true))
    (enables : t.notices.enables = ns.enables → nt.enables = s.notices.enables) :
    s.LeftService { t with circuits := ct, ports := ps, parsers := rs, controls := zs, notices := nt } src raised := by
  have kept := h.kept
  have plain (f : Flag) (other : f ≠ .storyClosed) : t.flagSet f = ns.flags.getLsbD f.bit :=
    (h.flags f other).trans (by simp [State.flagSet])
  exact
    { framer := h.framer
      own := h.own
      cuts := h.cuts
      carried := h.carried
      others := h.others
      served := h.served
      off := h.off
      items := h.items
      outlets := h.outlets
      untouched := h.untouched
      framers := h.framers
      circuits := fun c other => by
        obtain ⟨before, after, _⟩ := circuits c other
        obtain ⟨due, still⟩ := h.circuits c other
        exact ⟨fun on quiet cfg pending => after.trans ((due on quiet cfg
            ((congrArg Circuit.pendingConfig before).trans pending)).trans
              (congrArg (fun x : Circuit => x.configured cfg) before)),
          fun off => after.trans ((still (off.imp id (Or.imp id fun none_ =>
            (congrArg Circuit.pendingConfig before).trans none_))).trans before)⟩
      ports := fun p other => by
        obtain ⟨port, _⟩ := ports p other
        have served := h.ports p other
        change (s.port p).Reacted (ps.get p) ∧ (ps.get p).sending = (s.port p).sending
          ∧ ((framerOf (.terminal p) s).outstanding = none → ps.get p = s.port p
            ∧ framerOf (.terminal p) t = framerOf (.terminal p) s)
        rw [port]
        exact served
      controls := fun c other => (circuits c other).2.2.trans (h.controls c other)
      parsers := fun p other => (ports p other).2.trans (h.parsers p other)
      kept := ⟨kept.1, kept.2.1, kept.2.2.1, kept.2.2.2.1, kept.2.2.2.2.1, kept.2.2.2.2.2.1,
        enables kept.2.2.2.2.2.2⟩
      flags := fun f other => flags f other plain
      closed := fun or_ => closed.2 (h.closed (or_.imp id closed.1)) }

/-! ## A circuit out of service -/

theorem leaveService_eq (c : Fin 16) (s : State) : leaveService c s
    = quietTest c ((withdrawSource (.circuit c) s).modControl c (fun x => x.motorStop)) := rfl

/-- A circuit record that was never at its quiet point while it left service, tested at the end. -/
theorem circuit_leaveService (h : s.Withdrawn t (.circuit c) v a b) (f : Control → Control) (d : Fin 16) :
    let u := quietTest c (t.modControl c f)
    u = { t with circuits := u.circuits, controls := u.controls }
    ∧ u.circuit d = (if d = c then (s.circuit c).quieted else t.circuit d)
    ∧ u.control d = if d = c then f (t.control c) else t.control d := by
  classical
  intro u
  have frame : u = { t.modControl c f with circuits := u.circuits } := quietTest_frame ..
  refine ⟨?_, ?_, ?_⟩
  · rw [frame]
    rfl
  · have tested : u.circuit d = if d = c ∧ (t.modControl c f).AtQuietPoint d
        then (t.circuit d).quieted else t.circuit d := circuit_quietTest ..
    rw [tested]
    by_cases here : d = c
    · subst here
      rw [if_pos ⟨rfl, h.quiet⟩, if_pos rfl]
      rcases h.circuit with same | same
      · rw [same]
      · rw [same, Circuit.quieted_quieted]
    · rw [if_neg fun both => here both.1, if_neg here]
  · rw [frame]
    exact State.get_set ..

/-- A circuit that leaves service with its record already in the new state: what its outlet and its stories
leave, and its own records. -/
theorem leaveService_leftService (x : Circuit) (ns : Notices) (s : State) (c : Fin 16) :
    ∃ t, ({ s with circuits := s.circuits.set c x, notices := ns } : State).LeftService t (.circuit c) []
      ∧ let u := leaveService c { s with circuits := s.circuits.set c x, notices := ns }
        u = { t with circuits := u.circuits, controls := u.controls }
        ∧ u.circuit c = x.quieted
        ∧ u.control c = { s.control c with motor := .off, motorCount := 0, motorTarget := 0, fillOwed := false }
        ∧ ∀ d, d ≠ c → u.circuit d = t.circuit d ∧ u.control d = t.control d := by
  obtain ⟨v, a, b, withdrawn⟩ := withdrawSource_withdrawn (.circuit c)
    { s with circuits := s.circuits.set c x, notices := ns }
  rw [leaveService_eq]
  generalize withdrawSource (.circuit c) { s with circuits := s.circuits.set c x, notices := ns } = t at withdrawn
  refine ⟨t, withdrawn.leftService, ?_⟩
  have parts (d : Fin 16) := circuit_leaveService withdrawn (fun x => x.motorStop) d
  refine ⟨(parts c).1, ?_, ?_, fun d other => ⟨?_, ?_⟩⟩
  · rw [(parts c).2.1, if_pos rfl]
    exact congrArg Circuit.quieted ((State.get_set ..).trans (if_pos rfl))
  · rw [(parts c).2.2, if_pos rfl, withdrawn.itself c rfl]
    rfl
  · rw [(parts d).2.1, if_neg other]
  · rw [(parts d).2.2, if_neg other]

/-- The same, around which the control unit and the flags may move besides. -/
theorem leftService_circuit {x : Circuit} {ns nt : Notices} {zs : Vector Control 16} {raised : List Flag}
    (left : ({ s with circuits := s.circuits.set c x, notices := ns } : State).LeftService t (.circuit c) [])
    (others : ∀ d, d ≠ c → u.circuit d = t.circuit d ∧ zs.get d = t.control d)
    (flags : ∀ f, f ≠ .storyClosed → (∀ f, f ≠ .storyClosed → t.flagSet f = ns.flags.getLsbD f.bit) →
      nt.flags.getLsbD f.bit = (s.flagSet f || decide (f ∈ raised)))
    (closed : (s.flagSet .storyClosed = true → ns.flags.getLsbD Flag.storyClosed.bit = true)
      ∧ (t.flagSet .storyClosed = true → nt.flags.getLsbD Flag.storyClosed.bit = true))
    (enables : t.notices.enables = ns.enables → nt.enables = s.notices.enables) :
    s.LeftService { t with circuits := u.circuits, controls := zs, notices := nt } (.circuit c) raised := by
  refine left.around (fun d other => ?_) (fun p _ => ⟨rfl, rfl⟩) flags closed enables
  have apart : d ≠ c := fun same => other (congrArg Source.circuit same)
  exact ⟨(State.get_set ..).trans (if_neg apart), others d apart⟩

/-! ## CIRCUIT_CLOSE -/

theorem exec_circuitClose : exec .circuitClose s = .next (circuitClose s) := rfl

theorem circuitClose_eq (names : (s.arg 0).toNat = c.val) : circuitClose s
    = (if (s.circuit c).state = .closed then (if (s.circuit c).survey then cancelSurvey c s else s)
        else closeCircuit c (if (s.circuit c).survey then cancelSurvey c s else s)).done 16 := by
  unfold circuitClose
  rw [circuitOf_some names]

/-- The notices and the record of a circuit once a survey of it is cancelled (R24). -/
theorem cancelled_eq (c : Fin 16) (s : State) : (if (s.circuit c).survey = true then cancelSurvey c s else s)
    = { s with
      circuits := s.circuits.set c (if (s.circuit c).survey = true then (s.circuit c).backFrom
        { (s.circuit c).surveyRec with result := some .cancelled } else s.circuit c)
      notices := if (s.circuit c).survey = true then raisedNotices .surveyDone s.notices else s.notices } := by
  split_ifs
  · rw [cancelSurvey_eq]
    rfl
  · exact (congrArg (fun w => { s with circuits := w }) (vector_set_same s.circuits c)).symm

/-- The record of a circuit taken to CLOSED from service, a survey of it cancelled (R4, R24). -/
theorem toClosed_cancelled (x : Circuit) :
    ((if x.survey = true then x.backFrom { x.surveyRec with result := some .cancelled } else x).toClosed).quieted
    = { x with
      state := .closed, survey := false
      surveyRec := if x.survey = true then { x.surveyRec with result := some .cancelled } else x.surveyRec
      rxPhase := .idle, rxPlane := if x.survey = true ∧ x.state = .opened then .letters else x.rxPlane
      lossTimer := none, restoreTimer := none, edges := [], allSpace := false, afterStop := false
      sending := none, config := x.pendingConfig.getD x.config, pendingConfig := none } := by
  have closed (y : Circuit) : y.toClosed.quieted = { y.toClosed with
      config := y.pendingConfig.getD y.config, pendingConfig := none } := by
    cases pending : y.pendingConfig with
    | none =>
      rw [Circuit.quieted_none (y := y.toClosed) pending]
      unfold Circuit.toClosed
      simp only [Option.getD_none, pending]
    | some cfg =>
      rw [Circuit.quieted_some (y := y.toClosed) pending]
      unfold Circuit.toClosed Circuit.configured
      simp
  rw [closed]
  cases survey : x.survey with
  | false =>
    simp only [Circuit.toClosed, Bool.false_eq_true, if_false, false_and, survey]
  | true =>
    simp only [Circuit.toClosed, Circuit.backFrom, if_true, true_and]

/-- Settles O38: a circuit closed, by the survey cancelled, the service left and the counter forced. -/
theorem circuitCloseTakesTheCircuitOut : Obligations.CircuitCloseTakesTheCircuitOut := by
  intro s
  rw [exec_circuitClose]
  refine ⟨fun beyond => ?_, fun c names => ?_⟩
  · unfold circuitClose
    rw [circuitOf_none beyond]
  intro x record
  rw [circuitClose_eq names, cancelled_eq]
  refine ⟨fun closed idle => ?_, fun closed survey => ?_, fun inService => ?_⟩
  · rw [if_pos closed, if_neg (by rw [idle]; exact Bool.false_ne_true), if_neg (by rw [idle]; exact Bool.false_ne_true)]
    exact congrArg (fun w => Host.Outcome.next ((settle { s with circuits := w }).answer 16 .ok))
      (vector_set_same s.circuits c)
  · have back : x.backFrom { x.surveyRec with result := some .cancelled } = { x with
        survey := false, surveyRec := record } := by
      simp only [Circuit.backFrom, record, closed, reduceCtorEq, if_false, survey, if_true]
    rw [if_pos closed, if_pos survey, if_pos survey, back]
    rfl
  · rw [if_neg inService]
    generalize isX : (if x.survey = true then x.backFrom { x.surveyRec with result := some .cancelled }
      else x) = x'
    generalize isN : (if x.survey = true then raisedNotices .surveyDone s.notices else s.notices) = ns
    have closes : closeCircuit c { s with circuits := s.circuits.set c x', notices := ns }
        = (leaveService c { s with circuits := s.circuits.set c x'.toClosed, notices := ns }).modControl c
          (fun z => z.force) := by
      have moved : ({ s with circuits := s.circuits.set c x', notices := ns } : State).modCircuit c
          (fun y => y.toClosed) = { s with circuits := s.circuits.set c x'.toClosed, notices := ns } := by
        have here : ({ s with circuits := s.circuits.set c x', notices := ns } : State).circuit c = x' :=
          (State.get_set ..).trans (if_pos rfl)
        rw [State.modCircuit_eq (congrArg Circuit.toClosed here)]
        exact congrArg (fun w => { s with circuits := w, notices := ns }) (vector_set_set ..)
      unfold closeCircuit
      dsimp only
      rw [moved]
    obtain ⟨t, left, frame, own, control, others⟩ := leaveService_leftService x'.toClosed ns s c
    generalize leaveService c { s with circuits := s.circuits.set c x'.toClosed, notices := ns } = w
      at closes frame own control others
    have isU : closeCircuit c { s with circuits := s.circuits.set c x', notices := ns } = { t with
        circuits := w.circuits, controls := w.controls.set c (w.control c).force, notices := t.notices } := by
      rw [closes, frame]
      rfl
    refine ⟨_, rfl, ?_, ?_, ?_⟩
    · rw [isU]
      refine leftService_circuit left (fun d other => ⟨(others d other).1, ?_⟩) (fun f other plain => ?_)
        ⟨fun raised => ?_, id⟩ (fun same => same.trans ?_)
      · exact (State.get_set ..).trans ((if_neg other).trans (others d other).2)
      · refine (plain f other).trans ?_
        rw [← isN]
        split_ifs
        · rw [flags_raisedNotices]
          simp only [List.mem_singleton, State.flagSet]
        · simp [State.flagSet]
      · rw [← isN]
        split_ifs
        · rw [flags_raisedNotices]
          exact Bool.or_eq_true_iff.2 (.inl raised)
        · exact raised
      · rw [← isN]
        split_ifs <;> rfl
    · rw [isU]
      refine own.trans ?_
      rw [← isX]
      exact toClosed_cancelled x
    · rw [isU]
      refine ((State.get_set ..).trans (if_pos rfl)).trans ?_
      rw [control]
      rfl

/-! ## Far breaks, losses and restores -/

theorem exec_farBreakBegins : exec (.farBreakBegins c) s
    = .next (if (s.circuit c).breakDue = true then settle (s.modCircuit c (fun x => x.breakBegun)) else s) := rfl

theorem exec_circuitLost : exec (.circuitLost c) s = .next (if (s.circuit c).lossDue = true then
    settle ((leaveService c (s.modCircuit c (fun x => x.toLost))).raise .circuitLost) else s) := rfl

theorem exec_circuitRestored : exec (.circuitRestored c) s = .next (if (s.circuit c).restoreDue = true then
    settle (((s.modCircuit c (fun x => x.restored)).modOutlet (lineOutlet c)
      (fun x => x.lineOn)).raise .circuitRestored) else s) := rfl

theorem breakDue_iff (x : Circuit) : x.breakDue = true ↔ x.state = .opened ∧ x.survey = false
    ∧ x.rxPhase = .hunting ∧ x.config.polarity.reads x.rxLine = .space := by
  unfold Circuit.breakDue Circuit.receives Circuit.reads
  simp [and_assoc]

theorem lossDue_iff (x : Circuit) : x.lossDue = true ↔ x.state = .opened
    ∧ ∃ e, x.lossTimer = some e ∧ x.config.lossTime ≤ e := by
  unfold Circuit.lossDue
  rw [Bool.and_eq_true, decide_eq_true_eq, expired_iff]

theorem restoreDue_iff (x : Circuit) : x.restoreDue = true ↔ x.state = .lost
    ∧ ∃ e, x.restoreTimer = some e ∧ x.config.restoreTime ≤ e := by
  unfold Circuit.restoreDue
  rw [Bool.and_eq_true, decide_eq_true_eq, expired_iff]

theorem orphaned_eq (x : LineChar) :
    x.orphaned = { x with owner := if x.owner = .unit then .orphan else x.owner } := by
  unfold LineChar.orphaned
  cases owner : x.owner <;> simp only [reduceCtorEq, if_true, if_false]
  all_goals rw [← owner]

/-- Settles O39: each row by its guard, the loss by the service left. -/
theorem farBreakLossAndRestoreMoveTheCircuit : Obligations.FarBreakLossAndRestoreMoveTheCircuit := by
  intro s c x breakDue lossDue restoreDue lost
  rw [exec_farBreakBegins, exec_circuitLost, exec_circuitRestored]
  refine ⟨fun due => ?_, fun early => ?_, fun due => ?_, fun early => ?_, fun due => ?_, fun early => ?_⟩
  · rw [if_pos ((breakDue_iff x).2 due)]
    rfl
  · rw [if_neg (mt (breakDue_iff x).1 early)]
  · rw [if_pos ((lossDue_iff x).2 due)]
    have isLost : s.modCircuit c (fun y => y.toLost) = { s with
        circuits := s.circuits.set c lost, notices := s.notices } := by
      refine State.modCircuit_eq ?_
      unfold Circuit.toLost
      rw [funext orphaned_eq]
    rw [isLost]
    obtain ⟨t, left, frame, own, control, others⟩ := leaveService_leftService lost s.notices s c
    generalize leaveService c { s with circuits := s.circuits.set c lost, notices := s.notices } = w
      at frame own control others
    have isU : w.raise .circuitLost = { t with
        circuits := w.circuits, controls := w.controls, notices := raisedNotices .circuitLost t.notices } := by
      rw [frame]
      rfl
    refine ⟨_, rfl, ?_, fun none_ => ?_, fun cfg pending => ?_, control⟩
    · rw [isU]
      refine leftService_circuit left others (fun f other plain => ?_) ⟨id, fun raised => ?_⟩ fun same => same
      · rw [flags_raisedNotices]
        simp only [List.mem_singleton]
        exact congrArg (· || _) (plain f other)
      · rw [flags_raisedNotices]
        exact Bool.or_eq_true_iff.2 (.inl raised)
    · exact own.trans (Circuit.quieted_none (y := lost) none_)
    · exact own.trans (Circuit.quieted_some (y := lost) pending)
  · rw [if_neg (mt (lossDue_iff x).1 early)]
  · rw [if_pos ((restoreDue_iff x).2 due)]
    rfl
  · rw [if_neg (mt (restoreDue_iff x).1 early)]

end Sys2Proof.Machine

/-! PROOF. TERMINAL_SET (R44 to R47, R117, R118). -/

namespace Sys2Proof.Machine

variable {s t u v w a b : State} {p : Fin 8} {cfg : PortConfig} {case_ : TerminalCase}

theorem exec_terminalSetEnable : exec .terminalSetEnable s = .next (terminalSetAs .enable s) := rfl

theorem exec_terminalSetReconfigure : exec .terminalSetReconfigure s
    = .next (terminalSetAs .reconfigure s) := rfl

theorem exec_terminalSetDisable : exec .terminalSetDisable s = .next (terminalSetAs .disable s) := rfl

theorem terminalSet_refused (bad : 8 ≤ (s.arg 0).toNat ∨ portConfigOf s.regs.args = none) :
    terminalSet s = s.refuse 22 .badArgument := by
  unfold terminalSet
  rcases bad with beyond | none_
  · rw [terminalOf_none beyond]
  · rw [none_]
    cases terminalOf (s.arg 0).toNat <;> rfl

theorem terminalSetAs_refused (bad : 8 ≤ (s.arg 0).toNat ∨ portConfigOf s.regs.args = none) :
    terminalSetAs case_ s = s.refuse 22 .badArgument := by
  rw [← terminalSet_refused bad]
  unfold terminalSetAs
  rcases bad with beyond | none_
  · rw [terminalOf_none beyond]
  · rw [none_]
    cases terminalOf (s.arg 0).toNat <;> rfl

section Named

variable (names : (s.arg 0).toNat = p.val) (read : portConfigOf s.regs.args = some cfg)
include names read

/-- A row of TERMINAL_SET whose case is the one made (R45 to R47). -/
theorem terminalSetAs_due (due : terminalCase (s.port p) cfg = case_) :
    terminalSetAs case_ s = (setTerminal p cfg s).done 22 := by
  unfold terminalSetAs terminalSet
  rw [terminalOf_some names, read]
  exact if_pos due

theorem terminalSetAs_other (other : terminalCase (s.port p) cfg ≠ case_) : terminalSetAs case_ s = s := by
  unfold terminalSetAs
  rw [terminalOf_some names, read]
  exact if_neg other

end Named

theorem terminalCase_enable {x : Port} (on : cfg.enable = true) (off : x.enabled = false) :
    terminalCase x cfg = .enable := by simp [terminalCase, on, off]

theorem terminalCase_reconfigure {x : Port} (on : cfg.enable = true) (enabled : x.enabled = true) :
    terminalCase x cfg = .reconfigure := by simp [terminalCase, on, enabled]

theorem terminalCase_disable {x : Port} (off : cfg.enable = false) : terminalCase x cfg = .disable := by
  simp [terminalCase, off]

theorem setTerminal_enable (made : terminalCase (s.port p) cfg = .enable) :
    setTerminal p cfg s = enablePort p cfg s := by
  unfold setTerminal
  rw [made]

theorem setTerminal_reconfigure (made : terminalCase (s.port p) cfg = .reconfigure) :
    setTerminal p cfg s = s.modPort p (fun x => x.reconfigure cfg) := by
  unfold setTerminal
  rw [made]

theorem setTerminal_disable (made : terminalCase (s.port p) cfg = .disable) :
    setTerminal p cfg s = turnOff p cfg s := by
  unfold setTerminal
  rw [made]

theorem enablePort_eq (p : Fin 8) (cfg : PortConfig) (s : State) : enablePort p cfg s = { s with
    ports := s.ports.set p ((s.port p).enable cfg)
    outlets := s.outlets.set (terminalOutlet p) { s.outlet (terminalOutlet p) with
      state := if (s.port p).readyPin = .high then .idle else .paused, column := 0, stalls := 0 } } := by
  have port : (s.modPort p (fun x => x.enable cfg)).port p = (s.port p).enable cfg := State.port_modPort_self ..
  have ready : readyState ((s.port p).enable cfg) = if (s.port p).readyPin = .high then .idle else .paused := by
    unfold readyState Port.enable
    cases (s.port p).readyPin <;> rfl
  unfold enablePort
  dsimp only
  rw [port]
  refine State.modOutlet_eq ?_
  unfold Outlet.terminalOn
  exact congrArg (fun st => { s.outlet (terminalOutlet p) with state := st, column := 0, stalls := 0 }) ready

/-- A port taken out of service once its source is withdrawn (R47). -/
def State.portOff (t : State) (p : Fin 8) (cfg : PortConfig) : State :=
  { t with ports := t.ports.set p ((t.port p).disable cfg), parsers := t.parsers.set p {} }

theorem disablePort_eq (p : Fin 8) (cfg : PortConfig) (s : State) :
    disablePort p cfg s = (withdrawSource (.terminal p) s).portOff p cfg := by
  have withdrawn : outletOff (terminalOutlet p) (loseSource (.terminal p) s) = withdrawSource (.terminal p) s := rfl
  unfold disablePort
  dsimp only
  rw [withdrawn]
  generalize withdrawSource (.terminal p) s = t
  rfl

/-- Settles O46: the refusal, the row of each case, and the rows of the others. -/
theorem terminalSetEnablesReconfiguresAndDisables :
    Obligations.TerminalSetEnablesReconfiguresAndDisables := by
  intro s
  refine ⟨fun bad i mem => ?_, fun p cfg names read => ?_⟩
  · simp only [List.mem_cons, List.not_mem_nil, or_false] at mem
    rcases mem with rfl | rfl | rfl
    · rw [exec_terminalSetEnable, terminalSetAs_refused bad]
    · rw [exec_terminalSetReconfigure, terminalSetAs_refused bad]
    · rw [exec_terminalSetDisable, terminalSetAs_refused bad]
  intro x o fresh
  rw [exec_terminalSetEnable, exec_terminalSetReconfigure, exec_terminalSetDisable]
  have other {made : TerminalCase} (isMade : terminalCase x cfg = made) {row : TerminalCase}
      (apart : made ≠ row) : terminalSetAs row s = s :=
    terminalSetAs_other names read fun same => apart (isMade.symm.trans same)
  refine ⟨Moves.portConfigOf_valid read, fun on off => ?enable, fun on enabled => ?reconfigure, fun off => ?disable⟩
  case enable =>
    have made := terminalCase_enable (x := x) on off
    rw [other made TerminalCase.noConfusion, other made TerminalCase.noConfusion,
      terminalSetAs_due names read made, setTerminal_enable made, enablePort_eq]
    exact ⟨rfl, rfl, rfl⟩
  case reconfigure =>
    have made := terminalCase_reconfigure (x := x) on enabled
    rw [other made TerminalCase.noConfusion, other made TerminalCase.noConfusion,
      terminalSetAs_due names read made, setTerminal_reconfigure made]
    exact ⟨rfl, rfl, rfl⟩
  case disable =>
    have made := terminalCase_disable (x := x) off
    rw [other made TerminalCase.noConfusion, other made TerminalCase.noConfusion,
      terminalSetAs_due names read made, setTerminal_disable made]
    refine ⟨rfl, rfl, fun disabled => ?_, fun enabled => ?_⟩
    · unfold turnOff
      rw [if_neg (by rw [disabled]; exact Bool.false_ne_true)]
      rfl
    · unfold turnOff
      rw [if_pos enabled]
      obtain ⟨v, a, b, withdrawn⟩ := withdrawSource_withdrawn (.terminal p) s
      have disabled := disablePort_eq p cfg s
      generalize withdrawSource (.terminal p) s = t at withdrawn disabled
      have port := withdrawn.port
      refine ⟨_, rfl, ?_, ?_, ?_⟩
      · rw [disabled]
        refine State.LeftService.around (cs := s.circuits) (ns := s.notices) (ct := t.circuits) (zs := t.controls)
          (nt := t.notices) withdrawn.leftService (fun c _ => ⟨rfl, rfl, rfl⟩) (fun q other => ?_)
          (fun f other plain => ?_) ⟨id, id⟩ id
        · have apart : q ≠ p := fun same => other (congrArg Source.terminal same)
          exact ⟨(State.get_set ..).trans (if_neg apart), (State.get_set ..).trans (if_neg apart)⟩
        · refine (plain f other).trans ?_
          simp [State.flagSet]
      · rw [disabled]
        exact (State.get_set ..).trans (if_pos rfl)
      · rw [disabled]
        refine ((State.get_set ..).trans (if_pos rfl)).trans ?_
        rw [port]
        rfl

end Sys2Proof.Machine

/-! PROOF. What an outlet's having something to do depends on (R114 to R117): two states that give it the same
records leave it as calm. -/

namespace Sys2Proof.Machine

variable {s t u v : State} {o : Fin 24}

/-! ## Being granted -/

/-- The winner's rank is the least among the eligible (R126). -/
theorem State.winner_rank_le (ok : s.TableOk) {w k : Fin 48} (win : s.winner o = some w)
    (elig : s.eligible o k = true) : (s.story w).rank ≤ (s.story k).rank := by
  have least := State.winner_least win k (State.eligible_waits ok elig) elig
  have place := State.openOrder_idxOf_lt ok k
  have standing : s.standing o k ≤ 1 := by
    unfold State.standing
    split <;> omega
  unfold State.key at least
  omega

/-- An outlet would be granted where an eligible story could take it from its holder, if it has one (R126, R127). -/
theorem granted_isSome_iff_takes (ok : s.TableOk) (o : Fin 24) : (s.granted o).isSome = true ↔
    ∃ w, s.eligible o w = true ∧ ∀ h, (s.outlet o).holder = some h → s.preempts w h = true := by
  unfold State.granted
  constructor
  · intro grants
    cases win : s.winner o with
    | none => simp [win] at grants
    | some w =>
      refine ⟨w, (State.winner_mem win).2, fun h holds => ?_⟩
      simp only [win, holds] at grants
      by_contra no
      simp [no] at grants
  · rintro ⟨k, elig, takes⟩
    obtain ⟨w, win⟩ := State.winner_exists (State.eligible_waits ok elig) elig
    have rank := State.winner_rank_le ok win elig
    cases holds : (s.outlet o).holder with
    | none => simp [win]
    | some h =>
      have due : s.preempts w h = true := by
        have outranks := takes h holds
        unfold State.preempts at outranks ⊢
        rw [decide_eq_true_iff] at outranks ⊢
        omega
      simp [win, due]

/-! ## What an outlet reads -/

/-- All that the having something to do of an outlet reads is the same in two states; the character on the line is
not read while the outlet is IDLE. -/
structure State.ReadAlike (s u : State) (o : Fin 24) : Prop where
  state : (u.outlet o).state = (s.outlet o).state
  holder : (u.outlet o).holder = (s.outlet o).holder
  owed : (u.outlet o).owed = (s.outlet o).owed
  unit : (u.outlet o).unit = (s.outlet o).unit
  answerback : (u.outlet o).answerbackOwed = (s.outlet o).answerbackOwed
  sends : u.willSend o = s.willSend o
  reply : u.replyOf o = s.replyOf o
  pause : u.pauseCause o = s.pauseCause o
  lead : u.leadDone o = s.leadDone o
  line : (s.outlet o).state = .idle ∨ u.ownBusy o = s.ownBusy o ∧ u.lineBusy o = s.lineBusy o
  eligible : ∀ k, u.eligible o k = s.eligible o k
  rank : ∀ k, s.eligible o k = true ∨ (s.outlet o).holder = some k → (u.story k).rank = (s.story k).rank
  works : u.holderWorks o = s.holderWorks o

namespace State.ReadAlike

theorem refl (s : State) (o : Fin 24) : s.ReadAlike s o :=
  ⟨rfl, rfl, rfl, rfl, rfl, rfl, rfl, rfl, rfl, .inr ⟨rfl, rfl⟩, fun _ => rfl, fun _ _ => rfl, rfl⟩

theorem trans (h : s.ReadAlike u o) (g : u.ReadAlike v o) : s.ReadAlike v o where
  state := g.state.trans h.state
  holder := g.holder.trans h.holder
  owed := g.owed.trans h.owed
  unit := g.unit.trans h.unit
  answerback := g.answerback.trans h.answerback
  sends := g.sends.trans h.sends
  reply := g.reply.trans h.reply
  pause := g.pause.trans h.pause
  lead := g.lead.trans h.lead
  line := by
    rcases h.line with idle | ⟨own, busy⟩
    · exact .inl idle
    · rcases g.line with idle | ⟨own', busy'⟩
      · exact .inl (h.state.symm.trans idle)
      · exact .inr ⟨own'.trans own, busy'.trans busy⟩
  eligible k := (g.eligible k).trans (h.eligible k)
  rank k named := by
    refine (g.rank k ?_).trans (h.rank k named)
    rwa [h.eligible, h.holder]
  works := g.works.trans h.works

variable (h : s.ReadAlike u o)
include h

theorem silent (x : OutUnit) : u.silent o x = s.silent o x := by
  unfold State.silent
  rw [h.sends]

theorem granted (ok : s.TableOk) (ok' : u.TableOk) : (u.granted o).isSome = (s.granted o).isSome := by
  refine Bool.eq_iff_iff.2 ?_
  rw [granted_isSome_iff_takes ok, granted_isSome_iff_takes ok', h.holder]
  refine exists_congr fun w => ?_
  rw [h.eligible]
  refine and_congr_right fun elig => forall₂_congr fun k holds => ?_
  unfold State.preempts
  rw [h.rank w (.inl elig), h.rank k (.inr holds)]

theorem hasWork (ok : s.TableOk) (ok' : u.TableOk) : u.hasWork o = s.hasWork o := by
  unfold State.hasWork
  simp only [h.unit, h.answerback, h.owed, h.reply, h.granted ok ok', h.works, h.silent]

theorem unitOver (moves : (s.outlet o).state ≠ .idle) : u.unitOver o = s.unitOver o := by
  obtain ⟨own, _⟩ := h.line.resolve_left moves
  unfold State.unitOver
  rw [h.unit, own, funext h.silent]

/-- An outlet has as much to do in two states that it reads alike. -/
theorem stirs (ok : s.TableOk) (ok' : u.TableOk) : u.stirs o = s.stirs o := by
  unfold State.stirs
  rw [h.state]
  cases state : (s.outlet o).state with
  | off | stalled => rfl
  | idle => exact h.hasWork ok ok'
  | starting => exact h.lead
  | sending =>
    have moves : (s.outlet o).state ≠ .idle := by simp [state]
    obtain ⟨own, busy⟩ := h.line.resolve_left moves
    have waits : u.pauseWaits o = s.pauseWaits o := by
      unfold State.pauseWaits
      rw [h.state, busy]
    have goes : u.sendingGoesOn o = s.sendingGoesOn o := by
      unfold State.sendingGoesOn
      rw [h.pause, h.unit, busy, waits]
    dsimp only
    rw [own, goes, h.unitOver moves]
  | paused =>
    dsimp only
    rw [h.unitOver (by simp [state]), h.pause]

theorem calmOn (ok : s.TableOk) (ok' : u.TableOk) (calm : s.CalmOn o) : u.CalmOn o := by
  rw [← stirs_eq_false_iff] at calm ⊢
  rw [h.stirs ok ok', calm]

end State.ReadAlike

/-! ## What reads alike -/

/-- The outlet reads its circuit's sending side, page and causes of a pause. -/
theorem sends_line (c : Fin 16) (pages : u.pages = s.pages)
    (circuit : (u.circuit c).config.page = (s.circuit c).config.page) :
    u.willSend (lineOutlet c) = s.willSend (lineOutlet c) := by
  funext ch
  unfold State.willSend State.page
  rw [outletCircuit_line]
  dsimp only
  rw [pages, circuit]

theorem sends_terminal (p : Fin 8) : u.willSend (terminalOutlet p) = s.willSend (terminalOutlet p) := by
  funext ch
  unfold State.willSend
  rw [outletCircuit_terminal]

/-- The last part of settling leaves what the outlets read. -/
theorem Shown.readAlike (h : Shown s u) (o : Fin 24) : s.ReadAlike u o := by
  obtain ⟨state, holder, waiting, owed, unit, answerback⟩ := h.outlet o
  have sends : u.willSend o = s.willSend o := funext fun ch => h.willSend o ch
  have rank (k : Fin 48) : (u.story k).rank = (s.story k).rank := by rw [h.story]
  refine ⟨state, holder, owed, unit, answerback, sends, h.replyOf o, ?pause, ?lead, .inr ⟨?own, ?busy⟩,
    h.eligible o, fun k _ => rank k, h.holderWorks o⟩
  all_goals rcases line_or_terminal o with ⟨c, rfl⟩ | ⟨p, rfl⟩
  case pause.inl => simp [(h.control c).1, h.circuit]
  case pause.inr => simp [h.port]
  case lead.inl => simp [(h.control c).2]
  case lead.inr => simp
  case own.inl => simp [h.circuit]
  case own.inr => simp [h.port]
  case busy.inl => simp [h.circuit]
  case busy.inr => simp [h.port]

end Sys2Proof.Machine

/-! PROOF. Effects that no reaction follows leave every outlet as calm as it was (R114 to R117). -/

namespace Sys2Proof.Machine

variable {s t u v : State} {o : Fin 24}

/-! ## The send sides -/

/-- The pages, and what an outlet reads of its port or circuit besides the configuration, are as they were; a fill
may have gone out on an IDLE line (R150). -/
structure State.SidesKept (s u : State) : Prop where
  pages : u.pages = s.pages
  sending : ∀ p, (u.port p).sending = (s.port p).sending
  ready : ∀ p, (u.port p).readyIn = (s.port p).readyIn
  reply : ∀ p, (u.port p).replySlot = (s.port p).replySlot
  line : ∀ c, (s.outlet (lineOutlet c)).state = .idle ∨ (u.circuit c).sending = (s.circuit c).sending

namespace State.SidesKept

theorem refl (s : State) : s.SidesKept s := ⟨rfl, fun _ => rfl, fun _ => rfl, fun _ => rfl, fun _ => .inr rfl⟩

/-- A change of neither pages nor ports nor circuits. -/
theorem apart (h : s.SidesKept u) (pages : v.pages = u.pages) (ports : v.ports = u.ports)
    (circuits : v.circuits = u.circuits) : s.SidesKept v := by
  have port (p : Fin 8) : v.port p = u.port p := congrArg (fun x => x.get p) ports
  have circuit (c : Fin 16) : v.circuit c = u.circuit c := congrArg (fun x => x.get c) circuits
  refine ⟨pages.trans h.pages, fun p => ?_, fun p => ?_, fun p => ?_, fun c => ?_⟩
  · rw [port, h.sending]
  · rw [port, h.ready]
  · rw [port, h.reply]
  · rw [circuit]
    exact h.line c

theorem modPort (h : s.SidesKept u) {p : Fin 8} {f : Port → Port}
    (keeps : (f (u.port p)).sending = (u.port p).sending ∧ (f (u.port p)).readyIn = (u.port p).readyIn
      ∧ (f (u.port p)).replySlot = (u.port p).replySlot) : s.SidesKept (u.modPort p f) := by
  obtain ⟨sending, ready, reply⟩ := keeps
  refine ⟨h.pages, fun q => ?_, fun q => ?_, fun q => ?_, h.line⟩ <;> rw [State.port_modPort] <;>
    split_ifs with here
  · rw [sending, here, h.sending]
  · exact h.sending q
  · rw [ready, here, h.ready]
  · exact h.ready q
  · rw [reply, here, h.reply]
  · exact h.reply q

theorem modCircuit (h : s.SidesKept u) {c : Fin 16} {f : Circuit → Circuit}
    (keeps : (s.outlet (lineOutlet c)).state = .idle ∨ (f (u.circuit c)).sending = (u.circuit c).sending) :
    s.SidesKept (u.modCircuit c f) := by
  refine ⟨h.pages, h.sending, h.ready, h.reply, fun d => ?_⟩
  rw [State.circuit_modCircuit]
  split_ifs with here
  · subst here
    rcases keeps with idle | same
    · exact .inl idle
    · rw [same]
      exact h.line d
  · exact h.line d

theorem raiseIf (h : s.SidesKept u) {b : Bool} {f : Flag} : s.SidesKept (u.raiseIf b f) := by
  unfold State.raiseIf
  split <;> exact h.apart rfl rfl rfl

theorem forEach {α : Type} {l : List α} {f : α → State → State}
    (each : ∀ a v, s.SidesKept v → s.SidesKept (f a v)) (h : s.SidesKept u) :
    s.SidesKept (Machine.forEach l f u) := forEach_keeps each h

end State.SidesKept

theorem Circuit.sending_spaceEdge (x : Circuit) : x.spaceEdge.sending = x.sending := by
  unfold Circuit.spaceEdge
  dsimp only
  split_ifs <;> rfl

theorem Circuit.sending_slipped (x : Circuit) (y : Slip) : (x.slipped y).sending = x.sending := by
  cases y <;> rfl

theorem Circuit.sending_lateEdge (x : Circuit) (l : Signal) : (x.lateEdge l).sending = x.sending := by
  cases l with
  | space => exact Circuit.sending_spaceEdge x
  | mark =>
    have ended (y : Circuit) : y.breakEnded.sending = y.sending := by
      unfold Circuit.breakEnded
      split_ifs <;> rfl
    have allSpace (y : Circuit) : y.allSpaceOver.sending = y.sending := by
      unfold Circuit.allSpaceOver
      split_ifs <;> rfl
    unfold Circuit.lateEdge Circuit.markEdge
    dsimp only
    split
    · exact ended _
    · exact allSpace _
    · split_ifs <;> rfl
    · rfl

/-- Only a fill, on an IDLE line, is sent without a reaction. -/
theorem Quietly.sides (e : Quietly s u) : u = Machine.powerOn s ∨ s.SidesKept u := by
  have start := State.SidesKept.refl s
  cases e with
  | powerOn => exact .inl rfl
  | retireClosed => exact .inr (start.forEach fun _ _ h => h.apart rfl rfl rfl)
  | replaceDesk i d _ _ | addDesk i d _ _ =>
    exact .inr (putDesk_keeps (P := s.SidesKept) (fun _ _ _ h => h.apart rfl rfl rfl) start)
  | snapshot x =>
    refine .inr ?_
    cases x with
    | circuit c =>
      exact State.SidesKept.apart (start.modCircuit (c := c)
        (f := fun x => { x with slipFlag := false }) (.inr rfl)) rfl rfl rfl
    | story k | desk i | terminal t | outlet o | page p | table => exact start.apart rfl rfl rfl
  | pending c cfg _ =>
    have drafted : s.SidesKept (s.modRegs fun r => { r with draft := none }) := start.apart rfl rfl rfl
    exact .inr (drafted.modCircuit (.inr rfl))
  | falseStart c _ | surveyEdge c _ _ => exact .inr (start.modCircuit (.inr rfl))
  | spaceEdge c => exact .inr (start.modCircuit (.inr (Circuit.sending_spaceEdge _)))
  | insideEdge c level ticks =>
    exact .inr (start.modCircuit (.inr (Circuit.sending_slipped _ _))).raiseIf
  | lateEdge c level ticks _ =>
    exact .inr (start.modCircuit (.inr ((Circuit.sending_slipped _ _).trans
      (Circuit.sending_lateEdge _ _)))).raiseIf
  | timeFill c due =>
    simp only [State.fillDue, Bool.and_eq_true, decide_eq_true_eq] at due
    obtain ⟨⟨⟨_, idle⟩, _⟩, _⟩ := due
    exact .inr (State.SidesKept.apart (start.modCircuit (c := c)
      (f := fun x => { x with sending := some (x.startChar 31#5 .fill) }) (.inl idle)) rfl rfl rfl)
  | startEdge t =>
    refine .inr (start.modPort ?_)
    unfold Port.startEdge
    split_ifs <;> exact ⟨rfl, rfl, rfl⟩
  | terminalFalseStart t =>
    refine .inr (start.modPort ?_)
    unfold Port.falseStart
    split_ifs <;> exact ⟨rfl, rfl, rfl⟩
  | markReturn t => exact .inr (start.modPort ⟨rfl, rfl, rfl⟩)
  | readyPin t l disabled =>
    refine .inr (start.modPort ⟨rfl, ?_, rfl⟩)
    simp [Port.withReady, disabled]
  | second =>
    refine .inr ?_
    unfold secondPasses
    dsimp only
    refine State.SidesKept.forEach (fun o w g => g.apart rfl rfl rfl) ?_
    refine State.SidesKept.forEach (fun k w g => g.apart rfl rfl rfl) ?_
    exact State.SidesKept.forEach (fun c w g => g.modCircuit (.inr rfl)) (start.apart rfl rfl rfl)
  | same | retire k _ _ | number n _ _ | removeDesk i | draft _ | clock n _ | blockLimit n _ _
  | argument _ _ | clockRead | select _ | windowRead _ | notice _ | noticeEnable _ =>
    exact .inr (start.apart rfl rfl rfl)

/-! ## Reading alike -/

/-- Effects on their own leave what every outlet reads. -/
theorem Quietly.readAlike (e : Quietly s u) (ok : s.Consistent) : u = Machine.powerOn s ∨ ∀ o, s.ReadAlike u o := by
  rcases e.circuit with rfl | circuit
  · exact .inl rfl
  rcases e.control with rfl | control
  · exact .inl rfl
  rcases e.outlet with rfl | outlet
  · exact .inl rfl
  rcases e.story with rfl | story
  · exact .inl rfl
  rcases e.sides with rfl | sides
  · exact .inl rfl
  refine .inr fun o => ?_
  obtain ⟨_, _, same, _⟩ := outlet o
  have aged (k : Fin 48) (stands : (s.story k).state ≠ .closed) : (s.story k).Aged (u.story k) :=
    (story k).resolve_right fun freed => stands freed.1
  have holder (k : Fin 48) (holds : (s.outlet o).holder = some k) : (s.story k).Aged (u.story k) :=
    aged k fun closed => (ok.closed_off closed o).1 holds
  have eligible (k : Fin 48) : u.eligible o k = s.eligible o k := by
    rcases story k with same | ⟨closed, freed⟩
    · exact same.eligible
    · have none_ : s.eligible o k = false := by
        rw [← Bool.not_eq_true]
        exact fun elig => (ok.closed_off closed o).2 (State.eligible_waits ok.table elig)
      rw [none_]
      unfold State.eligible State.entry
      rw [freed]
      rfl
  refine ⟨by rw [same], by rw [same], by rw [same], by rw [same], by rw [same], ?sends, ?reply, ?pause, ?lead,
    ?line, eligible, fun k named => ?rank, ?works⟩
  case rank =>
    have named : (s.story k).Aged (u.story k) := by
      rcases named with elig | holds
      · exact aged k fun closed => (ok.closed_off closed o).2 (State.eligible_waits ok.table elig)
      · exact holder k holds
    obtain ⟨_, _, _, eq⟩ := named
    rw [eq]
    rfl
  case works =>
    unfold State.holderWorks State.entry
    have held : (u.outlet o).holder = (s.outlet o).holder := by rw [same]
    rw [held]
    cases holds : (s.outlet o).holder with
    | none => rfl
    | some k =>
      obtain ⟨_, _, _, eq⟩ := holder k holds
      dsimp only
      rw [eq]
      rfl
  all_goals rcases line_or_terminal o with ⟨c, rfl⟩ | ⟨p, rfl⟩
  case sends.inl => exact sends_line c sides.pages (by rw [(circuit c).config])
  case sends.inr => exact sends_terminal p
  case reply.inl => rw [replyOf_line, replyOf_line]
  case reply.inr => rw [replyOf_terminal, replyOf_terminal, sides.reply]
  case pause.inl =>
    obtain ⟨_, filled⟩ := control c
    rw [pauseCause_line, pauseCause_line, filled, (circuit c).config, decide_eq_decide.2 (circuit c).farBreak]
    rfl
  case pause.inr => rw [pauseCause_terminal, pauseCause_terminal, sides.ready]
  case lead.inl =>
    obtain ⟨_, filled⟩ := control c
    rw [leadDone_line, leadDone_line, filled]
  case lead.inr => rw [leadDone_terminal, leadDone_terminal]
  case line.inl =>
    refine (sides.line c).imp_right fun same => ?_
    rw [ownBusy_line, ownBusy_line, lineBusy_line, lineBusy_line, same]
    exact ⟨rfl, rfl⟩
  case line.inr =>
    rw [ownBusy_terminal, ownBusy_terminal, lineBusy_terminal, lineBusy_terminal, sides.sending]
    exact .inr ⟨rfl, rfl⟩

/-- After power-on reset every outlet is OFF. -/
theorem calmOn_powerOn (o : Fin 24) : (powerOn s).CalmOn o := by
  unfold State.CalmOn
  rw [powerOn_outlet]
  trivial

/-- Effects on their own leave the outlets calm. -/
theorem Quietly.outletsCalm (e : Quietly s u) (ok : s.Consistent) (calm : s.OutletsCalm) : u.OutletsCalm := by
  refine ⟨fun o => ?_, fun p => e.upkeep.codes p (calm.codes p)⟩
  rcases e.readAlike ok with rfl | alike
  · exact calmOn_powerOn o
  · exact (alike o).calmOn ok.table (ok.quietly e).table (calm.calm o)

end Sys2Proof.Machine

/-! PROOF. An outlet's reaction reaches another outlet only through a terminal's outstanding write that it lets be
taken (R85, log 8). -/

namespace Sys2Proof.Machine

variable {s t u v : State} {o : Fin 24} {k : Fin 48} {p : Fin 8}

/-! ## Outstanding writes -/

/-- Framer changes that leave the outstanding write are all that taking characters outside a story makes. -/
def State.Owes (s : State) (src : Source) (w : Option (List Office)) : Prop := (framerOf src s).outstanding = w

theorem State.Owes.modFramerOf {src : Source} {w : Option (List Office)} {f : Framer → Framer} (h : u.Owes src w)
    (keeps : ∀ x : Framer, (f x).outstanding = x.outstanding) : (modFramerOf src f u).Owes src w := by
  unfold State.Owes
  rw [framerOf_modFramerOf, if_pos rfl, keeps]
  exact h

theorem State.Owes.addLoose {src : Source} {w : Option (List Office)} {n : Nat} (h : u.Owes src w) :
    (u.addLoose src n).Owes src w := by
  unfold State.Owes
  rw [framerOf_addLoose]
  exact h

theorem State.Owes.takeIdle {src : Source} {w : Option (List Office)} {ch : Office} (h : u.Owes src w) :
    (takeIdle src ch u).Owes src w := by
  unfold Machine.takeIdle
  dsimp only
  split_ifs
  · exact h.modFramerOf fun _ => rfl
  · exact h.modFramerOf fun _ => rfl
  · exact h.modFramerOf fun _ => rfl
  · refine State.Owes.addLoose (h.modFramerOf fun _ => ?_)
    rfl

theorem State.Owes.takeDiscard {src : Source} {w : Option (List Office)} {ch : Office} (h : u.Owes src w) :
    (takeDiscard src ch u).Owes src w := by
  unfold Machine.takeDiscard
  dsimp only
  split_ifs
  · exact h.modFramerOf fun _ => rfl
  · exact h.modFramerOf fun _ => rfl
  · exact h.modFramerOf fun _ => rfl
  · refine State.Owes.addLoose (h.modFramerOf fun _ => ?_)
    rfl

theorem State.Owes.extendOpener {src : Source} {w : Option (List Office)} {ch : Office} (h : u.Owes src w) :
    (extendOpener src ch u).Owes src w := by
  unfold Machine.extendOpener failMatch
  dsimp only
  split_ifs
  · exact h.modFramerOf fun _ => rfl
  · refine State.Owes.takeDiscard (State.Owes.addLoose (h.modFramerOf fun _ => ?_))
    rfl
  · refine State.Owes.takeIdle (State.Owes.addLoose (h.modFramerOf fun _ => ?_))
    rfl

/-- A write that goes ahead is no longer outstanding (R65, R69). -/
theorem completeWrite_outstanding (src : Source) (k : Fin 48) (chs : List Office) (s : State) :
    (framerOf src (completeWrite src k chs s)).outstanding = none := by
  unfold completeWrite
  dsimp only
  split_ifs
  · rw [framerOf_modFramerOf, if_pos rfl]
    rfl
  · unfold takeLeftover
    refine forEach_keeps (P := fun v => v.Owes src none) (fun ch v hv => ?_) ?_
    · split_ifs
      · exact hv.extendOpener
      · exact hv.takeIdle
    · unfold State.Owes
      rw [framerOf_modFramerOf, if_pos rfl]
      rfl

/-- An outstanding write offered again is left, or is taken and no longer outstanding (R85). -/
theorem offerWrite_taken_or_same (k : Fin 48) (s : State) : offerWrite k s = s
    ∨ ∃ p, (s.story k).source = .terminal p ∧ (framerOf (.terminal p) s).outstanding ≠ none
      ∧ (framerOf (.terminal p) (offerWrite k s)).outstanding = none ∧ s.Offers (offerWrite k s) k p := by
  rcases offerWrite_offers k s with same | ⟨p, source, outstanding, offers⟩
  · exact .inl same
  obtain ⟨chs, owes⟩ := Option.ne_none_iff_exists'.1 outstanding
  by_cases takes : (framerOf (.terminal p) s).slot = some k ∧ (s.story k).state = .running
      ∧ roomFor (s.story k) chs.length = true
  · refine .inr ⟨p, source, outstanding, ?_, offers⟩
    rw [offerWrite_taken source owes takes.1 takes.2.1 takes.2.2]
    exact completeWrite_outstanding ..
  · exact .inl (offerWrite_not source owes takes)

/-- The number of terminals with an outstanding write. -/
def State.owing (s : State) : Nat :=
  (Finset.univ.filter fun p : Fin 8 => (framerOf (.terminal p) s).outstanding ≠ none).card

theorem owing_le (s : State) : s.owing ≤ 8 := (Finset.card_le_univ _).trans_eq (Fintype.card_fin 8)

theorem owing_congr (same : ∀ p, (framerOf (.terminal p) u).outstanding = (framerOf (.terminal p) s).outstanding) :
    u.owing = s.owing := by
  unfold State.owing
  simp only [same]

theorem State.Offers.owing_lt (h : s.Offers u k p) (before : (framerOf (.terminal p) s).outstanding ≠ none)
    (after : (framerOf (.terminal p) u).outstanding = none) : u.owing < s.owing := by
  refine Finset.card_lt_card (Finset.ssubset_iff_of_subset (fun q mem => ?_) |>.2 ⟨p, ?_, ?_⟩)
  · rw [Finset.mem_filter] at mem ⊢
    refine ⟨mem.1, ?_⟩
    by_cases here : q = p
    · rw [here]
      exact before
    · rw [← h.framers (.terminal q) fun same => here (Source.terminal.inj same)]
      exact mem.2
  · exact Finset.mem_filter.2 ⟨Finset.mem_univ p, before⟩
  · exact fun mem => (Finset.mem_filter.1 mem).2 after

/-! ## Entries on other outlets -/

theorem entryOn_modEntry (x : Story) (o j : Fin 24) {f : Entry → Entry} (keeps : ∀ e, (f e).outlet = e.outlet) :
    (x.modEntry o f).entryOn j = if j = o then (x.entryOn j).map f else x.entryOn j := by
  unfold Story.entryOn Story.modEntry
  rw [List.find?_map]
  have test : (fun e : Entry => decide (e.outlet = j)) ∘ (fun e => if e.outlet = o then f e else e)
      = fun e => decide (e.outlet = j) := by
    funext e
    dsimp only [Function.comp]
    split_ifs
    · rw [keeps]
    · rfl
  rw [test]
  cases found : x.entries.find? fun e => decide (e.outlet = j) with
  | none => split_ifs <;> rfl
  | some e =>
    have at_j : e.outlet = j := of_decide_eq_true (List.find?_some (p := fun e : Entry => decide (e.outlet = j)) found)
    rw [Option.map_some, at_j]
    split_ifs <;> rfl

theorem Entry.outlet_grant (e : Entry) : e.grant.outlet = e.outlet := by
  unfold Entry.grant
  split_ifs <;> rfl

theorem Entry.outlet_preempt (e : Entry) : e.preempt.outlet = e.outlet := by
  unfold Entry.preempt
  split_ifs <;> rfl

theorem Entry.outlet_suspendHeld (e : Entry) : e.suspendHeld.outlet = e.outlet := by
  unfold Entry.suspendHeld
  split_ifs <;> rfl

theorem Entry.outlet_advance (e : Entry) : e.advance.outlet = e.outlet := by
  unfold Entry.advance
  split_ifs <;> rfl

theorem Entry.outlet_noticed (e : Entry) : e.noticed.outlet = e.outlet := by
  unfold Entry.noticed
  split_ifs <;> rfl

theorem Entry.outlet_finish (e : Entry) : e.finish.outlet = e.outlet := by
  unfold Entry.finish
  split_ifs <;> rfl

/-! ## Beside an outlet -/

/-- A story as the outlets other than one find it after a change: a CLOSING one may have become CLOSED. -/
structure Story.Beside (x y : Story) (o : Fin 24) : Prop where
  entries : ∀ j, j ≠ o → y.entryOn j = x.entryOn j
  taken : y.taken = x.taken
  priority : y.priority = x.priority
  state : y.state = x.state ∨ x.state = .closing ∧ y.state = .closed

theorem Story.Beside.refl (x : Story) (o : Fin 24) : x.Beside x o := ⟨fun _ _ => rfl, rfl, rfl, .inl rfl⟩

theorem Story.Beside.trans {x y z : Story} (h : x.Beside y o) (g : y.Beside z o) : x.Beside z o where
  entries j other := (g.entries j other).trans (h.entries j other)
  taken := g.taken.trans h.taken
  priority := g.priority.trans h.priority
  state := by
    rcases h.state with same | ⟨closing, closed⟩
    · rw [← same]
      exact g.state
    · refine .inr ⟨closing, ?_⟩
      rcases g.state with same | ⟨closing', _⟩
      · exact same.trans closed
      · rw [closed] at closing'
        cases closing'

/-- What a change made for one outlet leaves of the others' records. -/
structure State.Beside (s u : State) (o : Fin 24) : Prop where
  pages : u.pages = s.pages
  outlets : ∀ j, j ≠ o → u.outlet j = s.outlet j
  circuits : ∀ c, lineOutlet c ≠ o → u.circuit c = s.circuit c
  controls : ∀ c, lineOutlet c ≠ o → u.control c = s.control c
  ports : ∀ p, terminalOutlet p ≠ o → u.port p = s.port p
  stories : ∀ k, (s.story k).Beside (u.story k) o
  owes : ∀ p, (framerOf (.terminal p) u).outstanding = (framerOf (.terminal p) s).outstanding

theorem State.Beside.refl (s : State) (o : Fin 24) : s.Beside s o :=
  ⟨rfl, fun _ _ => rfl, fun _ _ => rfl, fun _ _ => rfl, fun _ _ => rfl, fun _ => .refl _ o, fun _ => rfl⟩

theorem State.Beside.trans (h : s.Beside u o) (g : u.Beside v o) : s.Beside v o where
  pages := g.pages.trans h.pages
  outlets j other := (g.outlets j other).trans (h.outlets j other)
  circuits c other := (g.circuits c other).trans (h.circuits c other)
  controls c other := (g.controls c other).trans (h.controls c other)
  ports p other := (g.ports p other).trans (h.ports p other)
  stories k := (h.stories k).trans (g.stories k)
  owes p := (g.owes p).trans (h.owes p)

/-- A change made for one outlet lets an outstanding write be taken, or leaves the others' records. -/
def State.ActsFor (s u : State) (o : Fin 24) : Prop := u.owing < s.owing ∨ s.Beside u o

namespace State.ActsFor

theorem refl (s : State) (o : Fin 24) : s.ActsFor s o := .inr (.refl s o)

theorem trans (h : s.ActsFor u o) (g : u.ActsFor v o) : s.ActsFor v o := by
  rcases h with less | beside <;> rcases g with less' | beside'
  · exact .inl (less'.trans less)
  · exact .inl ((owing_congr beside'.owes).trans_lt less)
  · exact .inl (less'.trans_eq (owing_congr beside.owes))
  · exact .inr (beside.trans beside')

/-! ### Writes -/

theorem modOutlet (h : s.ActsFor u o) {f : Outlet → Outlet} : s.ActsFor (u.modOutlet o f) o :=
  h.trans (.inr { State.Beside.refl u o with
    outlets := fun _ other => (State.outlet_modOutlet ..).trans (if_neg other) })

theorem modStory (h : s.ActsFor u o) {f : Story → Story} (beside : (u.story k).Beside (f (u.story k)) o) :
    s.ActsFor (u.modStory k f) o := by
  refine h.trans (.inr { State.Beside.refl u o with stories := fun j => ?_ })
  rw [State.story_modStory]
  split_ifs with here
  · rw [here]
    exact ⟨beside.entries, beside.taken, beside.priority, beside.state⟩
  · exact .refl _ o

theorem modEntry (h : s.ActsFor u o) {f : Entry → Entry} (keeps : ∀ e, (f e).outlet = e.outlet) :
    s.ActsFor (u.modStory k fun x => x.modEntry o f) o :=
  h.modStory ⟨fun _ other => (entryOn_modEntry _ o _ keeps).trans (if_neg other), rfl, rfl, .inl rfl⟩

theorem modControl (h : s.ActsFor u o) {c : Fin 16} {f : Control → Control} (own : o = lineOutlet c) :
    s.ActsFor (u.modControl c f) o :=
  h.trans (.inr { State.Beside.refl u o with
    controls := fun d other => (State.control_modControl ..).trans
      (if_neg fun same : d = c => other (by rw [same, own])) })

theorem modCircuit (h : s.ActsFor u o) {c : Fin 16} {f : Circuit → Circuit} (own : o = lineOutlet c) :
    s.ActsFor (u.modCircuit c f) o :=
  h.trans (.inr { State.Beside.refl u o with
    circuits := fun d other => (State.circuit_modCircuit ..).trans
      (if_neg fun same : d = c => other (by rw [same, own])) })

theorem modPort (h : s.ActsFor u o) {p : Fin 8} {f : Port → Port} (own : o = terminalOutlet p) :
    s.ActsFor (u.modPort p f) o :=
  h.trans (.inr { State.Beside.refl u o with
    ports := fun q other => (State.port_modPort ..).trans (if_neg fun same : q = p => other (by rw [same, own])) })

theorem raise (h : s.ActsFor u o) {f : Flag} : s.ActsFor (u.raise f) o := h.trans (.inr { State.Beside.refl u o with })

theorem offerWrite (h : s.ActsFor u o) : s.ActsFor (offerWrite k u) o := by
  rcases offerWrite_taken_or_same k u with same | ⟨p, _, before, after, offers⟩
  · rw [same]
    exact h
  · exact h.trans (.inl (offers.owing_lt before after))

theorem quietTestOutlet (h : s.ActsFor u o) : s.ActsFor (quietTestOutlet o u) o := by
  refine h.trans (.inr ?_)
  rw [quietTestOutlet_frame]
  exact { State.Beside.refl u o with
    circuits := fun c other => (quietTestOutlet_circuit o u c).2 (.inl (Ne.symm other)) }

theorem closeIfDone (h : s.ActsFor u o) : s.ActsFor (closeIfDone k u) o := by
  unfold Machine.closeIfDone
  split_ifs with due
  · exact (h.modStory ⟨fun _ _ => rfl, rfl, rfl, .inr ⟨due.1, rfl⟩⟩).raise
  · exact h

theorem afterCut (h : s.ActsFor u o) : s.ActsFor (afterCut k o u) o := h.closeIfDone.quietTestOutlet.offerWrite

/-! ### Units -/

theorem oweItem (h : s.ActsFor u o) {kind : OwedKind} : s.ActsFor (oweItem o kind k u) o := by
  unfold Machine.oweItem
  split
  · exact h.modOutlet
  · exact h

theorem grant (h : s.ActsFor u o) : s.ActsFor (grant o k u) o := (h.modEntry Entry.outlet_grant).modOutlet

theorem preempt (h : s.ActsFor u o) : s.ActsFor (preempt o k u) o := by
  unfold Machine.preempt
  dsimp only
  split
  · exact (h.modEntry Entry.outlet_preempt).modOutlet.oweItem
  · exact (h.modEntry Entry.outlet_preempt).modOutlet

theorem arbitrate (h : s.ActsFor u o) : s.ActsFor (arbitrate o u) o := by
  unfold Machine.arbitrate
  split
  · exact h
  · exact h.grant
  · exact h.preempt.grant

theorem suspendCaughtUp (h : s.ActsFor u o) : s.ActsFor (suspendCaughtUp o u) o := by
  unfold Machine.suspendCaughtUp
  split
  · exact h
  · split
    · exact (h.modEntry Entry.outlet_suspendHeld).modOutlet.oweItem
    · exact h

theorem beginUnit (h : s.ActsFor u o) {kind : UnitKind} {l : List Office} : s.ActsFor (beginUnit o kind l u) o :=
  h.modOutlet

theorem beginItem (h : s.ActsFor u o) {i : OwedItem} {l : List OwedItem} : s.ActsFor (beginItem o i l u) o :=
  h.modOutlet.modOutlet

theorem beginHolder (h : s.ActsFor u o) {e : Entry} : s.ActsFor (beginHolder o k e u) o := by
  unfold Machine.beginHolder
  dsimp only
  split
  · exact h.beginUnit
  · split
    · split
      · exact (h.modEntry Entry.outlet_advance).beginUnit.offerWrite
      · exact h
    · split
      · exact h.beginUnit
      · exact h

theorem beginCarried (h : s.ActsFor u o) : s.ActsFor (beginCarried o u) o := by
  unfold Machine.beginCarried
  dsimp only
  split
  · exact h.arbitrate.beginItem
  · split
    · exact h.arbitrate
    · split
      · exact h.arbitrate.beginHolder
      · exact h.arbitrate

theorem takeBoundary (h : s.ActsFor u o) : s.ActsFor (takeBoundary o u) o := by
  unfold Machine.takeBoundary
  dsimp only
  split
  · exact h.suspendCaughtUp.beginUnit
  · split
    · exact h.suspendCaughtUp.beginItem
    · split
      · exact h.suspendCaughtUp.beginUnit
      · exact h.suspendCaughtUp.beginCarried

theorem unitRecord (h : s.ActsFor u o) {kind : UnitKind} : s.ActsFor (unitRecord o kind u) o := by
  unfold Machine.unitRecord
  split
  · exact h
  · exact h
  · unfold State.modCarried
    split
    · exact h.modEntry Entry.outlet_noticed
    · exact h
  · unfold Machine.claimDone
    split
    · exact (h.modEntry Entry.outlet_finish).modOutlet.afterCut
    · exact h
  · unfold Machine.emptyReply
    split
    · next terminal => exact h.modPort (terminalOutlet_of terminal)
    · exact h
  · exact h.modOutlet

theorem completeUnit (h : s.ActsFor u o) {x : OutUnit} : s.ActsFor (completeUnit o x u) o := by
  rw [completeUnit_eq]
  exact (h.modOutlet (f := fun y => y.unitDone x)).unitRecord

/-! ### Driving -/

theorem setOutletState (h : s.ActsFor u o) {x : OutletState} : s.ActsFor (setOutletState o x u) o := h.modOutlet

theorem pauseOutlet (h : s.ActsFor u o) : s.ActsFor (pauseOutlet o u) o := by
  unfold Machine.pauseOutlet
  split
  · exact h
  · exact h.setOutletState

theorem fallIdle (h : s.ActsFor u o) : s.ActsFor (fallIdle o u) o := by
  unfold Machine.fallIdle
  dsimp only
  split
  · next line => exact h.setOutletState.modControl (lineOutlet_of line)
  · exact h.setOutletState

theorem convertNext (h : s.ActsFor u o) {x : OutUnit} : s.ActsFor (convertNext o x u) o := by
  unfold Machine.convertNext
  split
  · exact h.modOutlet
  · exact h

theorem handOver (h : s.ActsFor u o) {x : OutUnit} : s.ActsFor (handOver o x u) o := by
  unfold Machine.handOver
  split
  · next line =>
    split
    · exact (h.modCircuit (lineOutlet_of line)).modOutlet
    · exact h
  · next terminal =>
    split
    · exact (h.modPort (terminalOutlet_of terminal)).modOutlet
    · exact h
  · exact h

theorem drive {n : Nat} (h : s.ActsFor u o) : s.ActsFor (drive n o u) o := by
  induction n generalizing u with
  | zero => exact h
  | succ n ih =>
    unfold Machine.drive
    dsimp only
    split
    · split
      · exact h.pauseOutlet
      · split
        · exact ih h.takeBoundary.setOutletState
        · exact h.takeBoundary.fallIdle
    · split
      · exact ih h.completeUnit
      · split
        · exact h.pauseOutlet
        · split
          · exact h.setOutletState
          · split
            · exact ih h.setOutletState.convertNext
            · exact h.setOutletState.handOver

theorem goOn (h : s.ActsFor u o) : s.ActsFor (goOn o u) o := h.drive

theorem lineGainsWork (h : s.ActsFor u o) {c : Fin 16} (own : o = lineOutlet c) :
    s.ActsFor (lineGainsWork o c u) o := by
  unfold Machine.lineGainsWork
  dsimp only
  split
  · split
    · exact ((h.modControl own).setOutletState.arbitrate.modControl own).goOn
    · exact (h.modControl own).setOutletState.arbitrate
  · exact (h.modControl own).goOn

theorem gainWork (h : s.ActsFor u o) : s.ActsFor (gainWork o u) o := by
  unfold Machine.gainWork clearFill
  cases line : outletCircuit o with
  | none => exact h.goOn
  | some c => exact (h.modControl (lineOutlet_of line)).lineGainsWork (lineOutlet_of line)

theorem leavePause (h : s.ActsFor u o) : s.ActsFor (leavePause o u) o := by
  unfold Machine.leavePause
  split
  · split
    · exact h.completeUnit
    · exact h
  · split
    · exact h.setOutletState
    · exact h.goOn

end State.ActsFor

/-- A reaction of an outlet lets an outstanding write be taken, or leaves the other outlets' records. -/
theorem react_actsFor (o : Fin 24) (s : State) : s.ActsFor (react o s) o := by
  have start := State.ActsFor.refl s o
  unfold react
  split
  · exact start
  · exact start
  · exact start.gainWork
  · exact start.goOn
  · exact start.goOn
  · exact start.leavePause

/-! ## What the others read -/

/-- Beside an outlet, the others read what they read before. -/
theorem State.Beside.readAlike {j : Fin 24} (h : s.Beside u o) (ok : u.TableOk) (other : j ≠ o) :
    s.ReadAlike u j := by
  have outlet := h.outlets j other
  have eligible (k : Fin 48) : u.eligible j k = s.eligible j k := by
    have held : (u.story k).state ≠ .held ↔ (s.story k).state ≠ .held := by
      rcases (h.stories k).state with same | ⟨closing, closed⟩
      · rw [same]
      · rw [closing, closed]
        exact iff_of_true nofun nofun
    unfold State.eligible State.entry
    rw [(h.stories k).entries j other, decide_eq_decide.2 held]
  have rank (k : Fin 48) : (u.story k).rank = (s.story k).rank := by
    unfold Story.rank
    rw [(h.stories k).priority]
  refine ⟨by rw [outlet], by rw [outlet], by rw [outlet], by rw [outlet], by rw [outlet], ?sends, ?reply, ?pause,
    ?lead, .inr ⟨?own, ?busy⟩, eligible, fun k _ => rank k, ?works⟩
  case works =>
    unfold State.holderWorks State.entry
    rw [outlet]
    cases holds : (s.outlet j).holder with
    | none => rfl
    | some k =>
      have holds' : (u.outlet j).holder = some k := by rw [outlet, holds]
      obtain ⟨e, mem, _, carrying⟩ := ok.holderEntry holds'
      have state : (u.story k).state = (s.story k).state := by
        refine (h.stories k).state.resolve_right fun ⟨_, closed⟩ => ?_
        have dead := (ok.stories k).closed closed
        unfold Story.anyLive at dead
        rw [List.any_eq_false] at dead
        exact dead e mem (by rw [carrying]; rfl)
      dsimp only
      rw [(h.stories k).entries j other]
      unfold holderWork
      rw [(h.stories k).taken, state]
  all_goals rcases line_or_terminal j with ⟨c, rfl⟩ | ⟨p, rfl⟩
  case sends.inl => exact sends_line c h.pages (by rw [h.circuits c other])
  case sends.inr => exact sends_terminal p
  case reply.inl => rw [replyOf_line, replyOf_line]
  case reply.inr => rw [replyOf_terminal, replyOf_terminal, h.ports p other]
  case pause.inl => rw [pauseCause_line, pauseCause_line, h.controls c other, h.circuits c other]
  case pause.inr => rw [pauseCause_terminal, pauseCause_terminal, h.ports p other]
  case lead.inl => rw [leadDone_line, leadDone_line, h.controls c other]
  case lead.inr => rw [leadDone_terminal, leadDone_terminal]
  case own.inl => rw [ownBusy_line, ownBusy_line, h.circuits c other]
  case own.inr => rw [ownBusy_terminal, ownBusy_terminal, h.ports p other]
  case busy.inl => rw [lineBusy_line, lineBusy_line, h.circuits c other]
  case busy.inr => rw [lineBusy_terminal, lineBusy_terminal, h.ports p other]

end Sys2Proof.Machine

/-! PROOF. How much an outlet can still find to send (R114, R121): a number that no operation of its service raises,
so that an outlet's drive ends. -/

namespace Sys2Proof.Machine

variable {s t u v : State} {o : Fin 24} {k : Fin 48}

/-! ## The measure -/

/-- What preempting is worth to a story: more than the notices a preemption adds, by each rank it may pass (R127). -/
def Story.claim (x : Story) : Nat := 3 * (2 - x.rank)

/-- What an entry may still make its outlet find: its end, its text, one write more where one is outstanding, its
notice, its hold mark with the item that follows, and a preemption. -/
def Entry.backlog (e : Entry) (x : Story) (waits : Bool) : Nat :=
  if e.state.live then
    1 + (x.taken - e.read) + (if waits then 128 else 0) + (if e.owed = .none then 0 else 1)
      + (if e.holdMark then 2 else 0) + (if e.state.grantable then x.claim else 0)
  else 0

/-- A write of the story's source is outstanding. -/
def State.offering (s : State) (k : Fin 48) : Bool := (framerOf (s.story k).source s).outstanding.isSome

/-- What a story's entry on an outlet may still make it find. -/
def State.slotBacklog (s : State) (o : Fin 24) (k : Fin 48) : Nat :=
  (s.entry o k).elim 0 fun e => e.backlog (s.story k) (s.offering k)

/-- What an outlet owes by itself: its items and its answerback. -/
def Outlet.dues (x : Outlet) : Nat := x.owed.length + if x.answerbackOwed then 1 else 0

/-- What an outlet may still find to send. -/
def State.backlog (s : State) (o : Fin 24) : Nat :=
  (∑ k, s.slotBacklog o k) + (s.outlet o).dues + if (s.replyOf o).isSome then 1 else 0

/-! ## Its bound -/

theorem Entry.backlog_le {e : Entry} {x : Story} (ok : e.Ok x) (waits : Bool) : e.backlog x waits ≤ 266 := by
  unfold Entry.backlog
  by_cases live : e.state.live = true
  · have reach := ok.reach live
    unfold Config.windowSize at reach
    rw [if_pos live]
    unfold Story.claim
    split_ifs <;> omega
  · rw [if_neg live]
    exact Nat.zero_le _

theorem slotBacklog_le (ok : s.TableOk) (o : Fin 24) (k : Fin 48) : s.slotBacklog o k ≤ 266 := by
  unfold State.slotBacklog
  cases entry : s.entry o k with
  | none => exact Nat.zero_le _
  | some e => exact Entry.backlog_le ((ok.stories k).entries e (List.mem_of_find?_eq_some entry)) _

/-- In a consistent state an outlet's backlog is bounded, far below the fuel of a drive. -/
theorem backlog_le (ok : s.TableOk) (o : Fin 24) : s.backlog o ≤ 12818 := by
  have slots : ∑ k, s.slotBacklog o k ≤ ∑ _k : Fin 48, 266 := Finset.sum_le_sum fun k _ => slotBacklog_le ok o k
  have items : (s.outlet o).owed.length ≤ 48 := by
    have length := (ok.outlets o).owesOnce.length_le_card
    simpa using length
  rw [Finset.sum_const, Finset.card_univ, Fintype.card_fin, smul_eq_mul] at slots
  unfold State.backlog Outlet.dues
  split_ifs <;> omega

/-! ## One slot changed -/

/-- A sum changes by no more than the one of its terms that does. -/
theorem sum_le_of_one {ι : Type} [Fintype ι] [DecidableEq ι] {f g : ι → Nat} {a b : Nat} (k : ι)
    (others : ∀ j, j ≠ k → g j ≤ f j)
    (here : g k + a ≤ f k + b) : (∑ j, g j) + a ≤ (∑ j, f j) + b := by
  have rest : ∑ j ∈ Finset.univ.erase k, g j ≤ ∑ j ∈ Finset.univ.erase k, f j :=
    Finset.sum_le_sum fun j mem => others j (Finset.ne_of_mem_erase mem)
  rw [← Finset.add_sum_erase _ g (Finset.mem_univ k), ← Finset.add_sum_erase _ f (Finset.mem_univ k)]
  omega

theorem slotBacklog_eq {e : Entry} (entry : s.entry o k = some e) :
    s.slotBacklog o k = e.backlog (s.story k) (s.offering k) := by
  unfold State.slotBacklog
  rw [entry]
  rfl

theorem entry_modEntry (k j : Fin 48) {f : Entry → Entry} (keeps : ∀ e, (f e).outlet = e.outlet) :
    (s.modStory k fun x => x.modEntry o f).entry o j = if j = k then (s.entry o j).map f else s.entry o j := by
  unfold State.entry
  rw [State.story_modStory]
  split_ifs with here
  · rw [here]
    exact (entryOn_modEntry (s.story k) o o keeps).trans (if_pos rfl)
  · rfl

theorem Entry.backlog_congr {x y : Story} (taken : y.taken = x.taken) (priority : y.priority = x.priority)
    (e : Entry) (waits : Bool) : e.backlog y waits = e.backlog x waits := by
  unfold Entry.backlog Story.claim Story.rank
  rw [taken, priority]

/-- A change of one story's record that keeps its entries on the outlet, its text, priority and source. -/
theorem backlog_modStory {f : Story → Story} (entries : (f (s.story k)).entryOn o = (s.story k).entryOn o)
    (taken : (f (s.story k)).taken = (s.story k).taken) (priority : (f (s.story k)).priority = (s.story k).priority)
    (source : (f (s.story k)).source = (s.story k).source) : (s.modStory k f).backlog o = s.backlog o := by
  have slot (j : Fin 48) : (s.modStory k f).slotBacklog o j = s.slotBacklog o j := by
    by_cases here : j = k
    · subst here
      have story : (s.modStory j f).story j = { f (s.story j) with changed := true } :=
        (State.story_modStory ..).trans (if_pos rfl)
      unfold State.slotBacklog State.entry State.offering
      rw [story]
      have entry : ({ f (s.story j) with changed := true } : Story).entryOn o = (s.story j).entryOn o := entries
      have framer : framerOf ({ f (s.story j) with changed := true } : Story).source (s.modStory j f)
          = framerOf (s.story j).source s := congrArg (fun src => framerOf src s) source
      rw [entry, framer]
      exact congrArg (Option.elim _ 0) (funext fun e => Entry.backlog_congr taken priority e _)
    · have story : (s.modStory k f).story j = s.story j := by rw [State.story_modStory, if_neg here]
      unfold State.slotBacklog State.entry State.offering
      rw [story]
      rfl
  unfold State.backlog
  simp only [slot]
  rfl

/-- One entry on the outlet changed. -/
theorem backlog_modEntry {f : Entry → Entry} {e : Entry} {a b : Nat} (entry : s.entry o k = some e)
    (keeps : ∀ e, (f e).outlet = e.outlet)
    (changes : ∀ waits, (f e).backlog (s.story k) waits + a ≤ e.backlog (s.story k) waits + b) :
    (s.modStory k fun x => x.modEntry o f).backlog o + a ≤ s.backlog o + b := by
  have story : (s.modStory k fun x => x.modEntry o f).story k
      = { (s.story k).modEntry o f with changed := true } :=
    (State.story_modStory ..).trans (if_pos rfl)
  have here : (s.modStory k fun x => x.modEntry o f).slotBacklog o k + a ≤ s.slotBacklog o k + b := by
    have after : (s.modStory k fun x => x.modEntry o f).entry o k = some (f e) := by
      rw [entry_modEntry k k keeps, if_pos rfl, entry]
      rfl
    have waits : (s.modStory k fun x => x.modEntry o f).offering k = s.offering k := by
      unfold State.offering
      rw [story]
      rfl
    rw [slotBacklog_eq entry, slotBacklog_eq after, waits, story,
      Entry.backlog_congr (x := s.story k) rfl rfl]
    exact changes _
  have others (j : Fin 48) (other : j ≠ k) :
      (s.modStory k fun x => x.modEntry o f).slotBacklog o j ≤ s.slotBacklog o j := by
    have same : (s.modStory k fun x => x.modEntry o f).story j = s.story j := by
      rw [State.story_modStory, if_neg other]
    unfold State.slotBacklog State.entry State.offering
    rw [same]
    rfl
  have slots := sum_le_of_one k others here
  have reply : (s.modStory k fun x => x.modEntry o f).replyOf o = s.replyOf o := rfl
  have dues : ((s.modStory k fun x => x.modEntry o f).outlet o).dues = (s.outlet o).dues := rfl
  unfold State.backlog
  rw [reply, dues]
  omega

/-- The outlet's own record changed. -/
theorem backlog_modOutlet {f : Outlet → Outlet} :
    (s.modOutlet o f).backlog o + (s.outlet o).dues = s.backlog o + (f (s.outlet o)).dues := by
  have slots (j : Fin 48) : (s.modOutlet o f).slotBacklog o j = s.slotBacklog o j := rfl
  have reply : (s.modOutlet o f).replyOf o = s.replyOf o := rfl
  unfold State.backlog
  rw [State.outlet_modOutlet_self, reply]
  simp only [slots]
  omega

theorem backlog_modOutlet_same {f : Outlet → Outlet} (dues : (f (s.outlet o)).dues = (s.outlet o).dues) :
    (s.modOutlet o f).backlog o = s.backlog o := by
  have changes := backlog_modOutlet (s := s) (o := o) (f := f)
  omega

theorem length_addItem_le (i : OwedItem) (l : List OwedItem) : (addItem i l).length ≤ l.length + 1 := by
  unfold addItem
  split_ifs
  · rw [List.length_map]
    omega
  · rw [List.length_append, List.length_singleton]

theorem backlog_oweItem {kind : OwedKind} : (oweItem o kind k s).backlog o ≤ s.backlog o + 1 := by
  unfold oweItem
  split_ifs
  · have changes := backlog_modOutlet (s := s) (o := o)
      (f := fun x => { x with owed := addItem ⟨kind, k⟩ x.owed })
    have length := length_addItem_le ⟨kind, k⟩ (s.outlet o).owed
    unfold Outlet.dues at changes
    dsimp only at changes
    omega
  · omega

/-! ## An outstanding write offered -/

theorem Entry.backlog_mono {e : Entry} {x : Story} {waits waits' : Bool} (more : waits = true → waits' = true) :
    e.backlog x waits ≤ e.backlog x waits' := by
  unfold Entry.backlog
  cases waits with
  | false =>
    simp only [Bool.false_eq_true, if_false]
    split_ifs <;> omega
  | true => rw [more rfl]

/-- A write taken leaves an entry at most a window of text to read (R83). -/
theorem Entry.backlog_taken {e : Entry} {x y : Story} (claim : y.claim = x.claim)
    (reach : e.state.live = true → y.taken ≤ e.read + 128) : e.backlog y false ≤ e.backlog x true := by
  unfold Entry.backlog
  rw [claim]
  simp only [Bool.false_eq_true, if_false, if_true]
  by_cases live : e.state.live = true
  · have bound := reach live
    rw [if_pos live, if_pos live]
    omega
  · rw [if_neg live, if_neg live]

/-- A write taken leaves no more behind an entry than was allowed for it (R85). -/
theorem backlog_offerWrite (ok : (offerWrite k s).TableOk) : (offerWrite k s).backlog o ≤ s.backlog o := by
  have reacted : s.Reacted (offerWrite k s) := (State.Reacted.refl s).offerWrite
  rcases offerWrite_taken_or_same k s with same | ⟨p, source, before, after, offers⟩
  · rw [same]
  generalize offerWrite k s = u at *
  have entry (j : Fin 48) : u.entry o j = s.entry o j := by
    unfold State.entry Story.entryOn
    by_cases here : j = k
    · rw [here, offers.entries]
    · rw [offers.others j here]
  have others (j : Fin 48) (other : j ≠ k) : u.slotBacklog o j ≤ s.slotBacklog o j := by
    have waits : u.offering j = true → s.offering j = true := by
      unfold State.offering
      rw [offers.others j other]
      by_cases own : (s.story j).source = .terminal p
      · rw [own, after]
        nofun
      · rw [offers.framers _ own]
        exact id
    unfold State.slotBacklog
    rw [entry, offers.others j other]
    cases s.entry o j with
    | none => exact le_rfl
    | some e =>
      exact Entry.backlog_mono waits
  have here : u.slotBacklog o k ≤ s.slotBacklog o k := by
    have waits : s.offering k = true := by
      unfold State.offering
      rw [source]
      exact Option.isSome_iff_ne_none.2 before
    have done : u.offering k = false := by
      unfold State.offering
      rw [offers.source, source, after]
      rfl
    have claim : (u.story k).claim = (s.story k).claim := by
      have identity := congrArg Story.priority (reacted.stories k).identity
      have priority : (u.story k).priority = (s.story k).priority := identity
      unfold Story.claim Story.rank
      rw [priority]
    unfold State.slotBacklog
    rw [entry, waits, done]
    cases found : s.entry o k with
    | none => exact le_rfl
    | some e =>
      have mem : e ∈ (u.story k).entries := List.mem_of_find?_eq_some ((entry k).trans found)
      have reach := ((ok.stories k).entries e mem).reach
      exact Entry.backlog_taken claim reach
  have slots := sum_le_of_one (a := 0) (b := 0) k others (by omega)
  have outlet : u.outlet o = s.outlet o := by
    rw [offers.frame]
    rfl
  have reply : (u.replyOf o).isSome = true → (s.replyOf o).isSome = true := by
    rcases line_or_terminal o with ⟨c, rfl⟩ | ⟨q, rfl⟩
    · rw [replyOf_line]
      nofun
    · rw [replyOf_terminal, replyOf_terminal]
      rcases (reacted.ports q).reply with same | none_
      · rw [same]
        exact id
      · rw [none_]
        nofun
  unfold State.backlog
  rw [outlet]
  split_ifs <;> simp_all
  omega

end Sys2Proof.Machine

/-! PROOF. What a unit boundary and a unit's completion take from an outlet's backlog (R120, R121). -/

namespace Sys2Proof.Machine

variable {s t u v : State} {o : Fin 24} {h k w : Fin 48}

/-! ## Entries -/

theorem Entry.backlog_suspendHeld {e : Entry} (x : Story) (waits : Bool) (carrying : e.state = .carrying)
    (marked : e.holdMark = true) : e.suspendHeld.backlog x waits + 2 ≤ e.backlog x waits := by
  unfold Entry.suspendHeld
  rw [if_pos carrying]
  simp [Entry.backlog, carrying, marked, EntryState.live, EntryState.grantable]

/-- A preemption adds the entry's own claim and the notice of its resumption (R127). -/
theorem Entry.backlog_preempt {e : Entry} (x : Story) (waits : Bool) (carrying : e.state = .carrying) :
    e.preempt.backlog x waits ≤ e.backlog x waits + (x.claim + 1) := by
  unfold Entry.preempt
  rw [if_pos carrying]
  unfold Entry.backlog
  simp only [carrying, EntryState.live, EntryState.grantable, if_true, Bool.false_eq_true, if_false]
  by_cases none_ : e.owed = .none <;> cases e.holdMark <;> simp [none_] <;> omega

theorem Entry.backlog_grant {e : Entry} (x : Story) (waits : Bool) (grantable : e.state.grantable = true) :
    e.grant.backlog x waits + x.claim = e.backlog x waits := by
  have live : e.state.live = true := by
    cases state : e.state <;> simp_all [EntryState.grantable, EntryState.live]
  have carried : EntryState.carrying.live = true ∧ EntryState.carrying.grantable = false := ⟨rfl, rfl⟩
  unfold Entry.grant
  rw [if_pos live]
  unfold Entry.backlog
  simp only [live, grantable, carried, if_true, Bool.false_eq_true, if_false]
  omega

theorem Entry.backlog_advance {e : Entry} {x : Story} (waits : Bool) (carrying : e.state = .carrying)
    (behind : e.read < x.taken) : e.advance.backlog x waits + 1 = e.backlog x waits := by
  unfold Entry.advance
  rw [if_pos carrying]
  simp only [Entry.backlog, carrying, EntryState.live, if_true]
  omega

theorem Entry.backlog_noticed_le (e : Entry) (x : Story) (waits : Bool) :
    e.noticed.backlog x waits ≤ e.backlog x waits := by
  unfold Entry.noticed
  split_ifs with carrying
  · simp only [Entry.backlog, if_true]
    split_ifs <;> omega
  · exact le_rfl

theorem Entry.backlog_noticed {e : Entry} (x : Story) (waits : Bool) (carrying : e.state = .carrying)
    (owed : e.owed ≠ .none) : e.noticed.backlog x waits + 1 = e.backlog x waits := by
  unfold Entry.noticed
  rw [if_pos carrying]
  simp only [Entry.backlog, carrying, EntryState.live, if_true, if_neg owed]
  omega

theorem Entry.backlog_finish {e : Entry} (x : Story) (waits : Bool) (carrying : e.state = .carrying) :
    e.finish.backlog x waits + 1 ≤ e.backlog x waits := by
  unfold Entry.finish
  rw [if_pos carrying]
  simp only [Entry.backlog, carrying, EntryState.live, if_true, Bool.false_eq_true, if_false]
  omega

/-- A holder's entry is found, and CARRYING. -/
theorem State.TableOk.entry_holder (ok : s.TableOk) (holds : (s.outlet o).holder = some h) :
    ∃ e, s.entry o h = some e ∧ e.state = .carrying := by
  obtain ⟨e, mem, at_o, carrying⟩ := ok.holderEntry holds
  exact ⟨e, ok.entry_eq mem at_o, carrying⟩

/-! ## Before a unit begins -/

theorem backlog_suspendCaughtUp (ok : s.TableOk) : (suspendCaughtUp o s).backlog o ≤ s.backlog o := by
  unfold suspendCaughtUp
  cases holds : (s.outlet o).holder with
  | none => exact le_rfl
  | some h =>
    obtain ⟨e, entry, carrying⟩ := ok.entry_holder holds
    dsimp only
    split_ifs with due
    · rw [entry, Option.any_some, Bool.and_eq_true] at due
      have suspends := backlog_modEntry (b := 0) entry Entry.outlet_suspendHeld fun waits =>
        Entry.backlog_suspendHeld (s.story h) waits carrying due.1
      have leaves := backlog_modOutlet_same (o := o) (f := fun x => x.suspend h)
        (s := s.modStory h fun x => x.modEntry o Entry.suspendHeld) rfl
      have owes := backlog_oweItem (o := o) (k := h) (kind := .held)
        (s := (s.modStory h fun x => x.modEntry o Entry.suspendHeld).modOutlet o fun x => x.suspend h)
      omega
    · exact le_rfl

theorem backlog_preempt (ok : s.TableOk) (holds : (s.outlet o).holder = some h) :
    (preempt o h s).backlog o ≤ s.backlog o + ((s.story h).claim + 2) := by
  obtain ⟨e, entry, carrying⟩ := ok.entry_holder holds
  have suspends := backlog_modEntry (a := 0) entry Entry.outlet_preempt fun waits =>
    Entry.backlog_preempt (s.story h) waits carrying
  have leaves := backlog_modOutlet_same (o := o) (f := fun x => x.suspend h)
    (s := s.modStory h fun x => x.modEntry o Entry.preempt) rfl
  have owes := backlog_oweItem (o := o) (k := h) (kind := .breakIn)
    (s := (s.modStory h fun x => x.modEntry o Entry.preempt).modOutlet o fun x => x.suspend h)
  unfold preempt
  dsimp only
  split_ifs <;> omega

theorem backlog_grant (elig : s.eligible o w = true) :
    (grant o w s).backlog o + (s.story w).claim ≤ s.backlog o := by
  unfold State.eligible at elig
  obtain ⟨e, entry, grantable⟩ := (Option.any_eq_true ..).1 (Bool.and_eq_true_iff.1 elig).1
  have grants := backlog_modEntry (b := 0) entry Entry.outlet_grant fun waits =>
    (Entry.backlog_grant (s.story w) waits grantable).le
  have leaves := backlog_modOutlet_same (o := o)
    (f := fun x => { x with waiting := x.waiting.filter (fun j => j ≠ w), holder := some w })
    (s := s.modStory w fun x => x.modEntry o Entry.grant) rfl
  unfold grant
  omega

/-- A grant adds nothing, nor does a preemption for a story of a higher priority (R126, R127). -/
theorem backlog_arbitrate (ok : s.TableOk) : (arbitrate o s).backlog o ≤ s.backlog o := by
  cases win : s.winner o with
  | none => rw [arbitrate_of_no_winner win]
  | some w =>
    have elig := (State.winner_mem win).2
    cases holds : (s.outlet o).holder with
    | none =>
      rw [arbitrate_of_no_holder win holds]
      have grants := backlog_grant elig
      omega
    | some h =>
      cases yields : s.preempts w h with
      | false => rw [arbitrate_of_holder_kept win holds yields]
      | true =>
        rw [arbitrate_of_holder_yields win holds yields]
        have outranks := of_decide_eq_true yields
        have ne : w ≠ h := by
          rintro rfl
          exact lt_irrefl _ outranks.2
        have suspends := backlog_preempt ok holds
        have grants := backlog_grant ((eligible_preempt_other (s := s) ne).trans elig)
        rw [story_preempt_other ne] at grants
        unfold Story.claim at suspends grants
        omega

theorem backlog_beginUnit {kind : UnitKind} {l : List Office} : (beginUnit o kind l s).backlog o = s.backlog o :=
  backlog_modOutlet_same rfl

theorem backlog_beginItem {i : OwedItem} {rest : List OwedItem} (owed : (s.outlet o).owed = i :: rest) :
    (beginItem o i rest s).backlog o < s.backlog o := by
  have takes := backlog_modOutlet (s := s) (o := o) (f := fun x => { x with owed := rest })
  unfold Outlet.dues at takes
  dsimp only at takes
  rw [owed, List.length_cons] at takes
  unfold beginItem
  rw [backlog_beginUnit]
  omega

theorem backlog_beginText (ok : s.Consistent) (holds : (s.outlet o).holder = some h) {e : Entry}
    (entry : s.entry o h = some e) (behind : e.read < (s.story h).taken) (ch : Office) :
    (beginText o h ch s).backlog o < s.backlog o := by
  obtain ⟨d, found, carrying⟩ := ok.table.entry_holder holds
  obtain rfl : e = d := Option.some.inj (entry.symm.trans found)
  have advances := backlog_modEntry (b := 0) entry Entry.outlet_advance fun waits =>
    (Entry.backlog_advance (x := s.story h) waits carrying behind).le
  have ok' : (beginText o h ch s).TableOk := (ok.beginText entry behind).table
  unfold beginText at ok' ⊢
  dsimp only
  have offers := backlog_offerWrite (o := o) ok'
  rw [backlog_beginUnit] at offers
  omega

/-! ## A unit completed -/

/-- The completion of a unit records something that was owed (R120): it is not text or an item, which are paid for
as they begin. -/
def State.Settles (s : State) (o : Fin 24) : UnitKind → Prop
  | .text | .notice .item => False
  | .notice (.entry k) => (s.outlet o).holder = some k ∧ ∃ e, s.entry o k = some e ∧ e.owed ≠ .none
  | .notice (.closer k) => s.doneDue o k = true
  | .reply => (s.replyOf o).isSome = true
  | .answerback => (s.outlet o).answerbackOwed = true

theorem backlog_afterCut (ok : (afterCut k o s).TableOk) : (afterCut k o s).backlog o ≤ s.backlog o := by
  have closes : (closeIfDone k s).backlog o = s.backlog o := by
    unfold closeIfDone
    split_ifs
    · exact backlog_modStory (s := s) (o := o) (k := k)
        (f := fun st => { st with state := .closed, closed := some s.regs.clock }) rfl rfl rfl rfl
    · rfl
  have tests : (quietTestOutlet o (closeIfDone k s)).backlog o = (closeIfDone k s).backlog o := by
    rw [quietTestOutlet_frame]
    rfl
  have offers := backlog_offerWrite (o := o) ok
  unfold afterCut
  omega

theorem backlog_claimDone (ok : s.Consistent) : (claimDone o k s).backlog o ≤ s.backlog o
    ∧ (s.doneDue o k = true → (claimDone o k s).backlog o < s.backlog o) := by
  by_cases due : s.doneDue o k = true
  · have ok' : (claimDone o k s).TableOk := (ok.claimDone (o := o) (k := k)).table
    have holds : (s.outlet o).holder = some k := by
      unfold State.doneDue at due
      simp only [Bool.and_eq_true, decide_eq_true_eq] at due
      exact due.1.1
    obtain ⟨e, entry, carrying⟩ := ok.table.entry_holder holds
    have finishes := backlog_modEntry (b := 0) entry Entry.outlet_finish fun waits =>
      Entry.backlog_finish (s.story k) waits carrying
    have leaves := backlog_modOutlet_same (o := o) (f := fun x => { x with holder := none })
      (s := s.modStory k fun x => x.modEntry o Entry.finish) rfl
    unfold claimDone at ok' ⊢
    rw [if_pos due] at ok' ⊢
    dsimp only
    have tests := backlog_afterCut ok'
    exact ⟨by omega, fun _ => by omega⟩
  · unfold claimDone
    rw [if_neg due]
    exact ⟨le_rfl, fun yes => absurd yes due⟩

theorem backlog_emptyReply : (emptyReply o s).backlog o + (if (s.replyOf o).isSome then 1 else 0) = s.backlog o := by
  rcases line_or_terminal o with ⟨c, rfl⟩ | ⟨p, rfl⟩
  · rw [emptyReply_line, replyOf_line]
    simp
  · have reply : (emptyReply (terminalOutlet p) s).replyOf (terminalOutlet p) = none := by
      rw [emptyReply_terminal, replyOf_terminal]
      exact congrArg Port.replySlot ((State.get_set ..).trans (if_pos rfl))
    have slots (j : Fin 48) : (emptyReply (terminalOutlet p) s).slotBacklog (terminalOutlet p) j
        = s.slotBacklog (terminalOutlet p) j := by
      rw [emptyReply_terminal]
      rfl
    have outlet : (emptyReply (terminalOutlet p) s).outlet (terminalOutlet p) = s.outlet (terminalOutlet p) := by
      rw [emptyReply_terminal]
      rfl
    unfold State.backlog
    rw [reply, outlet]
    simp [slots]

/-- What a unit's completion records adds nothing to the backlog, and takes what it settles (R120). -/
theorem backlog_unitRecord (ok : s.Consistent) (kind : UnitKind) : (unitRecord o kind s).backlog o ≤ s.backlog o
    ∧ (s.Settles o kind → (unitRecord o kind s).backlog o < s.backlog o) := by
  cases kind with
  | text => exact ⟨le_rfl, False.elim⟩
  | reply =>
    have empties := backlog_emptyReply (s := s) (o := o)
    refine ⟨?_, fun some_ => ?_⟩
    · exact Nat.le.intro empties
    · change (s.replyOf o).isSome = true at some_
      rw [if_pos some_] at empties
      exact Nat.lt_of_succ_le empties.le
  | answerback =>
    have clears := backlog_modOutlet (s := s) (o := o) (f := fun x => { x with answerbackOwed := false })
    unfold Outlet.dues at clears
    dsimp only at clears
    simp only [Bool.false_eq_true, if_false] at clears
    unfold unitRecord
    dsimp only
    refine ⟨by omega, fun owed => ?_⟩
    change (s.outlet o).answerbackOwed = true at owed
    rw [if_pos owed] at clears
    omega
  | notice n =>
    cases n with
    | item => exact ⟨le_rfl, False.elim⟩
    | closer k => exact backlog_claimDone ok
    | entry k =>
      change (s.modCarried o k Entry.noticed).backlog o ≤ s.backlog o
        ∧ (s.Settles o (.notice (.entry k)) → (s.modCarried o k Entry.noticed).backlog o < s.backlog o)
      unfold State.modCarried
      by_cases holds : (s.outlet o).holder = some k
      · rw [if_pos holds]
        obtain ⟨e, entry, carrying⟩ := ok.table.entry_holder holds
        have keeps := backlog_modEntry (a := 0) (b := 0) entry Entry.outlet_noticed fun waits =>
          Entry.backlog_noticed_le e (s.story k) waits
        refine ⟨by omega, ?_⟩
        rintro ⟨_, d, found, owed⟩
        obtain rfl : e = d := Option.some.inj (entry.symm.trans found)
        have settles := backlog_modEntry (b := 0) entry Entry.outlet_noticed fun waits =>
          (Entry.backlog_noticed (s.story k) waits carrying owed).le
        omega
      · rw [if_neg holds]
        exact ⟨le_rfl, fun ⟨here, _⟩ => absurd here holds⟩

/-- A unit completed (R120). -/
theorem backlog_completeUnit (ok : s.Consistent) (x : OutUnit) : (completeUnit o x s).backlog o ≤ s.backlog o
    ∧ (s.Settles o x.kind → (completeUnit o x s).backlog o < s.backlog o) := by
  have done : (s.withOutlet o ((s.outlet o).unitDone x)).Consistent :=
    ok.aside ((Aside.refl s).modOutlet (f := fun y => y.unitDone x))
  have same : (s.withOutlet o ((s.outlet o).unitDone x)).backlog o = s.backlog o :=
    backlog_modOutlet_same (s := s) (o := o) (f := fun y => y.unitDone x) rfl
  obtain ⟨keeps, settles⟩ := backlog_unitRecord (o := o) done x.kind
  rw [completeUnit_eq]
  rw [same] at keeps settles
  refine ⟨keeps, fun owed => settles ?_⟩
  revert owed
  unfold State.Settles State.doneDue State.replyOf
  rw [State.outlet_withOutlet]
  exact id

end Sys2Proof.Machine

/-! PROOF. What a unit boundary comes to: a unit that takes from the backlog, or no work at all (R114, R121). -/

namespace Sys2Proof.Machine

variable {s t u v : State} {o : Fin 24} {h k w : Fin 48}

/-! ## What examining the holder and arbitration leave of the outlet -/

theorem Outlet.SameBut.refl (x : Outlet) : x.SameBut x := rfl

theorem Outlet.SameBut.trans {x y z : Outlet} (first : x.SameBut y) (second : y.SameBut z) : x.SameBut z := by
  unfold Outlet.SameBut at *
  rw [second, first]

theorem sameBut_keeps (s : State) (o : Fin 24) : Keeps fun u => (s.outlet o).SameBut (u.outlet o) where
  story _ _ same := same
  framer _ _ same := same
  circuit _ _ same := same
  port _ _ same := same
  parser _ _ same := same
  desk _ _ same := same
  table _ _ same := same
  flag _ same := same
  lists j f lists same := by
    rw [State.outlet_modOutlet]
    split_ifs with here
    · rw [here] at same ⊢
      exact same.trans (lists _)
    · exact same

section Sameness

variable {P : State → Prop} (kept : Kept P s)
include kept

theorem Kept.grant : Kept P (grant o k s) := kept.modStory.lists fun _ => rfl

theorem Kept.preempt : Kept P (preempt o k s) := by
  have suspends : Kept P ((s.modStory k fun st => st.modEntry o Entry.preempt).modOutlet o fun x => x.suspend k) :=
    kept.modStory.lists fun _ => rfl
  unfold Machine.preempt
  dsimp only
  split
  · exact suspends.oweItem
  · exact suspends

theorem Kept.arbitrate : Kept P (arbitrate o s) := by
  unfold Machine.arbitrate
  split
  · exact kept
  · exact kept.grant
  · exact kept.preempt.grant

theorem Kept.suspendCaughtUp : Kept P (suspendCaughtUp o s) := by
  have suspends (k : Fin 48) : Kept P ((s.modStory k fun st => st.modEntry o Entry.suspendHeld).modOutlet o
      fun x => x.suspend k) := kept.modStory.lists fun _ => rfl
  unfold Machine.suspendCaughtUp
  split
  · exact kept
  · split
    · exact (suspends _).oweItem
    · exact kept

end Sameness

theorem sameBut_arbitrate (o : Fin 24) (s : State) : (s.outlet o).SameBut ((arbitrate o s).outlet o) :=
  (Kept.arbitrate ⟨sameBut_keeps s o, .refl _⟩).holds

theorem sameBut_suspendCaughtUp (o : Fin 24) (s : State) : (s.outlet o).SameBut ((suspendCaughtUp o s).outlet o) :=
  (Kept.suspendCaughtUp ⟨sameBut_keeps s o, .refl _⟩).holds

theorem Outlet.SameBut.unit {x y : Outlet} (same : x.SameBut y) : y.unit = x.unit := by
  rw [same]

theorem Outlet.SameBut.answerbackOwed {x y : Outlet} (same : x.SameBut y) : y.answerbackOwed = x.answerbackOwed := by
  rw [same]

theorem replyOf_arbitrate (o : Fin 24) (s : State) : (arbitrate o s).replyOf o = s.replyOf o := by
  rw [arbitrate_frame]
  rfl

/-! ## Arbitration leaves nothing to grant -/

theorem priority_modEntry (f : Entry → Entry) (j : Fin 48) :
    ((s.modStory k fun x => x.modEntry o f).story j).priority = (s.story j).priority := by
  rw [State.story_modStory]
  split_ifs with here
  · rw [here]
    rfl
  · rfl

theorem priority_preempt (j : Fin 48) : ((preempt o h s).story j).priority = (s.story j).priority := by
  unfold preempt
  dsimp only
  split_ifs
  · rw [story_oweItem]
    exact priority_modEntry _ j
  · exact priority_modEntry _ j

theorem preempts_congr {j : Fin 48} (winner : (u.story k).priority = (s.story k).priority)
    (holder : (u.story j).priority = (s.story j).priority) : u.preempts k j = s.preempts k j := by
  unfold State.preempts Story.rank
  rw [winner, holder]

theorem eligible_grant_other {j : Fin 48} (ne : j ≠ w) : (grant o w s).eligible o j = s.eligible o j := by
  unfold State.eligible State.entry
  rw [story_grant_other ne]

/-- After a grant to the winner no eligible entry may preempt it, unless one that was not eligible before (R127). -/
theorem granted_grant (ok : s.TableOk) (win : s.winner o = some w) (ok' : (grant o w v).TableOk)
    (same : ∀ j, (v.story j).priority = (s.story j).priority)
    (eligible : ∀ j, j ≠ w → v.eligible o j = true → s.eligible o j = true ∨ s.preempts j w = false) :
    (grant o w v).granted o = none := by
  rw [← Option.not_isSome_iff_eq_none, granted_isSome_iff_takes ok']
  rintro ⟨j, elig, takes⟩
  have outranked := takes w (by rw [outlet_grant_self])
  have priority (i : Fin 48) : ((grant o w v).story i).priority = (s.story i).priority :=
    (priority_modEntry Entry.grant i).trans (same i)
  rw [preempts_congr (priority j) (priority w)] at outranked
  have outranks := of_decide_eq_true outranked
  have ne : j ≠ w := by
    rintro rfl
    exact lt_irrefl _ outranks.2
  rw [eligible_grant_other ne] at elig
  rcases eligible j ne elig with before | bars
  · have least := State.winner_rank_le ok win before
    omega
  · rw [outranked] at bars
    cases bars

theorem granted_arbitrate (ok : s.TableOk) : (arbitrate o s).granted o = none := by
  have ok' : (arbitrate o s).TableOk := ok.arbitrate
  cases win : s.winner o with
  | none =>
    rw [arbitrate_of_no_winner win]
    unfold State.granted
    rw [win]
  | some w =>
    cases holds : (s.outlet o).holder with
    | none =>
      rw [arbitrate_of_no_holder win holds] at ok' ⊢
      exact granted_grant ok win ok' (fun _ => rfl) fun _ _ elig => .inl elig
    | some h =>
      cases yields : s.preempts w h with
      | false =>
        rw [arbitrate_of_holder_kept win holds yields]
        unfold State.granted
        simp only [win, holds, yields, Bool.false_eq_true, if_false]
      | true =>
        rw [arbitrate_of_holder_yields win holds yields] at ok' ⊢
        refine granted_grant ok win ok' priority_preempt fun j _ elig => ?_
        by_cases here : j = h
        · refine .inr (decide_eq_false fun ⟨_, back⟩ => ?_)
          have outranks := of_decide_eq_true yields
          rw [here] at back
          omega
        · exact .inl ((eligible_preempt_other here).symm.trans elig)

/-! ## The hold mark of a holder that boundary finds -/

/-- A holder found after the caught-up one has left is as it was, and not both marked and caught up (R121). -/
theorem suspendCaughtUp_holder (ok : s.TableOk) (holds : ((suspendCaughtUp o s).outlet o).holder = some h) :
    suspendCaughtUp o s = s ∧ ∀ e ∈ (s.story h).entries, e.outlet = o → e.holdMark = true →
      e.read ≠ (s.story h).taken := by
  by_cases due : ∃ k, (s.outlet o).holder = some k ∧ ∃ e ∈ (s.story k).entries, e.outlet = o ∧ e.holdMark = true
      ∧ e.read = (s.story k).taken
  · obtain ⟨k, held, e, mem, at_o, marked, level⟩ := due
    rw [suspendCaughtUp_due ok held mem at_o marked level] at holds
    have none_ : ((heldBack o k s).outlet o).holder = none :=
      congrArg Outlet.holder ((State.get_set ..).trans (if_pos rfl))
    rw [none_] at holds
    cases holds
  · have same : suspendCaughtUp o s = s := suspendCaughtUp_not ok fun k held e mem at_o marked level =>
      due ⟨k, held, e, mem, at_o, marked, level⟩
    rw [same] at holds
    exact ⟨same, fun e mem at_o marked level => due ⟨h, holds, e, mem, at_o, marked, level⟩⟩

/-- A marked holder found after arbitration was the holder before it: a mark stands on a carried entry alone (R90). -/
theorem arbitrate_marked (ok : s.TableOk) {e : Entry} (holds : ((arbitrate o s).outlet o).holder = some h)
    (entry : (arbitrate o s).entry o h = some e) (marked : e.holdMark = true) : arbitrate o s = s := by
  have granting (v : State) (w : Fin 48) (elig : v.eligible o w = true) (unmarked : ∀ d, v.entry o w = some d →
      d.state.grantable = true → d.holdMark = false) (holds : ((grant o w v).outlet o).holder = some h)
      (entry : (grant o w v).entry o h = some e) : False := by
    rw [outlet_grant_self] at holds
    obtain rfl : w = h := Option.some.inj holds
    unfold State.eligible at elig
    obtain ⟨d, found, grantable⟩ := (Option.any_eq_true ..).1 (Bool.and_eq_true_iff.1 elig).1
    have after : (grant o w v).entry o w = (v.entry o w).map Entry.grant :=
      (entry_modEntry (s := v) (o := o) w w Entry.outlet_grant).trans (if_pos rfl)
    rw [after, found] at entry
    obtain rfl : d.grant = e := Option.some.inj entry
    have mark : d.grant.holdMark = d.holdMark := by
      unfold Entry.grant
      split_ifs <;> rfl
    rw [mark, unmarked d found grantable] at marked
    cases marked
  have unmarked (w : Fin 48) (d : Entry) (found : s.entry o w = some d) (grantable : d.state.grantable = true) :
      d.holdMark = false := by
    by_contra mark
    rw [Bool.not_eq_false] at mark
    obtain ⟨mem, _⟩ := State.entry_some found
    obtain ⟨carrying, _⟩ := ((ok.stories w).entries d mem).marked mark
    rw [carrying] at grantable
    cases grantable
  cases win : s.winner o with
  | none => exact arbitrate_of_no_winner win
  | some w =>
    have elig := (State.winner_mem win).2
    cases held : (s.outlet o).holder with
    | none =>
      rw [arbitrate_of_no_holder win held] at holds entry
      exact (granting s w elig (unmarked w) holds entry).elim
    | some g =>
      cases yields : s.preempts w g with
      | false => exact arbitrate_of_holder_kept win held yields
      | true =>
        rw [arbitrate_of_holder_yields win held yields] at holds entry
        have ne : w ≠ g := by
          rintro rfl
          exact lt_irrefl _ (of_decide_eq_true yields).2
        refine (granting (preempt o g s) w ((eligible_preempt_other ne).trans elig) ?_ holds entry).elim
        unfold State.entry
        rw [story_preempt_other ne]
        exact unmarked w

/-! ## The holder's text -/

/-- A character that a live entry has not read stands in the window (R83, R85). -/
theorem textAt_isSome {x : Story} {e : Entry} (ok : x.Ok) (mem : e ∈ x.entries) (live : e.state.live = true)
    (behind : e.read < x.taken) : ∃ ch, x.textAt e.read = some ch := by
  have reach := (ok.entries e mem).reach live
  have window := ok.window
  unfold Config.windowSize at reach window
  have place : e.read - (x.taken - x.window.length) < x.window.length := by omega
  exact ⟨_, List.getElem?_eq_getElem place⟩

/-! ## The boundary -/

/-- What a boundary comes to: a unit begun, paid for from the backlog now or as it completes, or no work. -/
inductive State.Boundary (s v : State) (o : Fin 24) : Prop
  | begun {x : OutUnit} (unit : (v.outlet o).unit = some x) (keeps : v.backlog o ≤ s.backlog o)
      (pays : v.backlog o < s.backlog o ∨ v.Settles o x.kind)
  | nothing (unit : (v.outlet o).unit = none) (rest : v.hasWork o = false)

theorem State.Boundary.mono (fewer : u.backlog o ≤ s.backlog o) (b : u.Boundary v o) : s.Boundary v o := by
  cases b with
  | begun unit keeps pays => exact .begun unit (by omega) (pays.imp_left fun less => by omega)
  | nothing unit rest => exact .nothing unit rest

theorem boundary_beginUnit (kind : UnitKind) (l : List Office)
    (owes : s.Settles o kind) : s.Boundary (beginUnit o kind l s) o := by
  refine .begun (congrArg Outlet.unit (State.outlet_modOutlet_self ..)) backlog_beginUnit.le (.inr ?_)
  revert owes
  unfold State.Settles State.doneDue State.replyOf beginUnit
  rw [State.outlet_modOutlet_self]
  exact id

theorem boundary_beginItem {i : OwedItem} {rest : List OwedItem} (owed : (s.outlet o).owed = i :: rest) :
    s.Boundary (beginItem o i rest s) o :=
  have less := backlog_beginItem owed
  .begun (congrArg Outlet.unit (State.outlet_modOutlet_self ..)) less.le (.inl less)

theorem outlet_offerWrite (k : Fin 48) (s : State) (j : Fin 24) : (offerWrite k s).outlet j = s.outlet j := by
  rcases offerWrite_offers k s with same | ⟨p, _, _, offers⟩
  · rw [same]
  · rw [offers.frame]
    rfl

/-- The holder served (R121, steps 4 and 5), where it is neither marked and caught up nor about to yield. -/
theorem boundary_beginHolder (ok : s.Consistent) (unit : (s.outlet o).unit = none)
    (answerback : (s.outlet o).answerbackOwed = false) (owed : (s.outlet o).owed = [])
    (reply : s.replyOf o = none) (granted : s.granted o = none) {e : Entry}
    (holds : (s.outlet o).holder = some h) (entry : s.entry o h = some e)
    (goes : e.holdMark = true → e.read ≠ (s.story h).taken) : s.Boundary (beginHolder o h e s) o := by
  obtain ⟨d, found, carrying⟩ := ok.table.entry_holder holds
  obtain rfl : e = d := Option.some.inj (entry.symm.trans found)
  obtain ⟨mem, _⟩ := State.entry_some entry
  cases notice : (s.story h).noticeText e.owed with
  | some line =>
    rw [beginHolder_notice notice]
    refine boundary_beginUnit _ _ ⟨holds, e, entry, fun none_ => ?_⟩
    rw [none_] at notice
    cases notice
  | none =>
    have none_ : e.owed = .none := by
      cases owed : e.owed with
      | none => rfl
      | header | joined | resume => simp [owed, Story.noticeText] at notice
    have readLe := ((ok.table.stories h).entries e mem).readLe
    rcases Nat.lt_or_eq_of_le readLe with behind | level
    · obtain ⟨ch, char⟩ := textAt_isSome (ok.table.stories h) mem (by rw [carrying]; rfl) behind
      rw [beginHolder_text none_ behind char]
      have less := backlog_beginText ok holds entry behind ch
      refine .begun (x := ⟨.text, [], textChars (s.widthOf o) (s.outlet o).column (s.willSend o ch) ch⟩) ?_
        less.le (.inl less)
      unfold beginText
      rw [outlet_offerWrite]
      exact congrArg Outlet.unit (State.outlet_modOutlet_self ..)
    · rw [beginHolder_caughtUp none_ level]
      split_ifs with closing
      · refine boundary_beginUnit _ _ ?_
        change s.doneDue o h = true
        unfold State.doneDue
        simp [holds, closing, entry, level]
      · refine .nothing unit ?_
        have mark : e.holdMark = false := by
          by_contra marked
          rw [Bool.not_eq_false] at marked
          exact goes marked level
        have works : s.holderWorks o = false := by
          unfold State.holderWorks
          rw [holds]
          simp [entry, holderWork, none_, level, closing, mark]
        unfold State.hasWork
        simp [unit, answerback, owed, reply, granted, works]

/-- A boundary of an outlet with no unit (R121). -/
theorem takeBoundary_boundary (ok : s.Consistent) (unit : (s.outlet o).unit = none) :
    s.Boundary (takeBoundary o s) o := by
  have found (h : Fin 48) := suspendCaughtUp_holder (h := h) (o := o) ok.table
  have unitX : ((suspendCaughtUp o s).outlet o).unit = none := (sameBut_suspendCaughtUp o s).unit.trans unit
  have okX : (suspendCaughtUp o s).Consistent := ok.suspendCaughtUp
  refine .mono (backlog_suspendCaughtUp ok.table) ?_
  cases answerback : ((suspendCaughtUp o s).outlet o).answerbackOwed with
  | true =>
    rw [takeBoundary_answerback answerback]
    exact boundary_beginUnit _ _ answerback
  | false =>
    cases owed : ((suspendCaughtUp o s).outlet o).owed with
    | cons i rest =>
      rw [takeBoundary_item answerback owed]
      exact boundary_beginItem owed
    | nil =>
      cases reply : (suspendCaughtUp o s).replyOf o with
      | some l =>
        rw [takeBoundary_reply answerback owed reply]
        exact boundary_beginUnit _ _ (by rw [State.Settles, reply]; rfl)
      | none =>
        rw [takeBoundary_carried answerback owed reply]
        generalize suspendCaughtUp o s = v at *
        have same := sameBut_arbitrate o v
        have unitA := same.unit.trans unitX
        have answerbackA := same.answerbackOwed.trans answerback
        have replyA := (replyOf_arbitrate o v).trans reply
        have grantedA := granted_arbitrate (o := o) okX.table
        have okA : (arbitrate o v).Consistent := okX.arbitrate
        refine .mono (backlog_arbitrate okX.table) ?_
        cases owedA : ((arbitrate o v).outlet o).owed with
        | cons i rest =>
          rw [beginCarried_item owedA]
          exact boundary_beginItem owedA
        | nil =>
          cases holds : ((arbitrate o v).outlet o).holder with
          | none =>
            rw [beginCarried_free owedA holds]
            refine .nothing unitA ?_
            unfold State.hasWork State.holderWorks
            simp [unitA, answerbackA, owedA, replyA, grantedA, holds]
          | some h =>
            obtain ⟨e, entry, _⟩ := okA.table.entry_holder holds
            rw [beginCarried_holder owedA holds entry]
            refine boundary_beginHolder okA unitA answerbackA owedA replyA grantedA holds entry fun marked => ?_
            have kept := arbitrate_marked okX.table holds entry marked
            rw [kept] at holds entry ⊢
            obtain ⟨rfl, level⟩ := found h holds
            obtain ⟨mem, at_o⟩ := State.entry_some entry
            exact level e mem at_o marked

end Sys2Proof.Machine

/-! PROOF. An outlet's drive ends with the outlet calm (R115 to R117, R119). -/

namespace Sys2Proof.Machine

variable {s t u v : State} {o : Fin 24}

/-! ## Where a drive may end -/

/-- Nothing in progress is over: a unit has a code or a character to come (R119). -/
def State.Unfinished (s : State) (o : Fin 24) : Prop := ∀ x, (s.outlet o).unit = some x → s.silent o x = false

theorem State.Unfinished.unitOver (h : s.Unfinished o) : s.unitOver o = false := by
  unfold State.unitOver
  cases unit : (s.outlet o).unit with
  | none => rfl
  | some x => simp [h x unit]

theorem outlet_setOutletState (x : OutletState) (s : State) :
    (setOutletState o x s).outlet o = { s.outlet o with state := x } := State.outlet_modOutlet_self ..

theorem unfinished_setOutletState (x : OutletState) (h : s.Unfinished o) : (setOutletState o x s).Unfinished o := by
  unfold State.Unfinished
  rw [outlet_setOutletState]
  exact h

/-- An outlet met by a pause cause waits for its line, or is PAUSED (R115 to R117). -/
theorem calmOn_pauseOutlet (h : s.Unfinished o) (pause : s.pauseCause o = true) : (pauseOutlet o s).CalmOn o := by
  cases waits : s.pauseWaits o with
  | true =>
    obtain ⟨line, sending, busy⟩ := (pauseWaits_iff s o).1 waits
    rw [pauseOutlet_waits waits]
    unfold State.CalmOn
    rw [sending]
    exact .inr ⟨h.unitOver, busy, fun _ => line, fun free => absurd (pause.symm.trans free) Bool.noConfusion⟩
  | false =>
    rw [pauseOutlet_paused waits]
    unfold State.CalmOn
    rw [outlet_setOutletState]
    exact ⟨pause, (unfinished_setOutletState .paused h).unitOver⟩

/-- A unit waits for a character that is on the line to leave it (R119). -/
theorem calmOn_busy {x : OutUnit} (unit : (s.outlet o).unit = some x) (yields : s.silent o x = false)
    (free : s.pauseCause o = false) (busy : s.lineBusy o = true) : (setOutletState o .sending s).CalmOn o := by
  have unfinished : s.Unfinished o := fun y other => by
    obtain rfl : x = y := Option.some.inj (unit.symm.trans other)
    exact yields
  have over_ := (unfinished_setOutletState .sending unfinished).unitOver
  unfold State.CalmOn
  rw [outlet_setOutletState]
  refine .inr ⟨over_, busy, fun pause => absurd (pause.symm.trans free) Bool.noConfusion, fun _ => ?_⟩
  change (s.outlet o).unit ≠ none
  rw [unit]
  exact Option.some_ne_none x

/-- An outlet is calm while its own character is on the line. -/
theorem calmOn_own (sending : (s.outlet o).state = .sending) (own : s.ownBusy o = true) : s.CalmOn o := by
  unfold State.CalmOn
  rw [sending]
  exact .inl own

theorem hasWork_setOutletState (x : OutletState) (s : State) : (setOutletState o x s).hasWork o = s.hasWork o := by
  have granted : (setOutletState o x s).granted o = s.granted o := by
    unfold State.granted State.winner
    rw [outlet_setOutletState]
    rfl
  have works : (setOutletState o x s).holderWorks o = s.holderWorks o := by
    unfold State.holderWorks
    rw [outlet_setOutletState]
    rfl
  unfold State.hasWork
  rw [outlet_setOutletState, granted, works]
  rfl

/-- An outlet with no work falls idle (R115). -/
theorem calmOn_fallIdle (none_ : s.hasWork o = false) : (fallIdle o s).CalmOn o := by
  have rests := (hasWork_setOutletState (o := o) .idle s).trans none_
  have idle := congrArg Outlet.state (outlet_setOutletState (o := o) .idle s)
  have calm (v : State) (state : (v.outlet o).state = .idle) (rests : v.hasWork o = false) : v.CalmOn o := by
    unfold State.CalmOn
    rw [state]
    exact rests
  unfold fallIdle
  cases outletCircuit o with
  | none => exact calm _ idle rests
  | some c => exact calm _ idle rests

/-! ## A unit that has something to send -/

/-- Codes left of a line outlet's unit: the next is handed over, or the unit waits (R18, R119). -/
theorem calmOn_drive_codes {c : Fin 16} {x : OutUnit} {code : Code} {rest : List Code} (n : Nat)
    (unit : (s.outlet (lineOutlet c)).unit = some x) (codes : x.codes = code :: rest) :
    (drive (n + 1) (lineOutlet c) s).CalmOn (lineOutlet c) := by
  have yields : s.silent (lineOutlet c) x = false := by
    unfold State.silent
    rw [codes]
    rfl
  cases pause : s.pauseCause (lineOutlet c) with
  | true =>
    rw [drive_unit_paused n unit yields pause]
    refine calmOn_pauseOutlet (fun y other => ?_) pause
    obtain rfl : x = y := Option.some.inj (unit.symm.trans other)
    exact yields
  | false =>
    have hands : needsConversion (lineOutlet c) x = false := by
      unfold needsConversion
      rw [codes, List.isEmpty_cons, Bool.and_false]
    rw [drive_unit n unit yields pause]
    dsimp only
    split_ifs with busy converts
    · exact calmOn_busy unit yields pause busy
    · rw [hands] at converts
      cases converts
    · rw [setOutletState_eq, handOver_line _ codes]
      refine calmOn_own (by rw [State.outlet_withOutlet]) ?_
      have sending : ((({ s with circuits := s.circuits.set c { s.circuit c with
          sending := some ((s.circuit c).startChar code .unit) } } : State).withOutlet (lineOutlet c)
            { s.outlet (lineOutlet c) with state := .sending, unit := some { x with codes := rest } }).circuit c)
          = { s.circuit c with sending := some ((s.circuit c).startChar code .unit) } :=
        (State.get_set ..).trans (if_pos rfl)
      rw [ownBusy_line, sending]
      rfl

/-- The first character of a unit that will be sent (R33, R34). -/
theorem first_sent {x : OutUnit} (codes : x.codes = []) (yields : s.silent o x = false) :
    ∃ skipped ch rest, x.chars = skipped ++ ch :: rest ∧ (∀ d ∈ skipped, s.willSend o d = false)
      ∧ s.willSend o ch = true := by
  unfold State.silent at yields
  rw [codes, List.isEmpty_nil, Bool.true_and, List.all_eq_false] at yields
  obtain ⟨d, mem, sent⟩ := yields
  rw [Bool.not_eq_true', Bool.not_eq_false] at sent
  obtain ⟨ch, found⟩ := Option.isSome_iff_exists.1 (List.find?_isSome.2 ⟨d, mem, sent⟩)
  obtain ⟨sends, skipped, rest, chars, silent⟩ := List.find?_eq_some_iff_append.1 found
  exact ⟨skipped, ch, rest, chars, fun d mem => by simpa using silent d mem, sends⟩

/-- A unit of which something will be sent: the outlet pauses, waits for its line or sends (R115, R119). -/
theorem calmOn_drive_unit {x : OutUnit} (n : Nat) (bare : ∀ p, o = terminalOutlet p → (s.outlet o).NoCodes)
    (unit : (s.outlet o).unit = some x) (yields : s.silent o x = false) : (drive (n + 2) o s).CalmOn o := by
  cases pause : s.pauseCause o with
  | true =>
    rw [drive_unit_paused _ unit yields pause]
    refine calmOn_pauseOutlet (fun y other => ?_) pause
    obtain rfl : x = y := Option.some.inj (unit.symm.trans other)
    exact yields
  | false =>
    cases busy : s.lineBusy o with
    | true =>
      rw [drive_unit _ unit yields pause]
      dsimp only
      rw [if_pos (show (setOutletState o .sending s).lineBusy o = true from busy)]
      exact calmOn_busy unit yields pause busy
    | false =>
      have idle : ¬(setOutletState o .sending s).lineBusy o = true := by
        rw [show (setOutletState o .sending s).lineBusy o = s.lineBusy o from rfl, busy]
        exact Bool.false_ne_true
      rcases line_or_terminal o with ⟨c, rfl⟩ | ⟨p, rfl⟩
      · cases codes : x.codes with
        | cons code rest => exact calmOn_drive_codes (n + 1) unit codes
        | nil =>
          obtain ⟨skipped, ch, rest, chars, silent, sends⟩ := first_sent codes yields
          have converts : needsConversion (lineOutlet c) x = true := by
            unfold needsConversion
            rw [codes, outletCircuit_line]
            rfl
          have some_ : (convertChar (s.page (s.circuit c).config.page) (s.circuit c).config
              { { s.outlet (lineOutlet c) with state := .sending } with
                drops := incBy skipped.length (s.outlet (lineOutlet c)).drops } ch).2 ≠ [] := by
            refine (sends_iff _ _ _ _).1 ?_
            unfold State.willSend at sends
            rw [outletCircuit_line] at sends
            exact sends
          obtain ⟨code, more, converted⟩ := List.exists_cons_of_ne_nil some_
          rw [drive_unit _ unit yields pause]
          dsimp only
          rw [if_neg idle, if_pos converts, setOutletState_eq, convertNext_line _ chars silent sends]
          exact calmOn_drive_codes n (congrArg Outlet.unit (State.outlet_withOutlet ..)) converted
      · have codes : x.codes = [] := bare p rfl x unit
        have hands : needsConversion (terminalOutlet p) x = false := by
          unfold needsConversion
          rw [outletCircuit_terminal]
          rfl
        cases chars : x.chars with
        | nil =>
          rw [State.silent, codes, chars] at yields
          cases yields
        | cons ch rest =>
          rw [drive_unit _ unit yields pause]
          dsimp only
          rw [if_neg idle, hands, if_neg Bool.false_ne_true, setOutletState_eq, handOver_terminal _ chars]
          refine calmOn_own (by rw [State.outlet_withOutlet]) ?_
          have sending : ((({ s with ports := s.ports.set p { s.port p with
              sending := some ((s.port p).startChar ch) } } : State).withOutlet (terminalOutlet p)
                { s.outlet (terminalOutlet p) with
                  state := .sending, unit := some { x with chars := rest }
                  column := columnAfter ch (s.outlet (terminalOutlet p)).column }).port p)
              = { s.port p with sending := some ((s.port p).startChar ch) } :=
            (State.get_set ..).trans (if_pos rfl)
          rw [ownBusy_terminal, sending]
          rfl

/-! ## A unit completed -/

theorem outlet_afterCut (k : Fin 48) (j : Fin 24) : (afterCut k o s).outlet j = s.outlet j := by
  unfold afterCut
  rw [outlet_offerWrite, quietTestOutlet_frame]
  unfold closeIfDone
  split_ifs <;> rfl

/-- What a unit's completion records leaves the outlet without a unit. -/
theorem unit_completeUnit (x : OutUnit) : ((completeUnit o x s).outlet o).unit = none := by
  have done : ((s.withOutlet o ((s.outlet o).unitDone x)).outlet o).unit = none :=
    congrArg Outlet.unit (State.outlet_withOutlet ..)
  rw [completeUnit_eq]
  generalize s.withOutlet o ((s.outlet o).unitDone x) = v at done ⊢
  unfold unitRecord
  split
  · exact done
  · exact done
  · unfold State.modCarried
    split_ifs <;> exact done
  · unfold claimDone
    split_ifs
    · dsimp only
      rw [outlet_afterCut, State.outlet_modOutlet_self]
      exact done
    · exact done
  · unfold emptyReply
    split <;> exact done
  · rw [State.outlet_modOutlet_self]
    exact done

/-! ## The end of a drive -/

theorem backlog_setOutletState (x : OutletState) (s : State) : (setOutletState o x s).backlog o = s.backlog o :=
  backlog_modOutlet_same rfl

theorem settles_setOutletState {x : OutletState} {kind : UnitKind} (owes : s.Settles o kind) :
    (setOutletState o x s).Settles o kind := by
  revert owes
  unfold State.Settles State.doneDue State.replyOf
  rw [outlet_setOutletState]
  exact id

/-- A unit that is over after a boundary leaves a smaller backlog. -/
theorem backlog_begun (ok : s.Consistent) {x : OutUnit} {m : Nat} (keeps : s.backlog o ≤ m)
    (pays : s.backlog o < m ∨ s.Settles o x.kind) : (completeUnit o x s).backlog o < m := by
  obtain ⟨least, settles⟩ := backlog_completeUnit (o := o) ok x
  rcases pays with less | owes
  · omega
  · have less := settles owes
    omega

/-- With fuel for its backlog, the drive of an outlet with no unit ends with the outlet calm. -/
theorem calmOn_drive_free (n : Nat) (ok : s.Consistent) (codes : ∀ p, (s.outlet (terminalOutlet p)).NoCodes)
    (unit : (s.outlet o).unit = none) (fuel : 2 * s.backlog o + 3 ≤ n) : (drive n o s).CalmOn o := by
  induction n using Nat.strong_induction_on generalizing s with
  | _ n ih =>
    obtain ⟨n, rfl⟩ : ∃ m, n = m + 3 := ⟨n - 3, by omega⟩
    cases pause : s.pauseCause o with
    | true =>
      rw [drive_none_paused _ unit pause]
      refine calmOn_pauseOutlet (fun x some_ => ?_) pause
      rw [unit] at some_
      cases some_
    | false =>
      rw [drive_none _ unit pause]
      cases takeBoundary_boundary ok unit with
      | nothing none_ rest =>
        rw [none_]
        exact calmOn_fallIdle rest
      | @begun x begun keeps pays =>
        rw [begun, Option.isSome_some, if_pos rfl]
        have up := (Upkeep.refl s).takeBoundary (o := o) |>.setOutletState (o := o) (x := .sending)
        have codes' (p : Fin 8) := up.codes p (codes p)
        have ok' : (setOutletState o .sending (takeBoundary o s)).Consistent :=
          State.Consistent.aside ok.takeBoundary ((Aside.refl _).modOutlet (f := fun y => { y with state := .sending }))
        rw [← backlog_setOutletState (o := o) .sending (takeBoundary o s)] at keeps pays
        have pays' := pays.imp_right (settles_setOutletState (x := .sending))
        have begun' : ((setOutletState o .sending (takeBoundary o s)).outlet o).unit = some x := by
          rw [outlet_setOutletState]
          exact begun
        generalize setOutletState o .sending (takeBoundary o s) = v at *
        cases silent : v.silent o x with
        | false => exact calmOn_drive_unit n (fun p own => own ▸ codes' p) begun' silent
        | true =>
          have less := backlog_begun ok' keeps pays'
          rw [drive_silent _ begun' silent]
          exact ih (n + 1) (by omega) ok'.completeUnit
            (fun p => (Upkeep.refl v).completeUnit.codes p (codes' p)) (unit_completeUnit x) (by omega)

/-- An outlet that goes on ends calm. -/
theorem calmOn_goOn (ok : s.Consistent) (codes : ∀ p, (s.outlet (terminalOutlet p)).NoCodes) :
    (goOn o s).CalmOn o := by
  have fuel : Config.driveFuel = 99998 + 2 := rfl
  unfold goOn
  rw [fuel]
  cases unit : (s.outlet o).unit with
  | none =>
    have bound := backlog_le ok.table o
    exact calmOn_drive_free _ ok codes unit (by omega)
  | some x =>
    cases silent : s.silent o x with
    | false => exact calmOn_drive_unit _ (fun p own => own ▸ codes p) unit silent
    | true =>
      have ok' : (completeUnit o x s).Consistent := ok.completeUnit
      have bound := backlog_le ok'.table o
      rw [drive_silent _ unit silent]
      exact calmOn_drive_free _ ok' (fun p => (Upkeep.refl s).completeUnit.codes p (codes p))
        (unit_completeUnit x) (by omega)

end Sys2Proof.Machine

/-! PROOF. The outlets react until none has anything to do (log 8). -/

namespace Sys2Proof.Machine

variable {s t u v : State} {o : Fin 24}

/-! ## One reaction -/

/-- An IDLE line outlet that gains work starts its motor, or goes on (R115, R129, R141, R142). -/
theorem calmOn_lineGainsWork (ok : s.Consistent) (codes : ∀ p, (s.outlet (terminalOutlet p)).NoCodes) (c : Fin 16) :
    (lineGainsWork (lineOutlet c) c s).CalmOn (lineOutlet c) := by
  have okLed : (setOutletState (lineOutlet c) .starting
      (s.modControl c fun x => x.motorLead (s.circuit c).config.motorLead)).Consistent :=
    State.Consistent.aside (ok.aside (Aside.refl s).modControl)
      ((Aside.refl _).modOutlet (f := fun y => { y with state := .starting }))
  have okBegun : (arbitrate (lineOutlet c) (setOutletState (lineOutlet c) .starting
      (s.modControl c fun x => x.motorLead (s.circuit c).config.motorLead))).Consistent := okLed.arbitrate
  have upBegun := ((Upkeep.refl s).modControl (c := c)
    (f := fun x => x.motorLead (s.circuit c).config.motorLead) fun _ rest => rest.motorLead).setOutletState
      (o := lineOutlet c) (x := .starting) |>.arbitrate (o := lineOutlet c)
  unfold lineGainsWork
  dsimp only
  split_ifs with off led
  · refine calmOn_goOn (okBegun.aside (Aside.refl _).modControl) fun p => ?_
    exact (upBegun.modControl fun _ rest => rest.motorRun).codes p (codes p)
  · have state : ((arbitrate (lineOutlet c) (setOutletState (lineOutlet c) .starting
        (s.modControl c fun x => x.motorLead (s.circuit c).config.motorLead))).outlet (lineOutlet c)).state
        = .starting := by
      rw [sameBut_arbitrate (lineOutlet c), outlet_setOutletState]
    unfold State.CalmOn
    rw [state]
    refine ⟨c, rfl, ?_⟩
    rw [control_arbitrate]
    have motor : ((s.modControl c fun x => x.motorLead (s.circuit c).config.motorLead).control c).motor
        = .starting := congrArg Control.motor ((State.control_modControl ..).trans (if_pos rfl))
    exact fun runs => absurd (motor.symm.trans runs) nofun
  · refine calmOn_goOn (ok.aside (Aside.refl s).modControl) fun p => ?_
    exact ((Upkeep.refl s).modControl (c := c) fun _ rest => rest.motorResume).codes p (codes p)

theorem calmOn_gainWork (ok : s.Consistent) (codes : ∀ p, (s.outlet (terminalOutlet p)).NoCodes) :
    (gainWork o s).CalmOn o := by
  rcases line_or_terminal o with ⟨c, rfl⟩ | ⟨p, rfl⟩
  · rw [gainWork_line]
    exact calmOn_lineGainsWork (ok.aside ((Aside.refl s).modControl (f := fun x => { x with fillOwed := false })))
      codes c
  · rw [gainWork_terminal]
    exact calmOn_goOn ok codes

/-- A paused outlet whose pause has ended goes on (R116, R117). -/
theorem calmOn_leavePause (ok : s.Consistent) (codes : ∀ p, (s.outlet (terminalOutlet p)).NoCodes)
    (free : s.pauseCause o = false) : (leavePause o s).CalmOn o := by
  cases own : s.ownBusy o with
  | true =>
    rw [leavePause_own free own]
    exact calmOn_own (by rw [outlet_setOutletState]) own
  | false =>
    rw [leavePause_on free own]
    exact calmOn_goOn ok codes

/-! ## How much is left to react -/

/-- How many reactions an outlet may still have of its own: a PAUSED one whose unit is over completes it, and may
then go on. -/
def State.unrestOn (s : State) (o : Fin 24) : Nat :=
  if s.stirs o then (if (s.outlet o).state = .paused ∧ s.unitOver o = true then 2 else 1) else 0

/-- How many reactions there may still be: each outstanding write taken may stir every outlet again. -/
def State.unrest (s : State) : Nat := 49 * s.owing + ∑ o, s.unrestOn o

theorem unrestOn_le (s : State) (o : Fin 24) : s.unrestOn o ≤ 2 := by
  unfold State.unrestOn
  split_ifs <;> omega

theorem sum_unrestOn_le (s : State) : ∑ o, s.unrestOn o ≤ 48 := by
  have each : ∑ o, s.unrestOn o ≤ ∑ _o : Fin 24, 2 := Finset.sum_le_sum fun o _ => unrestOn_le s o
  rw [Finset.sum_const, Finset.card_univ, Fintype.card_fin, smul_eq_mul] at each
  exact each

theorem unrest_le (s : State) : s.unrest ≤ 440 := by
  have each := sum_unrestOn_le s
  have writes := owing_le s
  unfold State.unrest
  omega

theorem unrestOn_of_calm (calm : s.CalmOn o) : s.unrestOn o = 0 := by
  unfold State.unrestOn
  rw [(stirs_eq_false_iff s o).2 calm, if_neg Bool.false_ne_true]

theorem calmOn_of_unrestOn (rests : s.unrestOn o = 0) : s.CalmOn o := by
  rw [← stirs_eq_false_iff, ← Bool.not_eq_true]
  intro stirs
  unfold State.unrestOn at rests
  rw [if_pos stirs] at rests
  split_ifs at rests

theorem State.ReadAlike.unrestOn (h : s.ReadAlike u o) (ok : s.TableOk) (ok' : u.TableOk) :
    u.unrestOn o = s.unrestOn o := by
  unfold State.unrestOn
  rw [h.stirs ok ok', h.state]
  by_cases paused : (s.outlet o).state = .paused
  · rw [h.unitOver (by rw [paused]; nofun)]
  · simp only [paused, false_and]

/-- A reaction lowers an outlet's own unrest. -/
theorem unrestOn_react (ok : s.Consistent) (codes : ∀ p, (s.outlet (terminalOutlet p)).NoCodes)
    (stirs : s.stirs o = true) : (react o s).unrestOn o < s.unrestOn o := by
  have least : 1 ≤ s.unrestOn o := by
    unfold State.unrestOn
    rw [if_pos stirs]
    split_ifs <;> omega
  have calms (calm : (react o s).CalmOn o) : (react o s).unrestOn o < s.unrestOn o := by
    rw [unrestOn_of_calm calm]
    exact least
  cases state : (s.outlet o).state with
  | off | stalled =>
    rw [State.stirs, state] at stirs
    cases stirs
  | idle =>
    refine calms ?_
    rw [react_idle state]
    exact calmOn_gainWork ok codes
  | starting =>
    refine calms ?_
    rw [react_going (.inl state)]
    exact calmOn_goOn ok codes
  | sending =>
    refine calms ?_
    rw [react_going (.inr state)]
    exact calmOn_goOn ok codes
  | paused =>
    cases pause : s.pauseCause o with
    | false =>
      refine calms ?_
      rw [react_paused state]
      exact calmOn_leavePause ok codes pause
    | true =>
      have isOver : s.unitOver o = true := by
        rw [State.stirs, state] at stirs
        simpa [pause] using stirs
      obtain ⟨x, unit, _⟩ := (Option.any_eq_true ..).1 (Bool.and_eq_true_iff.1 isOver).1
      have before : s.unrestOn o = 2 := by
        unfold State.unrestOn
        rw [if_pos stirs, if_pos ⟨state, isOver⟩]
      have after : (completeUnit o x s).unitOver o = false := by
        unfold State.unitOver
        rw [unit_completeUnit]
        rfl
      rw [before, react_paused state, leavePause_pause pause unit]
      unfold State.unrestOn
      rw [after]
      split_ifs with _ both
      · exact both.2.elim
      · omega
      · omega

/-- A reaction leaves fewer to come. -/
theorem unrest_react (ok : s.Consistent) (codes : ∀ p, (s.outlet (terminalOutlet p)).NoCodes)
    (stirs : s.stirs o = true) : (react o s).unrest < s.unrest := by
  have ok' : (react o s).Consistent := ok.react
  have own := unrestOn_react ok codes stirs
  rcases react_actsFor o s with less | beside
  · have each := sum_unrestOn_le (react o s)
    unfold State.unrest
    omega
  · have others (j : Fin 24) (other : j ≠ o) : (react o s).unrestOn j ≤ s.unrestOn j :=
      ((beside.readAlike ok'.table other).unrestOn ok.table ok'.table).le
    have sums := sum_le_of_one (a := 1) (b := 0) o others own
    have owing := owing_congr beside.owes
    unfold State.unrest
    omega

/-! ## All reactions -/

/-- With fuel for the reactions to come, every outlet ends calm. -/
theorem reactAll_ends (n : Nat) (ok : s.Consistent) (codes : ∀ p, (s.outlet (terminalOutlet p)).NoCodes)
    (fuel : s.unrest ≤ n) (o : Fin 24) : (reactAll n s).CalmOn o := by
  induction n generalizing s with
  | zero =>
    have rests : s.unrestOn o ≤ ∑ j, s.unrestOn j :=
      Finset.single_le_sum (fun _ _ => Nat.zero_le _) (Finset.mem_univ o)
    unfold State.unrest at fuel
    have calm : s.CalmOn o := calmOn_of_unrestOn (by omega)
    exact calm
  | succ n ih =>
    unfold reactAll
    split
    · next none_ =>
      rw [← stirs_eq_false_iff, ← Bool.not_eq_true]
      exact List.find?_eq_none.1 none_ o (List.mem_finRange o)
    · next j found =>
      have less := unrest_react ok codes (List.find?_some found)
      exact ih ok.react (fun p => (Upkeep.refl s).react.codes p (codes p)) (by omega)

theorem unrest_le_settleFuel (s : State) : s.unrest ≤ Config.settleFuel := by
  have bound := unrest_le s
  unfold Config.settleFuel
  omega

/-- The last part of settling leaves the outlets calm (log 8). -/
theorem Shown.outletsCalm (h : Shown s u) (ok : s.Consistent) (ok' : u.Consistent) (calm : ∀ o, s.CalmOn o)
    (codes : ∀ p, (u.outlet (terminalOutlet p)).NoCodes) : u.OutletsCalm :=
  ⟨fun o => (h.readAlike o).calmOn ok.table ok'.table (calm o), codes⟩

/-- Settling a consistent state leaves no outlet anything to do (R114 to R117, R119). -/
theorem settle_outletsCalm (ok : s.Consistent) (codes : ∀ p, (s.outlet (terminalOutlet p)).NoCodes) :
    (settle s).OutletsCalm :=
  (Shown.settle s).outletsCalm ok.reactAll ok.settle (reactAll_ends _ ok codes (unrest_le_settleFuel s))
    fun p => (Upkeep.refl s).settle.codes p (codes p)

/-! ## Obligation -/

/-- Settles O14: a reaction leaves its outlet calm and stirs another only by letting an outstanding write be taken, so
that the reactions end; what no reaction follows leaves the outlets as they were. -/
theorem stepLeavesNoOutletWithWork : Obligations.StepLeavesNoOutletWithWork := by
  refine ⟨fun s t ok calm e => ?_, fun s ok codes => settle_outletsCalm ok codes⟩
  refine (step_keeps (P := fun s => s.Consistent ∧ s.OutletsCalm)
    (fun s _ h => ⟨h.1.aside { Aside.refl s with }, h.2.calm, h.2.codes⟩)
    (fun s _ _ _ h => ⟨h.1.aside (Aside.refl s).modRegs, h.2.calm, h.2.codes⟩)
    (fun s u h e => ⟨(h.1.acts e).settle,
      settle_outletsCalm (h.1.acts e) fun p => e.upkeep.codes p (h.2.codes p)⟩)
    (fun s u h e => ⟨h.1.quietly e, e.outletsCalm h.1 h.2⟩) ⟨ok, calm⟩ e).2

end Sys2Proof.Machine
